-- ==== Sys2Proof/Word.lean ====
section
/-!
DEFINITION. The word types of the NX4 and their plainest arithmetic: bytes, 64-bit scalars, 32-bit words, 2,048-bit
vectors (R13), and the reduction of an unbounded integer modulo 2^32 and 2^64 that R9 names `wrap32` and `wrap64`.
-/

namespace Sys2Proof

/-- One byte. -/
abbrev Byte := BitVec 8
/-- A 32-bit word. -/
abbrev W32 := BitVec 32
/-- A 64-bit word: a scalar register, a handle, a mask. -/
abbrev W64 := BitVec 64
/-- A vector register (R13). -/
abbrev V2048 := BitVec 2048

/-- R9: reduction modulo 2^32. -/
def wrap32 (x : Int) : W32 := BitVec.ofInt 32 x
/-- R9: reduction modulo 2^64. -/
def wrap64 (x : Int) : W64 := BitVec.ofInt 64 x

/-- Bit i of a natural number. -/
def bitOf (x i : Nat) : Bool := x / 2 ^ i % 2 == 1
/-- The `len` bits of x from bit `lo` upward. -/
def fieldOf (x lo len : Nat) : Nat := x / 2 ^ lo % 2 ^ len
/-- 1 for true and 0 for false. -/
def b2n (b : Bool) : Nat := if b then 1 else 0
/-- x read as a w-bit two's complement number. -/
def signedOf (w x : Nat) : Int := if x % 2 ^ w < 2 ^ (w - 1) then (x % 2 ^ w : Nat) else (x % 2 ^ w : Nat) - (2 ^ w : Nat)
/-- An integer reduced to w bits. -/
def wrapN (w : Nat) (x : Int) : Nat := (x % (2 ^ w : Nat)).toNat

end Sys2Proof
end

