-- ==== Sys2Proof/Syntax.lean ====
section
/-!
DEFINITION. The syntax of the NX4 model: one constructor of `Instr` for each row of spec/opcode_table.json.
Rows with an encoding are slot operations (R60 to R78); their arguments are the fields of the row, each at its own
width, under the table's names. Rows without an encoding are the part's other steps (spec/95_what_each_step_holds.md);
their arguments name what the step acts on, or carry what the outside world supplies.
-/

namespace Sys2Proof

/-- An object's place in the object tables: home package and object number (R5). -/
structure ObjKey where
  home : Nat
  number : Nat
  deriving DecidableEq, Repr

/-- A placement of a team (R330): the cluster, the physical row of each relative row and, for each relative row,
the physical column of each relative column. -/
structure Placement where
  cluster : Nat
  rows : List Nat
  cols : List (List Nat)
  deriving DecidableEq, Repr

/-- A network packet as it arrives (R354 to R356): port, connection, sequence number, resource index, job identifier,
offset and payload. -/
structure Packet where
  port : Nat
  conn : Nat
  seq : Nat
  resource : Nat
  job : Nat
  offset : Nat
  payload : List Byte
  deriving DecidableEq, Repr

/-- A descriptor chain of a control or submit request (R344): the driver-readable bytes and the number of
device-writable bytes. -/
structure Chain where
  bytes : List Byte
  writable : Nat
  deriving DecidableEq, Repr

/-- A request of an admin queue (R388): its op, flags and tag; of the SPDM message of op 1 the request code, the version byte,
whether its fields are well formed, and whether a signature is requested. -/
structure SpdmRequest where
  op : Nat
  flags : Nat
  tag : BitVec 32
  code : Nat
  version : BitVec 8
  wellFormed : Bool
  signed : Bool
  deriving DecidableEq, Repr

/-- A network port as the stored configuration or service 50 sets it (R354). -/
structure PortRecord where
  enabled : Bool
  hasV4 : Bool
  ipv6 : BitVec 128
  prefix6 : Nat
  ipv4 : BitVec 32
  prefix4 : Nat
  deriving DecidableEq, Repr

/-- One partition of the stored configuration (R400, R391, R265): its number, its clusters, its power cap in watts
(0: none), its near-tier quota in 2 MiB pages on each die, the stream of each of its submit queues, and its further streams
(R320). -/
structure PartitionRecord where
  number : Nat
  clusters : List Nat
  cap : BitVec 16
  quotas : List Nat
  streams : List Nat
  assigned : List Nat
  deriving DecidableEq, Repr

/-- The stored configuration (R400): package number, network owner, partitions, expert-buffer pool pages of each die (R229), network
ports and MAC base. -/
structure StoredConfig where
  package : Nat
  owner : Nat
  partitions : List PartitionRecord
  pools : List Nat
  ports : List PortRecord
  macBase : BitVec 48
  deriving DecidableEq, Repr

/-- What bring-up finds (R393, R386, R374, R400): the step that fails, if any; the digests of the measured stages in
the order of R386 (registers 0 to 5); the fuse state word; the fused defect words of the 48 clusters; and the stored
configuration with which the package is provisioned, if it has not been. -/
structure BootRecord where
  failStep : Option Nat
  digests : List (BitVec 256)
  fuses : BitVec 64
  defects : List (BitVec 32)
  config : StoredConfig
  deriving DecidableEq, Repr

/-- The operations and events of spec/opcode_table.json, one constructor for each row. -/
inductive Instr where
  /-- NOP (R61): The all-zero slot word, valid in every slot, does nothing and adds no issue condition. -/
  | nop
  /-- BR (R90): When its predicate holds, branches to own index plus offset, with fetch ahead on the fall-through path. -/
  | br (p : BitVec 1) (c : BitVec 4) (o : BitVec 21)
  /-- BRP (R91): Branches as br does, but fetch runs ahead on the target path. -/
  | brp (p : BitVec 1) (c : BitVec 4) (o : BitVec 21)
  /-- BRX (R90): When its predicate holds, branches to own index plus offset plus a signed scalar register. -/
  | brx (p : BitVec 1) (c : BitVec 4) (x : BitVec 6) (o : BitVec 15)
  /-- CALL (R90): When its predicate holds, pushes own index plus one onto the return stack and branches, trapping at depth 16. -/
  | call (p : BitVec 1) (c : BitVec 4) (o : BitVec 21)
  /-- RET (R90): When its predicate holds, pops a return index and transfers to it, trapping when the stack is empty. -/
  | ret (p : BitVec 1) (c : BitVec 4)
  /-- NEST (R92): Writes the loop counter of a level with an immediate count. -/
  | nest (l : BitVec 3) (c : BitVec 16)
  /-- NEST_REG (R92): Writes the loop counter of a level from a scalar register, saturating at 0xFFFFFFFF. -/
  | nestReg (l : BitVec 3) (s : BitVec 6)
  /-- LBODY (R93): Declares a zero-overhead loop body of 1 to 32 following bundles at a level, or skips it when the counter is 0. -/
  | lbody (l : BitVec 3) (n : BitVec 5)
  /-- LBRK (R96): When its predicate holds, ends the loop body of a level and every body nested in it. -/
  | lbrk (p : BitVec 1) (c : BitVec 4) (l : BitVec 3)
  /-- ROT (R97): Decrements the vector and predicate rotation bases when its bundle retires. -/
  | rot
  /-- CHKPT (R98): Closes a checkpoint region: retires the bundle, releases withheld effects, clears read bits, increments ckcount and takes the shadow. -/
  | chkpt
  /-- MARK (R102): Writes the team's marker and eta, triggers forecast entries and performs the require check. -/
  | mark (k : BitVec 16) (s : BitVec 6)
  /-- BAR (R103): Arrives at a team barrier, takes a checkpoint and waits with pending wait set. -/
  | bar
  /-- SSTEP (R104): Arrives at a launch-wide superstep, takes a checkpoint and waits. -/
  | sstep
  /-- WAIT (R105): Takes a checkpoint and waits until a token register is no longer pending. -/
  | wait (s : BitVec 6)
  /-- YIELD (R106): Hands issue to the next ready context after its bundle retires. -/
  | yield
  /-- EXIT (R107): Releases withheld effects and ends the context, which then counts as arrived at every later barrier. -/
  | exit
  /-- TRAP (R108): Raises a service trap with a program code, rolling the context back so that Rilsia ends the launch. -/
  | trap (c : BitVec 16)
  /-- BKTJ (R110): Selects the first bucket whose limit covers a count, rounds the count up and jumps, or falls through setting a predicate. -/
  | bktj (s : BitVec 6) (p : BitVec 4)
  /-- SETB (R109): Writes a bucket entry's limit and target. -/
  | setb (b : BitVec 3) (s : BitVec 6) (o : BitVec 17)
  /-- ADD (R111): Writes the wrapping sum of two scalar registers at width w. -/
  | add (g : BitVec 5) (d : BitVec 6) (a : BitVec 6) (b : BitVec 6) (w : BitVec 3)
  /-- ADDI (R112): Writes a scalar plus a signed 9-bit immediate, wrapping at 64 bits. -/
  | addi (g : BitVec 5) (d : BitVec 6) (a : BitVec 6) (i : BitVec 9)
  /-- SUB (R111): Writes the wrapping difference of two scalar registers. -/
  | sub (g : BitVec 5) (d : BitVec 6) (a : BitVec 6) (b : BitVec 6) (w : BitVec 3)
  /-- MUL (R111): Writes the low w bits of a product. -/
  | mul (g : BitVec 5) (d : BitVec 6) (a : BitVec 6) (b : BitVec 6) (w : BitVec 3)
  /-- MULH (R111): Writes the high w bits of a signed product. -/
  | mulh (g : BitVec 5) (d : BitVec 6) (a : BitVec 6) (b : BitVec 6) (w : BitVec 3)
  /-- MULHN (R111): Writes the high w bits of an unsigned product. -/
  | mulhn (g : BitVec 5) (d : BitVec 6) (a : BitVec 6) (b : BitVec 6) (w : BitVec 3)
  /-- DIV (R111): Writes the signed quotient under R57. -/
  | div (g : BitVec 5) (d : BitVec 6) (a : BitVec 6) (b : BitVec 6) (w : BitVec 3)
  /-- DIVN (R111): Writes the unsigned quotient under R57. -/
  | divn (g : BitVec 5) (d : BitVec 6) (a : BitVec 6) (b : BitVec 6) (w : BitVec 3)
  /-- REM (R111): Writes the signed remainder under R57. -/
  | rem (g : BitVec 5) (d : BitVec 6) (a : BitVec 6) (b : BitVec 6) (w : BitVec 3)
  /-- REMN (R111): Writes the unsigned remainder under R57. -/
  | remn (g : BitVec 5) (d : BitVec 6) (a : BitVec 6) (b : BitVec 6) (w : BitVec 3)
  /-- AND (R111): Writes the bitwise AND of two scalars. -/
  | and (g : BitVec 5) (d : BitVec 6) (a : BitVec 6) (b : BitVec 6) (w : BitVec 3)
  /-- OR (R111): Writes the bitwise OR of two scalars. -/
  | or (g : BitVec 5) (d : BitVec 6) (a : BitVec 6) (b : BitVec 6) (w : BitVec 3)
  /-- XOR (R111): Writes the bitwise XOR of two scalars. -/
  | xor (g : BitVec 5) (d : BitVec 6) (a : BitVec 6) (b : BitVec 6) (w : BitVec 3)
  /-- ANDN (R111): Writes a AND NOT b. -/
  | andn (g : BitVec 5) (d : BitVec 6) (a : BitVec 6) (b : BitVec 6) (w : BitVec 3)
  /-- SHL (R111): Shifts left by b modulo w. -/
  | shl (g : BitVec 5) (d : BitVec 6) (a : BitVec 6) (b : BitVec 6) (w : BitVec 3)
  /-- SHR (R111): Shifts logically right by b modulo w. -/
  | shr (g : BitVec 5) (d : BitVec 6) (a : BitVec 6) (b : BitVec 6) (w : BitVec 3)
  /-- SAR (R111): Shifts arithmetically right by b modulo w. -/
  | sar (g : BitVec 5) (d : BitVec 6) (a : BitVec 6) (b : BitVec 6) (w : BitVec 3)
  /-- ROTL (R111): Rotates left within w bits. -/
  | rotl (g : BitVec 5) (d : BitVec 6) (a : BitVec 6) (b : BitVec 6) (w : BitVec 3)
  /-- MIN (R111): Writes the signed minimum. -/
  | min (g : BitVec 5) (d : BitVec 6) (a : BitVec 6) (b : BitVec 6) (w : BitVec 3)
  /-- MAX (R111): Writes the signed maximum. -/
  | max (g : BitVec 5) (d : BitVec 6) (a : BitVec 6) (b : BitVec 6) (w : BitVec 3)
  /-- MINN (R111): Writes the unsigned minimum. -/
  | minn (g : BitVec 5) (d : BitVec 6) (a : BitVec 6) (b : BitVec 6) (w : BitVec 3)
  /-- MAXN (R111): Writes the unsigned maximum. -/
  | maxn (g : BitVec 5) (d : BitVec 6) (a : BitVec 6) (b : BitVec 6) (w : BitVec 3)
  /-- CLZ (R113): Counts the leading zero bits of the w-bit operand. -/
  | clz (g : BitVec 5) (d : BitVec 6) (a : BitVec 6) (w : BitVec 3)
  /-- CTZ (R113): Counts the trailing zero bits. -/
  | ctz (g : BitVec 5) (d : BitVec 6) (a : BitVec 6) (w : BitVec 3)
  /-- POPC (R113): Counts the one bits. -/
  | popc (g : BitVec 5) (d : BitVec 6) (a : BitVec 6) (w : BitVec 3)
  /-- SEXT (R113): Sign-extends from bit k. -/
  | sext (g : BitVec 5) (d : BitVec 6) (a : BitVec 6) (k : BitVec 6) (w : BitVec 3)
  /-- ZEXT (R113): Zero-extends from bit k. -/
  | zext (g : BitVec 5) (d : BitVec 6) (a : BitVec 6) (k : BitVec 6) (w : BitVec 3)
  /-- MOVI (R114): Writes a sign-extended 15-bit immediate. -/
  | movi (g : BitVec 5) (d : BitVec 6) (i : BitVec 15)
  /-- MOVK (R114): Shifts the destination left by 15 and ORs in a 15-bit immediate. -/
  | movk (g : BitVec 5) (d : BitVec 6) (i : BitVec 15)
  /-- MOV (R113): Copies a scalar, or its low 32 bits sign-extended. -/
  | mov (g : BitVec 5) (d : BitVec 6) (a : BitVec 6) (w : BitVec 3)
  /-- SEL (R115): Writes one of two scalars according to a predicate. -/
  | sel (g : BitVec 5) (d : BitVec 6) (a : BitVec 6) (b : BitVec 6) (p : BitVec 3)
  /-- CMP (R116): Writes a predicate with an integer comparison of two scalars. -/
  | cmp (g : BitVec 5) (p : BitVec 4) (a : BitVec 6) (b : BitVec 6) (c : BitVec 4) (w : BitVec 1)
  /-- PAND (R116): Writes the AND of two optionally inverted predicates. -/
  | pand (g : BitVec 5) (d : BitVec 4) (a : BitVec 4) (b : BitVec 4) (x : BitVec 1) (y : BitVec 1)
  /-- POR (R116): Writes the OR of two optionally inverted predicates. -/
  | por (g : BitVec 5) (d : BitVec 4) (a : BitVec 4) (b : BitVec 4) (x : BitVec 1) (y : BitVec 1)
  /-- PNOT (R116): Writes the negation of a predicate. -/
  | pnot (g : BitVec 5) (d : BitVec 4) (a : BitVec 4)
  /-- S2P (R116): Writes a predicate true when a scalar is non-zero. -/
  | s2p (g : BitVec 5) (p : BitVec 4) (a : BitVec 6)
  /-- P2S (R116): Writes 1 or 0 into a scalar from a predicate. -/
  | p2s (g : BitVec 5) (d : BitVec 6) (p : BitVec 4)
  /-- RDSR (R117): Reads a special register zero-extended into a scalar. -/
  | rdsr (g : BitVec 5) (d : BitVec 6) (r : BitVec 8)
  /-- WRSR (R117): Writes a special register at retirement, with the fflags merge and the rmode range check. -/
  | wrsr (g : BitVec 5) (a : BitVec 6) (r : BitVec 8)
  /-- SFADD (R118): Scalar floating-point addition rounded in rmode. -/
  | sfadd (g : BitVec 5) (d : BitVec 6) (a : BitVec 6) (b : BitVec 6) (w : BitVec 3)
  /-- SFMUL (R118): Scalar floating-point multiplication. -/
  | sfmul (g : BitVec 5) (d : BitVec 6) (a : BitVec 6) (b : BitVec 6) (w : BitVec 3)
  /-- SFFMA (R118): Scalar fused multiply-add into the destination. -/
  | sffma (g : BitVec 5) (d : BitVec 6) (a : BitVec 6) (b : BitVec 6) (w : BitVec 3)
  /-- SFCMP (R118): Writes a predicate with a floating comparison. -/
  | sfcmp (g : BitVec 5) (p : BitVec 4) (a : BitVec 6) (b : BitVec 6) (c : BitVec 4) (w : BitVec 1)
  /-- SFCVT (R118): Converts a scalar between formats per R48 to R50. -/
  | sfcvt (g : BitVec 5) (d : BitVec 6) (a : BitVec 6) (t : BitVec 4) (s : BitVec 4)
  /-- SFXF (R118): Computes a correctly rounded math-library function of a scalar. -/
  | sfxf (g : BitVec 5) (d : BitVec 6) (a : BitVec 6) (f : BitVec 4) (w : BitVec 1)
  /-- QSET (R119): Sets one coordinate of an index tuple to an immediate. -/
  | qset (g : BitVec 5) (q : BitVec 4) (j : BitVec 3) (i : BitVec 14)
  /-- QADD (R119): Adds two index tuples with saturation. -/
  | qadd (g : BitVec 5) (d : BitVec 4) (a : BitVec 4) (b : BitVec 4)
  /-- QINC (R119): Adds an immediate to one coordinate with saturation. -/
  | qinc (g : BitVec 5) (q : BitVec 4) (j : BitVec 3) (i : BitVec 14)
  /-- QCMP (R119): Writes a predicate comparing one coordinate of two tuples. -/
  | qcmp (g : BitVec 5) (p : BitVec 4) (a : BitVec 4) (b : BitVec 4) (j : BitVec 3) (c : BitVec 4)
  /-- QMOV (R119): Copies an index tuple. -/
  | qmov (g : BitVec 5) (d : BitVec 4) (a : BitVec 4)
  /-- Q2S (R119): Copies a coordinate into a scalar, sign-extended. -/
  | q2s (g : BitVec 5) (d : BitVec 6) (a : BitVec 4) (j : BitVec 3)
  /-- S2Q (R119): Writes a coordinate from a scalar with saturation. -/
  | s2q (g : BitVec 5) (q : BitVec 4) (j : BitVec 3) (a : BitVec 6)
  /-- HMOV (R120): Copies a handle register. -/
  | hmov (g : BitVec 5) (d : BitVec 5) (a : BitVec 5)
  /-- HLD (R120): Loads a handle register from a scalar without checking it. -/
  | hld (g : BitVec 5) (d : BitVec 5) (a : BitVec 6)
  /-- GSET (R122): Writes one field of a shape entry, or copies an entry, and recomputes its valid bit. -/
  | gset (g : BitVec 5) (d : BitVec 3) (f : BitVec 3) (a : BitVec 6)
  /-- IADD (R123): Writes the 64-bit wrapping sum of two scalars from the index slot. -/
  | iadd (g : BitVec 5) (d : BitVec 6) (a : BitVec 6) (b : BitVec 6)
  /-- IMOVI (R123): Writes a sign-extended immediate from the index slot. -/
  | imovi (g : BitVec 5) (d : BitVec 6) (i : BitVec 15)
  /-- NODC (R123): Computes the child node of a tree node under the sign of an FP64 value. -/
  | nodc (g : BitVec 5) (d : BitVec 6) (a : BitVec 6) (b : BitVec 6)
  /-- NODL (R123): Computes the heap base 2^sa − 1 of a tree level. -/
  | nodl (g : BitVec 5) (d : BitVec 6) (a : BitVec 6)
  /-- VADD (R129): Adds floating lanes. -/
  | vadd (g : BitVec 5) (d : BitVec 6) (a : BitVec 6) (b : BitVec 6) (t : BitVec 2) (m : BitVec 1)
  /-- VSUB (R129): Subtracts floating lanes. -/
  | vsub (g : BitVec 5) (d : BitVec 6) (a : BitVec 6) (b : BitVec 6) (t : BitVec 2) (m : BitVec 1)
  /-- VMUL (R129): Multiplies floating lanes. -/
  | vmul (g : BitVec 5) (d : BitVec 6) (a : BitVec 6) (b : BitVec 6) (t : BitVec 2) (m : BitVec 1)
  /-- VFMA (R129): Lane fused multiply-add into the destination. -/
  | vfma (g : BitVec 5) (d : BitVec 6) (a : BitVec 6) (b : BitVec 6) (t : BitVec 2) (m : BitVec 1)
  /-- VFMS (R129): Lane fused multiply-subtract of the destination. -/
  | vfms (g : BitVec 5) (d : BitVec 6) (a : BitVec 6) (b : BitVec 6) (t : BitVec 2) (m : BitVec 1)
  /-- VFNMA (R129): Lane negated multiply plus the destination. -/
  | vfnma (g : BitVec 5) (d : BitVec 6) (a : BitVec 6) (b : BitVec 6) (t : BitVec 2) (m : BitVec 1)
  /-- VDIV (R129): Divides floating lanes. -/
  | vdiv (g : BitVec 5) (d : BitVec 6) (a : BitVec 6) (b : BitVec 6) (t : BitVec 2) (m : BitVec 1)
  /-- VSQRT (R130): Takes the square root of floating lanes. -/
  | vsqrt (g : BitVec 5) (d : BitVec 6) (a : BitVec 6) (t : BitVec 2) (m : BitVec 1)
  /-- VMIN (R129): Lane floating minimum per R52. -/
  | vmin (g : BitVec 5) (d : BitVec 6) (a : BitVec 6) (b : BitVec 6) (t : BitVec 2) (m : BitVec 1)
  /-- VMAX (R129): Lane floating maximum per R52. -/
  | vmax (g : BitVec 5) (d : BitVec 6) (a : BitVec 6) (b : BitVec 6) (t : BitVec 2) (m : BitVec 1)
  /-- VABS (R130): Clears the sign bit of each lane. -/
  | vabs (g : BitVec 5) (d : BitVec 6) (a : BitVec 6) (t : BitVec 2) (m : BitVec 1)
  /-- VNEG (R130): Inverts the sign bit of each lane. -/
  | vneg (g : BitVec 5) (d : BitVec 6) (a : BitVec 6) (t : BitVec 2) (m : BitVec 1)
  /-- VCPYS (R129): Copies magnitudes of a with the signs of b. -/
  | vcpys (g : BitVec 5) (d : BitVec 6) (a : BitVec 6) (b : BitVec 6) (t : BitVec 2) (m : BitVec 1)
  /-- VCMP (R133): Compares lanes and writes one mask bit per lane. -/
  | vcmp (g : BitVec 5) (m : BitVec 3) (a : BitVec 6) (b : BitVec 6) (c : BitVec 3) (t : BitVec 2) (k : BitVec 1)
  /-- VSEL (R134): Selects lanes of a or b by the bits of m0. -/
  | vsel (g : BitVec 5) (d : BitVec 6) (a : BitVec 6) (b : BitVec 6) (t : BitVec 2)
  /-- VCVT (R135): Converts lanes between element formats. -/
  | vcvt (g : BitVec 5) (d : BitVec 6) (a : BitVec 6) (t : BitVec 4) (s : BitVec 4) (m : BitVec 1)
  /-- VRND (R131): Rounds each lane to an integral value in a selected mode. -/
  | vrnd (g : BitVec 5) (d : BitVec 6) (a : BitVec 6) (f : BitVec 4) (t : BitVec 2) (m : BitVec 1)
  /-- VXF (R132): Computes a math-library function on each lane. -/
  | vxf (g : BitVec 5) (d : BitVec 6) (a : BitVec 6) (f : BitVec 4) (t : BitVec 2) (m : BitVec 1)
  /-- VIADD (R136): Adds integer lanes, wrapping. -/
  | viadd (g : BitVec 5) (d : BitVec 6) (a : BitVec 6) (b : BitVec 6) (t : BitVec 2) (m : BitVec 1)
  /-- VISUB (R136): Subtracts integer lanes. -/
  | visub (g : BitVec 5) (d : BitVec 6) (a : BitVec 6) (b : BitVec 6) (t : BitVec 2) (m : BitVec 1)
  /-- VIMUL (R136): Low half of integer lane products. -/
  | vimul (g : BitVec 5) (d : BitVec 6) (a : BitVec 6) (b : BitVec 6) (t : BitVec 2) (m : BitVec 1)
  /-- VIMULH (R136): High half of signed integer lane products. -/
  | vimulh (g : BitVec 5) (d : BitVec 6) (a : BitVec 6) (b : BitVec 6) (t : BitVec 2) (m : BitVec 1)
  /-- VAND (R137): Bitwise AND of two whole vectors. -/
  | vand (g : BitVec 5) (d : BitVec 6) (a : BitVec 6) (b : BitVec 6) (m : BitVec 1)
  /-- VOR (R137): Bitwise OR of two whole vectors. -/
  | vor (g : BitVec 5) (d : BitVec 6) (a : BitVec 6) (b : BitVec 6) (m : BitVec 1)
  /-- VXOR (R137): Bitwise XOR of two whole vectors. -/
  | vxor (g : BitVec 5) (d : BitVec 6) (a : BitVec 6) (b : BitVec 6) (m : BitVec 1)
  /-- VNOT (R137): Inverts a whole vector. -/
  | vnot (g : BitVec 5) (d : BitVec 6) (a : BitVec 6) (m : BitVec 1)
  /-- VSHL (R136): Shifts integer lanes left. -/
  | vshl (g : BitVec 5) (d : BitVec 6) (a : BitVec 6) (b : BitVec 6) (t : BitVec 2) (m : BitVec 1)
  /-- VSHR (R136): Shifts integer lanes logically right. -/
  | vshr (g : BitVec 5) (d : BitVec 6) (a : BitVec 6) (b : BitVec 6) (t : BitVec 2) (m : BitVec 1)
  /-- VSAR (R136): Shifts integer lanes arithmetically right. -/
  | vsar (g : BitVec 5) (d : BitVec 6) (a : BitVec 6) (b : BitVec 6) (t : BitVec 2) (m : BitVec 1)
  /-- VIMIN (R136): Signed minimum of integer lanes. -/
  | vimin (g : BitVec 5) (d : BitVec 6) (a : BitVec 6) (b : BitVec 6) (t : BitVec 2) (m : BitVec 1)
  /-- VIMAX (R136): Signed maximum of integer lanes. -/
  | vimax (g : BitVec 5) (d : BitVec 6) (a : BitVec 6) (b : BitVec 6) (t : BitVec 2) (m : BitVec 1)
  /-- VIMINN (R136): Unsigned minimum of integer lanes. -/
  | viminn (g : BitVec 5) (d : BitVec 6) (a : BitVec 6) (b : BitVec 6) (t : BitVec 2) (m : BitVec 1)
  /-- VIMAXN (R136): Unsigned maximum of integer lanes. -/
  | vimaxn (g : BitVec 5) (d : BitVec 6) (a : BitVec 6) (b : BitVec 6) (t : BitVec 2) (m : BitVec 1)
  /-- VPOPC (R136): Counts the one bits of each integer lane. -/
  | vpopc (g : BitVec 5) (d : BitVec 6) (a : BitVec 6) (t : BitVec 2) (m : BitVec 1)
  /-- VCLZ (R136): Counts the leading zero bits of each integer lane. -/
  | vclz (g : BitVec 5) (d : BitVec 6) (a : BitVec 6) (t : BitVec 2) (m : BitVec 1)
  /-- VMOV (R137): Copies a whole vector. -/
  | vmov (g : BitVec 5) (d : BitVec 6) (a : BitVec 6) (m : BitVec 1)
  /-- VBCAST (R138): Broadcasts the low bits of a scalar into every active lane. -/
  | vbcast (g : BitVec 5) (d : BitVec 6) (a : BitVec 6) (t : BitVec 2) (m : BitVec 1)
  /-- VINS (R138): Inserts a scalar into one lane. -/
  | vins (g : BitVec 5) (d : BitVec 6) (a : BitVec 6) (b : BitVec 6) (t : BitVec 2)
  /-- VEXT (R138): Extracts one lane into a scalar. -/
  | vext (g : BitVec 5) (d : BitVec 6) (a : BitVec 6) (b : BitVec 6) (t : BitVec 2)
  /-- VPERM (R139): Permutes the bytes of a vector by byte indices. -/
  | vperm (g : BitVec 5) (d : BitVec 6) (a : BitVec 6) (b : BitVec 6) (m : BitVec 1)
  /-- VSLIDE (R140): Slides lanes by a signed immediate, filling with zero. -/
  | vslide (g : BitVec 5) (d : BitVec 6) (a : BitVec 6) (b : BitVec 6) (t : BitVec 2) (m : BitVec 1)
  /-- VZIP (R141): Interleaves 32-bit elements of two vectors into a register pair. -/
  | vzip (g : BitVec 5) (d : BitVec 6) (a : BitVec 6) (b : BitVec 6)
  /-- VUNZIP (R141): De-interleaves two vectors into a register pair. -/
  | vunzip (g : BitVec 5) (d : BitVec 6) (a : BitVec 6) (b : BitVec 6)
  /-- VCOMPRESS (R142): Packs the lanes selected by m0 into the lowest lanes. -/
  | vcompress (g : BitVec 5) (d : BitVec 6) (a : BitVec 6) (t : BitVec 2)
  /-- VEXPAND (R142): Spreads low lanes into the lanes selected by m0. -/
  | vexpand (g : BitVec 5) (d : BitVec 6) (a : BitVec 6) (t : BitVec 2)
  /-- VRED (R145): Reduces the lanes in the fixed pairwise tree into a scalar. -/
  | vred (g : BitVec 5) (d : BitVec 6) (a : BitVec 6) (f : BitVec 4) (t : BitVec 2) (m : BitVec 1)
  /-- VSCAN (R146): Writes the fixed-order inclusive scan of the lanes. -/
  | vscan (g : BitVec 5) (d : BitVec 6) (a : BitVec 6) (f : BitVec 4) (t : BitVec 2) (m : BitVec 1)
  /-- MAND (R143): ANDs two masks. -/
  | mand (g : BitVec 5) (d : BitVec 3) (a : BitVec 3) (b : BitVec 3)
  /-- MOR (R143): ORs two masks. -/
  | mor (g : BitVec 5) (d : BitVec 3) (a : BitVec 3) (b : BitVec 3)
  /-- MXOR (R143): XORs two masks. -/
  | mxor (g : BitVec 5) (d : BitVec 3) (a : BitVec 3) (b : BitVec 3)
  /-- MNOT (R143): Inverts a mask. -/
  | mnot (g : BitVec 5) (d : BitVec 3) (a : BitVec 3)
  /-- MPOP (R143): Counts the set bits of a mask into a scalar. -/
  | mpop (g : BitVec 5) (d : BitVec 6) (a : BitVec 3)
  /-- MFIRST (R143): Writes the index of the lowest set mask bit, or 64. -/
  | mfirst (g : BitVec 5) (d : BitVec 6) (a : BitVec 3)
  /-- VHIST (R147): Adds lane exponents into a 64-bin histogram. -/
  | vhist (g : BitVec 5) (d : BitVec 6) (a : BitVec 6) (t : BitVec 2) (m : BitVec 1)
  /-- VQCLIP (R148): Finds the histogram bin reaching a count and writes its upper bound. -/
  | vqclip (g : BitVec 5) (d : BitVec 6) (a : BitVec 6) (b : BitVec 6) (t : BitVec 2)
  /-- VQUANT (R149): Quantises 64 FP32 lanes into two scaled narrow blocks. -/
  | vquant (g : BitVec 5) (d : BitVec 6) (a : BitVec 6) (t : BitVec 4)
  /-- VDEQ (R152): Dequantises two scaled blocks into 64 FP32 lanes. -/
  | vdeq (g : BitVec 5) (d : BitVec 6) (a : BitVec 6) (s : BitVec 4)
  /-- MXLW (R157): Snapshots one or two tiles and starts loading the shadow weight plane. -/
  | mxlw (g : BitVec 5) (t : BitVec 7) (f : BitVec 4) (s : BitVec 2)
  /-- MXSW (R158): Exchanges the shadow and active weight planes when the shadow is fresh. -/
  | mxsw (g : BitVec 5)
  /-- MXS (R162): Starts a stream of activation rows against the active plane into an accumulator bank. -/
  | mxs (g : BitVec 5) (b : BitVec 4) (t : BitVec 7) (f : BitVec 4) (r : BitVec 6)
  /-- MXRANK (R163): Starts a rank-mode stream counting larger scores into an int32 bank. -/
  | mxrank (g : BitVec 5) (b : BitVec 4) (t : BitVec 7) (r : BitVec 6)
  /-- MXZ (R159): Writes +0 into every position of the shadow plane. -/
  | mxz (g : BitVec 5)
  /-- ACZ (R168): Writes zero into a range of bank rows. -/
  | acz (g : BitVec 5) (b : BitVec 4) (r : BitVec 6) (c : BitVec 6)
  /-- ACRD (R169): Converts bank rows into a tile and writes its header. -/
  | acrd (g : BitVec 5) (b : BitVec 4) (t : BitVec 7) (r : BitVec 6) (f : BitVec 4)
  /-- ACWR (R169): Converts tile rows into bank rows as a plain write. -/
  | acwr (g : BitVec 5) (b : BitVec 4) (t : BitVec 7) (r : BitVec 6) (f : BitVec 4)
  /-- ACADD (R169): Adds tile rows into bank rows with one rounding. -/
  | acadd (g : BitVec 5) (b : BitVec 4) (t : BitVec 7) (r : BitVec 6) (f : BitVec 4)
  /-- ACMV (R170): Moves consecutive bank rows to or from a vector register. -/
  | acmv (g : BitVec 5) (b : BitVec 4) (v : BitVec 6) (r : BitVec 6) (m : BitVec 5)
  /-- ACFMT (R171): Converts all rows of a bank to a format and retags it. -/
  | acfmt (g : BitVec 5) (b : BitVec 4) (f : BitVec 4)
  /-- ACSCL (R172): Multiplies bank rows by a scalar value. -/
  | acscl (g : BitVec 5) (b : BitVec 4) (s : BitVec 6) (r : BitVec 6)
  /-- ACSCL_E (R172): Multiplies bank rows by 2 to a signed scalar power. -/
  | acsclE (g : BitVec 5) (b : BitVec 4) (s : BitVec 6) (r : BitVec 6)
  /-- ACBIAS (R172): Adds vector lanes as column biases to bank rows. -/
  | acbias (g : BitVec 5) (b : BitVec 4) (v : BitVec 6) (r : BitVec 6)
  /-- TLD (R175): Loads 256 bytes of a tile into a vector register. -/
  | tld (g : BitVec 5) (v : BitVec 6) (t : BitVec 7) (r : BitVec 5)
  /-- TST (R175): Stores a vector register into 256 bytes of a tile. -/
  | tst (g : BitVec 5) (v : BitVec 6) (t : BitVec 7) (r : BitVec 5)
  /-- TLDS (R176): Loads a 4- or 8-byte tile element into a scalar. -/
  | tlds (g : BitVec 5) (s : BitVec 6) (t : BitVec 7) (i : BitVec 6) (z : BitVec 2)
  /-- TSTS (R176): Stores a scalar into a 4- or 8-byte tile element. -/
  | tsts (g : BitVec 5) (s : BitVec 6) (t : BitVec 7) (i : BitVec 6) (z : BitVec 2)
  /-- TFILL (R177): Fills a tile with a scalar pattern and optionally sets it full. -/
  | tfill (g : BitVec 5) (t : BitVec 7) (s : BitVec 6) (f : BitVec 1) (w : BitVec 2)
  /-- TFREE (R177): Clears a tile's full bit. -/
  | tfree (g : BitVec 5) (t : BitVec 7)
  /-- TSETF (R177): Sets a tile's full bit with the context as owner. -/
  | tsetf (g : BitVec 5) (t : BitVec 7)
  /-- TXFER (R181): Sends a tile to the same-numbered tile of one core of the team. -/
  | txfer (g : BitVec 5) (t : BitVec 7) (k : BitVec 6) (r : BitVec 2) (c : BitVec 3)
  /-- TXFER_ROW (R181): Sends a tile to every other core of the team in one row. -/
  | txferRow (g : BitVec 5) (t : BitVec 7) (k : BitVec 6) (r : BitVec 2)
  /-- TXFER_ALL (R181): Sends a tile to every other core of the team. -/
  | txferAll (g : BitVec 5) (t : BitVec 7) (k : BitVec 6)
  /-- TCOPY (R178): Copies bytes and header fields from one tile to another. -/
  | tcopy (g : BitVec 5) (d : BitVec 7) (s : BitVec 7) (n : BitVec 6)
  /-- TPACK (R179): Packs the tile rows selected by m0 and writes their count. -/
  | tpack (g : BitVec 5) (d : BitVec 7) (s : BitVec 7) (n : BitVec 6)
  /-- TATOM (R180): Captures a withheld atomic update of one tile element. -/
  | tatom (g : BitVec 5) (s : BitVec 6) (t : BitVec 7) (o : BitVec 3) (y : BitVec 2)
  /-- THDR (R177): Reads a tile's header word at once without waiting. -/
  | thdr (g : BitVec 5) (t : BitVec 7) (s : BitVec 6)
  /-- TFMT (R177): Writes a tile's rows, rowbytes, format and scaled bit. -/
  | tfmt (g : BitVec 5) (t : BitVec 7) (s : BitVec 6) (c : BitVec 1) (f : BitVec 4)
  /-- HFET (R215): Reserves a tile and fetches an object region into it from the context's view. -/
  | hfet (g : BitVec 5) (t : BitVec 7) (s : BitVec 6) (h : BitVec 5) (e : BitVec 3)
  /-- HPUT (R217): Captures a tile to write into the context's joined draft at release. -/
  | hput (g : BitVec 5) (t : BitVec 7) (s : BitVec 6) (h : BitVec 5) (e : BitVec 3)
  /-- HGAT (R216): Gathers object rows by indices from the next tile into a tile. -/
  | hgat (g : BitVec 5) (t : BitVec 7) (s : BitVec 6) (h : BitVec 5) (e : BitVec 3)
  /-- HSCA (R217): Captures tile rows to scatter into a draft by indices. -/
  | hsca (g : BitVec 5) (t : BitVec 7) (s : BitVec 6) (h : BitVec 5) (e : BitVec 3)
  /-- HCOPY (R218): Copies blocks from one object's view into another's joined draft, optionally compressing. -/
  | hcopy (g : BitVec 5) (d : BitVec 5) (s : BitVec 5) (t : BitVec 6) (e : BitVec 3) (c : BitVec 2)
  /-- HPFL2 (R219): Brings a range's lines into L2 or the remote-data cache. -/
  | hpfl2 (g : BitVec 5) (s : BitVec 6) (h : BitVec 5) (e : BitVec 3)
  /-- HRES (R219): Asks Rilsia to make every absent element of a range resident. -/
  | hres (g : BitVec 5) (s : BitVec 6) (h : BitVec 5) (e : BitVec 3)
  /-- HPROBE (R219): Writes a mask of rows holding absent elements. -/
  | hprobe (g : BitVec 5) (s : BitVec 6) (h : BitVec 5) (e : BitVec 3)
  /-- HOPEN (R221): Opens or joins an object's draft. -/
  | hopen (g : BitVec 5) (s : BitVec 6) (h : BitVec 5)
  /-- HPUB (R222): Publishes the joined draft as the next version. -/
  | hpub (g : BitVec 5) (s : BitVec 6) (h : BitVec 5)
  /-- HDISC (R222): Discards the joined draft. -/
  | hdisc (g : BitVec 5) (s : BitVec 6) (h : BitVec 5)
  /-- HPIN (R223): Pins the current version, withheld, with count 0. -/
  | hpin (g : BitVec 5) (s : BitVec 6) (h : BitVec 5)
  /-- HPIN_V (R223): Pins the current version in a checkpoint bundle and returns its number. -/
  | hpinV (g : BitVec 5) (s : BitVec 6) (h : BitVec 5)
  /-- HUNPIN (R223): Drops the context's pin of an object. -/
  | hunpin (g : BitVec 5) (s : BitVec 6) (h : BitVec 5)
  /-- HSUB (R224): Registers a one-shot subscription to the next publish, withheld. -/
  | hsub (g : BitVec 5) (s : BitVec 6) (h : BitVec 5) (u : BitVec 1)
  /-- HSUB_V (R224): Registers a subscription in a checkpoint bundle that returns the published version. -/
  | hsubV (g : BitVec 5) (s : BitVec 6) (h : BitVec 5) (u : BitVec 1)
  /-- HUNSUB (R224): Cancels every pending subscription of the context on an object. -/
  | hunsub (g : BitVec 5) (s : BitVec 6) (h : BitVec 5)
  /-- HVER (R225): Returns the current version and the context's view status. -/
  | hver (g : BitVec 5) (s : BitVec 6) (h : BitVec 5)
  /-- HATOM (R226): Captures a withheld atomic on one draft element. -/
  | hatom (g : BitVec 5) (s : BitVec 6) (h : BitVec 5) (q : BitVec 4) (o : BitVec 3) (y : BitVec 3)
  /-- HATOMR (R226): Atomic on one draft element that returns the old value, in a checkpoint bundle. -/
  | hatomr (g : BitVec 5) (s : BitVec 6) (h : BitVec 5) (q : BitVec 4) (o : BitVec 3) (y : BitVec 3)
  /-- HCAS (R226): Compare-and-swap on one draft element, in a checkpoint bundle. -/
  | hcas (g : BitVec 5) (s : BitVec 6) (h : BitVec 5) (q : BitVec 4) (y : BitVec 3)
  /-- TDESC (R238): Descends a batch of rows down a tree into a result tile and path-trace register. -/
  | tdesc (g : BitVec 5) (t : BitVec 7) (s : BitVec 6) (h : BitVec 5) (y : BitVec 3)
  /-- TGRAD (R242): Captures inputs, coefficients and path traces to add node gradients at release. -/
  | tgrad (g : BitVec 5) (t : BitVec 7) (s : BitVec 6) (h : BitVec 5) (y : BitVec 3)
  /-- RBIND (R255): Binds the context to a stage of a stage set. -/
  | rbind (g : BitVec 5) (s : BitVec 6) (h : BitVec 5) (x : BitVec 3)
  /-- RPUT (R256): Injects up to 15 records from a tile into a stage set. -/
  | rput (g : BitVec 5) (t : BitVec 7) (s : BitVec 6) (h : BitVec 5)
  /-- RPUT_LAST (R256): Injects records and counts one close of the set. -/
  | rputLast (g : BitVec 5) (t : BitVec 7) (s : BitVec 6) (h : BitVec 5)
  /-- RPUT_UPD (R256): Updates the payload of the context's held record. -/
  | rputUpd (g : BitVec 5) (t : BitVec 7) (s : BitVec 6) (h : BitVec 5)
  /-- RTAKE (R257): Takes the head record of a stage queue into a tile, in a checkpoint bundle. -/
  | rtake (g : BitVec 5) (t : BitVec 7) (s : BitVec 6) (h : BitVec 5) (x : BitVec 3)
  /-- RDONE (R258): Reports a pass of the held record on a stage. -/
  | rdone (g : BitVec 5) (s : BitVec 6) (h : BitVec 5) (x : BitVec 3)
  /-- RDONE_FAIL (R258): Reports a fail of the held record on a stage. -/
  | rdoneFail (g : BitVec 5) (s : BitVec 6) (h : BitVec 5) (x : BitVec 3)
  /-- RSTAT (R259): Lands a stage set's statistics into a tile. -/
  | rstat (g : BitVec 5) (t : BitVec 7) (s : BitVec 6) (h : BitVec 5)
  /-- XSEND (R227): Captures masked tile rows to offer to an expert buffer. -/
  | xsend (g : BitVec 5) (t : BitVec 7) (s : BitVec 6) (h : BitVec 5)
  /-- XSEND_LAST (R227): Offers masked rows to an expert buffer with a last mark. -/
  | xsendLast (g : BitVec 5) (t : BitVec 7) (s : BitVec 6) (h : BitVec 5)
  /-- XREF (R228): Lands the context's refusal list into a tile and marks the entries read. -/
  | xref (g : BitVec 5) (t : BitVec 7) (s : BitVec 6)
  /-- CSNAP (R230): At release, snapshots and clears the cluster's routing counters into a tile. -/
  | csnap (g : BitVec 5) (t : BitVec 7) (s : BitVec 6)
  /-- CREAD (R230): Lands the routing counters into a tile without clearing them. -/
  | cread (g : BitVec 5) (t : BitVec 7) (s : BitVec 6)
  /-- FCBIND (R267): Binds a forecast table to the launch and triggers due entries. -/
  | fcbind (g : BitVec 5) (s : BitVec 6) (h : BitVec 5)
  /-- FCBIND_UN (R267): Removes the launch's forecast binding and disarms every entry. -/
  | fcbindUn (g : BitVec 5) (s : BitVec 6)
  /-- FCSTAT (R272): Lands the launch's sixteen forecast counters into a tile. -/
  | fcstat (g : BitVec 5) (t : BitVec 7) (s : BitVec 6)
  /-- NSEND (R231): Captures tile bytes to send through a network endpoint at release. -/
  | nsend (g : BitVec 5) (t : BitVec 7) (s : BitVec 6) (h : BitVec 5)
  /-- NEXP (R232): Adds expected bytes to a receiving object's pending field. -/
  | nexp (g : BitVec 5) (s : BitVec 6) (h : BitVec 5)
  /-- NCNT (R232): Returns a receiving object's completion counter and pending bytes. -/
  | ncnt (g : BitVec 5) (s : BitVec 6) (h : BitVec 5)
  /-- SVC (R233): Calls a Rilsia service with six arguments, in a checkpoint bundle, journalled by call id. -/
  | svc (g : BitVec 5) (s : BitVec 6) (n : BitVec 10)
  /-- EMPTY_TILE_WAIT_RETIRE (R29): A slot waiting on an empty tile reads it once the full bit is set and retires. -/
  | emptyTileWaitRetire (core : Nat) (ctx : Nat) (slot : Nat)
  /-- MARK_STALL_RETIRE (R270): A mark stalled on forecast misses retires once every missing entry is near-resident or has failed. -/
  | markStallRetire (core : Nat) (ctx : Nat)
  /-- BARRIER_SATISFIED (R103): A waiting bar retires once every team context has arrived or exited, clearing pending wait in live state and shadow. -/
  | barrierSatisfied (core : Nat) (ctx : Nat)
  /-- SUPERSTEP_SATISFIED (R104): A waiting sstep retires once every context of the launch has arrived or exited. -/
  | superstepSatisfied (core : Nat) (ctx : Nat)
  /-- WAIT_SATISFIED (R105): A waiting wait retires once its token is no longer pending. -/
  | waitSatisfied (core : Nat) (ctx : Nat)
  /-- ISSUE_RESUME (R31): After no context was ready, the core resumes issue with the first context that becomes ready. -/
  | issueResume (core : Nat)
  /-- ACCUMULATOR_ROW_UPDATE (R27): At cycle c+14+m a stream adds its products for row m into the bank and ORs its flags. -/
  | accumulatorRowUpdate (core : Nat)
  /-- WEIGHT_LOAD_COMPLETE (R157): A background weight load finishes, writing the shadow plane record and setting the fresh bit. -/
  | weightLoadComplete (core : Nat)
  /-- HANDLE_RESOLUTION (R208): The HRU finishes checking a command's handle, rights, coordinates and presence, trapping on the first failure. -/
  | handleResolution (cmd : Nat)
  /-- TILE_LANDING (R215): An engine lands data into a reserved tile, writes its header and sets full. -/
  | tileLanding (cmd : Nat)
  /-- TXFER_COMPLETION (R182): A cluster transfer lands at its destinations or is refused, and its token is written. -/
  | txferCompletion (cmd : Nat)
  /-- COMMAND_COMPLETION (R206): An engine performs a command and writes its completion word, followers and flags. -/
  | commandCompletion (cmd : Nat)
  /-- ELEMENT_ATOMIC (R226): An element atomic arrives at the home and is applied indivisibly. -/
  | elementAtomic (cmd : Nat)
  /-- PUBLISH_STEP (R309): A publish takes effect at the home in one indivisible step that advances the current version. -/
  | publishStep (cmd : Nat)
  /-- XSEND_ADMISSION (R227): An offer arrives at an expert buffer's home and is admitted whole or refused whole. -/
  | xsendAdmission (cmd : Nat)
  /-- DESCENT (R239): The Descent Unit serves a released descent, walking rows level by level and landing the result. -/
  | descent (cmd : Nat)
  /-- ROUTING_STEP (R253): A released router command takes its step at the Harp, routing, sinking, retiring or handing out records. -/
  | routingStep (cmd : Nat)
  /-- FORECAST_ACTION (R269): A tier engine starts a triggered forecast action on its range. -/
  | forecastAction (act : Nat)
  /-- TIER_PAGE_SWITCH (R264): After copying a page the tier engine switches its location in one step. -/
  | tierPageSwitch (move : Nat)
  /-- PACKET_ARRIVAL (R356): A network packet arrives and is acknowledged, dropped or placed into the joined draft. -/
  | packetArrival (pkt : Packet)
  /-- SELECTIVE_ACKNOWLEDGEMENT (R355): An acknowledgement reaches the sender, completing the send or causing retransmission. -/
  | selectiveAcknowledgement (cmd : Nat) (acked : List Nat) (missing : List Nat)
  /-- RETRANSMISSION_TIMEOUT (R355): A packet's retransmission timer expires and it is sent again or the send ends with 0x22. -/
  | retransmissionTimeout (cmd : Nat) (packet : Nat)
  /-- FLIT_CHECK_FAILURE (R350): A scale-up flit fails its check code and is sent again at link level. -/
  | flitCheckFailure
  /-- LINK_LOSS (R351): The link to a home package is lost and its objects become absent to others. -/
  | linkLoss (pkg : Nat)
  /-- LINK_RETURN (R351): The link returns and Rilsia resolves the faults waiting on it. -/
  | linkReturn (pkg : Nat)
  /-- PACKAGE_FAILURE (R351): Rilsia declares a package failed and ends launches whose drafts it homes. -/
  | packageFailure (pkg : Nat)
  /-- REPLICA_BUILD (R303): Rilsia builds replicas of a new version in the background after a publish. -/
  | replicaBuild (obj : ObjKey) (version : Nat) (target : Nat)
  /-- SPILL_SWITCH (R396): After the spill copy, Rilsia sets the spilled bit in one step and sends the shootdown. -/
  | spillSwitch (obj : ObjKey)
  /-- SHOOTDOWN_ACKNOWLEDGE (R373): A controller acknowledges once no access using a removed entry is in flight; the last ack frees the old storage. -/
  | shootdownAcknowledge (shoot : Nat) (cluster : Nat)
  /-- MISSING_OBJECT_RESOLUTION (R368): Rilsia makes a shard present and resumes every context waiting on it. -/
  | missingObjectResolution (obj : ObjKey)
  /-- FORECAST_MISS_RESOLUTION (R369): Rilsia re-triggers missing entries and resumes the context once its ranges are near-resident. -/
  | forecastMissResolution (core : Nat) (ctx : Nat)
  /-- UNCORRECTABLE_DATA_REPAIR (R371): Rilsia rewrites a bad location from a good copy and resumes, or ends the launches concerned. -/
  | uncorrectableDataRepair (bad : Nat)
  /-- LAUNCH_TERMINATION (R367): Rilsia ends a launch after a fatal trap, discarding drafts and writing the completion record. -/
  | launchTermination (launch : Nat)
  /-- DOLDRUMS_WATCHDOG (R372): A context's silence counter reaches 2^k and the context traps with class 0x0A. -/
  | doldrumsWatchdog (core : Nat) (ctx : Nat)
  /-- CORE_FAILURE (R375): Rilsia marks a core failed and moves its team to other cores or ends the launch. -/
  | coreFailure (phys : Nat) (readable : Bool)
  /-- SLICE_EXPIRY (R336): A placed team's time slice ends while another team waits, and the scheduler requests a stop. -/
  | sliceExpiry (launch : Nat) (team : Nat)
  /-- SWAP_GRACE_EXPIRY (R332): A context not stopped within 16,384 cycles is rolled back to its checkpoint. -/
  | swapGraceExpiry (core : Nat) (ctx : Nat)
  /-- TEAM_SAVE (R333): Once every context has stopped and the array is idle, the team's state is saved. -/
  | teamSave (launch : Nat) (team : Nat)
  /-- SAVE_COMPLETE (R334): The save completes and arrivals held during it are applied to the image. -/
  | saveComplete (launch : Nat) (team : Nat)
  /-- TEAM_RESTORE (R334): A swapped-out team is restored on a cluster with its code rewritten. -/
  | teamRestore (launch : Nat) (team : Nat) (place : Placement)
  /-- RESTORE_COMPLETE (R335): The restore completes, held arrivals are applied and the contexts resume. -/
  | restoreComplete (launch : Nat) (team : Nat)
  /-- TEAM_START (R331): A team is first placed: code relocated, tiles cleared, contexts started and due forecasts triggered. -/
  | teamStart (launch : Nat) (team : Nat) (place : Placement)
  /-- DRAIN_TIMEOUT (R337): A draining victim that has not exited after twice the threshold is decided again. -/
  | drainTimeout (launch : Nat) (team : Nat)
  /-- LAUNCH (R325): A launch entry becomes eligible and is checked and accepted, binding its forecast table. -/
  | launch (stream : Nat)
  /-- LAUNCH_COMPLETION (R325): Every team has exited and every command completed, and the completion record is written. -/
  | launchCompletion (launch : Nat)
  /-- OBJECT_OPERATION (R329): A stream entry performs a service without a call id. -/
  | objectOperation (stream : Nat)
  /-- VERSION_WAIT (R326): A stream entry waits for an object to reach a version. -/
  | versionWait (stream : Nat)
  /-- VERSION_WAIT_SATISFIED (R326): The awaited version is reached or the object destroyed, and the entry completes. -/
  | versionWaitSatisfied (stream : Nat)
  /-- CONDITIONAL_NODE (R328): A stream entry tests an element of the latest published version and may skip following entries. -/
  | conditionalNode (stream : Nat)
  /-- SUBMIT_REQUEST (R345): A submit-queue request appends one stream entry and is returned when it completes. -/
  | submitRequest (part : Nat) (queue : Nat) (chain : Chain)
  /-- CREATE_HOST_BUFFER (R346): A control request creates a host-buffer object over host memory. -/
  | createHostBuffer (part : Nat) (chain : Chain)
  /-- RELEASE_HOST_BUFFER (R346): A control request asks to end a host-buffer object. -/
  | releaseHostBuffer (part : Nat) (chain : Chain)
  /-- HOST_BUFFER_END (R348): Once no command is in flight on it, the host buffer is ended. -/
  | hostBufferEnd (obj : ObjKey)
  /-- READ_OBJECT (R346): A control request writes the bytes or export image of a published version. -/
  | readObject (part : Nat) (chain : Chain)
  /-- SERVICE (R346): A control request performs a service without a call id. -/
  | service (part : Nat) (chain : Chain)
  /-- GET_VERSION (R388): An SPDM request resets the sequence and returns VERSION listing 1.2. -/
  | getVersion (part : Nat) (req : SpdmRequest)
  /-- GET_CAPABILITIES (R388): An SPDM request returns CAPABILITIES. -/
  | getCapabilities (part : Nat) (req : SpdmRequest)
  /-- NEGOTIATE_ALGORITHMS (R388): An SPDM request returns ALGORITHMS with ECDSA P-256 and SHA-256. -/
  | negotiateAlgorithms (part : Nat) (req : SpdmRequest)
  /-- GET_DIGESTS (R388): An SPDM request returns the certificate digest of slot 0. -/
  | getDigests (part : Nat) (req : SpdmRequest)
  /-- GET_CERTIFICATE (R388): An SPDM request returns the slot 0 certificate chain. -/
  | getCertificate (part : Nat) (req : SpdmRequest)
  /-- CHALLENGE (R388): An SPDM request returns CHALLENGE_AUTH. -/
  | challenge (part : Nat) (req : SpdmRequest)
  /-- GET_MEASUREMENTS (R388): An SPDM request returns the measurement registers, optionally signed. -/
  | getMeasurements (part : Nat) (req : SpdmRequest)
  /-- TENANT_REPORT (R390): An admin request returns a signed 416-byte report of the package for a nonce. -/
  | tenantReport (part : Nat) (nonce : BitVec 256) (tag : BitVec 32)
  /-- NULL (R377): Service 0 returns its scalar argument. -/
  | null (call : Nat)
  /-- CREATE_OBJECT (R378): Service 16 creates an object from a descriptor. -/
  | createObject (call : Nat)
  /-- DESTROY_OBJECT (R378): Service 17 destroys an object and advances its generation. -/
  | destroyObject (call : Nat)
  /-- CREATE_STAGE_SET (R402): Service 18 creates a stage set and opens its queue and sink drafts. -/
  | createStageSet (call : Nat)
  /-- CREATE_FORECAST_TABLE (R377): Service 19 creates a forecast table from entries. -/
  | createForecastTable (call : Nat)
  /-- WRITE_HINT_RECORD (R304): Service 20 writes an object's hint record. -/
  | writeHintRecord (call : Nat)
  /-- RETAIN (R378): Service 32 retains or releases a published version across launches. -/
  | retain (call : Nat)
  /-- MARK_ENDPOINT (R353): Service 48 checks an endpoint record and marks a byte object as an endpoint. -/
  | markEndpoint (call : Nat)
  /-- REGISTER_RECEIVER (R353): Service 49 gives a receiving object a resource index and job identifier. -/
  | registerReceiver (call : Nat)
  /-- CONFIGURE_PORT (R354): Service 50 sets a network port's addresses from a port record. -/
  | configurePort (call : Nat)
  /-- MIGRATE (R377): Service 64 migrates an object to another package or die. -/
  | migrate (call : Nat)
  /-- REPLICATE (R378): Service 65 installs a replica on a package or a read copy for a cluster group. -/
  | replicate (call : Nat)
  /-- SPILL (R396): Service 66 starts spilling an object into a spill image. -/
  | spill (call : Nat)
  /-- EXPORT (R319): Service 67 lends a published version's storage to an outside agent. -/
  | exportObject (call : Nat)
  /-- END_EXPORT (R319): Service 68 ends an export. -/
  | endExport (call : Nat)
  /-- EXPORT_RETURN (R319): The outside agent returns exported storage and the export ends. -/
  | exportReturn (obj : ObjKey)
  /-- SUBMIT (R377): Service 80 appends a stream entry to a stream. -/
  | submit (call : Nat)
  /-- READ_COUNTERS (R378): Service 96 writes a set of counters into a draft of a byte object. -/
  | readCounters (call : Nat)
  /-- SERVICE_RESTART (R383): A service overrunning or hit by an uncorrectable error is restarted, replaying journalled replies. -/
  | serviceRestart (call : Nat)
  /-- POWER_WINDOW_END (R391): At the end of a 1 µs window over limit the arbiter raises a cluster level or a throttle step. -/
  | powerWindowEnd (draws : List Nat)
  /-- POWER_RELAX (R391): After 10 µs below 5,700 W the arbiter undoes a throttle step or lowers a level. -/
  | powerRelax
  /-- PACKAGE_RESET (R393): From reset the device measures firmware, trains memories, loads configuration and becomes ready. -/
  | packageReset (boot : BootRecord)
  /-- DUPLICATE_PACKAGE_NUMBER (R400): Link training finds another package with the same number and the device enters state 3. -/
  | duplicatePackageNumber
  /-- PARTITION_REASSIGNMENT (R385): Rilsia ends a partition's launches, clears its clusters and replaces its key. -/
  | partitionReassignment (part : Nat) (clusters : List Nat) (cap : BitVec 16)
  /-- MIGRATION_SWITCH (R306): At the end of a migration to another package, the new location is installed in one switch and the object's elements stop being absent. -/
  | migrationSwitch (obj : ObjKey)
  /-- EVENT_QUEUE_BUFFERS (R347): The driver supplies device-writable buffers to the event queue, and the device writes into them the events it has been holding. -/
  | eventQueueBuffers (part : Nat) (buffers : Nat)
  /-- FEATURES_OK (R341): The driver writes its accepted features and FEATURES_OK to the virtio device status, and the device sets FEATURES_OK or leaves it clear according to VERSION_1 and ACCESS_PLATFORM. -/
  | featuresOk (part : Nat) (features : BitVec 64)
  deriving DecidableEq, Repr

end Sys2Proof
end

