-- ==== Sys2Proof/WellFormed.lean ====
section
/-!
DEFINITION. When a slot operation's fields lie within the limits of its format and of its instruction (R62, R64 to R78,
and the limits that the instruction chapters add). Each check names the bit position of the first offending field. The
conditions that need more than the word (the context's share of banks, the weight plane, a register's value) are no part
of it.
-/

namespace Sys2Proof

/-- The special-register numbers that R17 assigns. -/
def specialAssigned (r : BitVec 8) : Bool :=
  r.toNat ∈ [0x00, 0x01, 0x02, 0x03, 0x04, 0x08, 0x09, 0x0A, 0x0B, 0x0C, 0x0D, 0x10, 0x11, 0x12, 0x13]

/-- The special registers that R17 lets `wrsr` write: fflags, rmode, srseed, vrot, prot. -/
def specialWritable (r : BitVec 8) : Bool := r.toNat ∈ [0x08, 0x0A, 0x0B, 0x10, 0x11]

/-- R20: the register number and the reason (0 unassigned, 1 read-only) of an illegal `rdsr` or `wrsr`. -/
def specialError : Instr → Option (Nat × Nat)
  | .rdsr _ _ r => if specialAssigned r then none else some (r.toNat, 0)
  | .wrsr _ _ r =>
    if !specialAssigned r then some (r.toNat, 0)
    else if specialWritable r then none else some (r.toNat, 1)
  | _ => none

/-- `some pos` when the number passes the limit. -/
def above (x limit pos : Nat) : Option Nat := if x ≤ limit then none else some pos

/-- The tile fields of an operation, each with its bit position. -/
def tileFields : Instr → List (Nat × Nat)
  | .mxlw _ t _ _ => [(t.toNat, 14)]
  | .mxs _ _ t _ _ => [(t.toNat, 10)]
  | .mxrank _ _ t _ => [(t.toNat, 10)]
  | .acrd _ _ t _ _ | .acwr _ _ t _ _ | .acadd _ _ t _ _ => [(t.toNat, 10)]
  | .tld _ _ t _ | .tst _ _ t _ => [(t.toNat, 8)]
  | .tlds _ _ t _ _ | .tsts _ _ t _ _ => [(t.toNat, 8)]
  | .tfill _ t _ _ _ => [(t.toNat, 14)]
  | .tfree _ t | .tsetf _ t => [(t.toNat, 14)]
  | .txfer _ t _ _ _ => [(t.toNat, 14)]
  | .txferRow _ t _ _ => [(t.toNat, 14)]
  | .txferAll _ t _ => [(t.toNat, 14)]
  | .tcopy _ d s _ | .tpack _ d s _ => [(d.toNat, 14), (s.toNat, 7)]
  | .tatom _ _ t _ _ => [(t.toNat, 8)]
  | .thdr _ t _ => [(t.toNat, 14)]
  | .tfmt _ t _ _ _ => [(t.toNat, 14)]
  | .hfet _ t _ _ _ | .hput _ t _ _ _ | .hgat _ t _ _ _ | .hsca _ t _ _ _ => [(t.toNat, 14)]
  | .tdesc _ t _ _ _ | .tgrad _ t _ _ _ => [(t.toNat, 14)]
  | .rput _ t _ _ | .rputLast _ t _ _ | .rputUpd _ t _ _ => [(t.toNat, 14)]
  | .rtake _ t _ _ _ => [(t.toNat, 14)]
  | .rstat _ t _ _ => [(t.toNat, 14)]
  | .xsend _ t _ _ | .xsendLast _ t _ _ => [(t.toNat, 14)]
  | .xref _ t _ | .csnap _ t _ | .cread _ t _ | .fcstat _ t _ => [(t.toNat, 14)]
  | .nsend _ t _ _ => [(t.toNat, 14)]
  | _ => []

/-- R24: a tile number from 96 to 127, by the position of its field. -/
def tileError (i : Instr) : Option Nat := ((tileFields i).find? fun f => f.1 ≥ 96).map (·.2)

/-- R64: a format that also uses the `k` registers after the named one. -/
def follow (s : BitVec 6) (k pos : Nat) : Option Nat := above (s.toNat + k) 63 pos

/-- R125: ty must not be 3. -/
def tyInt (t : BitVec 2) : Option Nat := above t.toNat 2 1
/-- R125: ty must be 0 or 1. -/
def tyWide (t : BitVec 2) : Option Nat := above t.toNat 1 1

/-- Lanes of the width class (R125). -/
def widthLanes (t : BitVec 2) : Nat := 2048 / [64, 32, 16, 8][t.toNat]!

/-- The format codes of `sfcvt` (R118). -/
def scalarCode (c : BitVec 4) : Bool := c.toNat ≤ 3 || 12 ≤ c.toNat

/-- The first non-empty answer. -/
def firstErr : List (Option Nat) → Option Nat
  | [] => none
  | none :: r => firstErr r
  | some p :: _ => some p

/-- The bit position of the first field whose value lies outside its limits (R62), for the limits that the row itself
does not fix; the fields are taken from the highest bit down. Where two fields are wrong together only, a conversion whose target equals its
source names the target, `acz` past the last row its count, and a bitwise atomic on a floating type the type (log entry 115). -/
def valueError : Instr → Option Nat
  | .nest l _ | .nestReg l _ | .lbody l _ => above l.toNat 5 23
  | .lbrk _ _ l => above l.toNat 5 18
  | .add _ _ _ _ w | .sub _ _ _ _ w | .mul _ _ _ _ w | .mulh _ _ _ _ w | .mulhn _ _ _ _ w | .div _ _ _ _ w
  | .divn _ _ _ _ w | .rem _ _ _ _ w | .remn _ _ _ _ w | .and _ _ _ _ w | .or _ _ _ _ w | .xor _ _ _ _ w
  | .andn _ _ _ _ w | .shl _ _ _ _ w | .shr _ _ _ _ w | .sar _ _ _ _ w | .rotl _ _ _ _ w | .min _ _ _ _ w
  | .max _ _ _ _ w | .minn _ _ _ _ w | .maxn _ _ _ _ w | .sfadd _ _ _ _ w | .sfmul _ _ _ _ w
  | .sffma _ _ _ _ w => above w.toNat 1 0
  | .clz _ _ _ w | .ctz _ _ _ w | .popc _ _ _ w | .mov _ _ _ w => above w.toNat 1 0
  | .sext _ _ _ k w | .zext _ _ _ k w =>
    firstErr [if w = 1 then above k.toNat 31 3 else none, above w.toNat 1 0]
  | .cmp _ _ _ _ c _ => above c.toNat 9 1
  | .sfcmp _ _ _ _ c _ => above c.toNat 6 1
  | .sfcvt _ _ _ t s =>
    if !scalarCode t then some 5 else if !scalarCode s then some 1 else if t = s then some 5 else none
  | .qset _ _ j _ | .qinc _ _ j _ | .s2q _ _ j _ => above j.toNat 5 14
  | .qcmp _ _ _ _ j c => firstErr [above j.toNat 5 6, above c.toNat 5 2]
  | .q2s _ _ _ j => above j.toNat 5 8
  | .vcmp _ _ _ _ c _ _ => above c.toNat 6 3
  | .vcvt _ _ _ t s _ => if t = 0xB then some 5 else if s = 0xB then some 1 else if t = s then some 5 else none
  | .vrnd _ _ _ f _ _ => above f.toNat 6 5
  | .vxf _ _ _ _ t _ => tyWide t
  | .viadd _ _ _ _ t _ | .visub _ _ _ _ t _ | .vimul _ _ _ _ t _ | .vimulh _ _ _ _ t _ | .vshl _ _ _ _ t _
  | .vshr _ _ _ _ t _ | .vsar _ _ _ _ t _ | .vimin _ _ _ _ t _ | .vimax _ _ _ _ t _ | .viminn _ _ _ _ t _
  | .vimaxn _ _ _ _ t _ => tyInt t
  | .vpopc _ _ _ t _ | .vclz _ _ _ t _ => tyInt t
  | .vins _ _ _ b t | .vext _ _ _ b t => if b.toNat < Nat.min (widthLanes t) 64 then none else some 3
  | .vzip _ d _ _ | .vunzip _ d _ _ => follow d 1 15
  | .vcompress _ _ _ t | .vexpand _ _ _ t => tyWide t
  | .vred _ _ _ f t _ | .vscan _ _ _ f t _ => firstErr [above f.toNat 11 5, tyWide t]
  | .vhist _ _ _ t _ => tyWide t
  | .vqclip _ _ _ _ t => tyWide t
  | .vquant _ _ _ t => if 4 ≤ t.toNat ∧ t.toNat ≤ 0xB then none else some 5
  | .vdeq _ _ _ s => if 4 ≤ s.toNat ∧ s.toNat ≤ 0xB then none else some 1
  | .mxlw _ _ f s =>
    firstErr [above f.toNat 0xB 10, above s.toNat 2 8, if s ≠ 0 ∧ f.toNat ≤ 1 then some 8 else none]
  | .mxs _ _ _ f _ => above f.toNat 0xB 6
  | .acz _ _ r c => above (r.toNat + c.toNat) 63 5
  | .acrd _ _ _ _ f | .acwr _ _ _ _ f | .acadd _ _ _ _ f => if f = 0xB then some 0 else none
  | .acmv _ _ _ _ m => above m.toNat 1 0
  | .acfmt _ _ f => if f.toNat ∈ [0x0, 0x1, 0xC] then none else some 0
  | .tlds _ _ _ _ z | .tsts _ _ _ _ z => above z.toNat 1 0
  | .tatom _ s _ o y =>
    firstErr [follow s (if o = 7 then 2 else 1) 15,
      if 3 ≤ o.toNat ∧ o.toNat ≤ 5 ∧ 2 ≤ y.toNat then some 3 else none]
  | .hgat _ t _ _ _ | .hsca _ t _ _ _ => if t = 95 then some 14 else none
  | .tdesc _ t _ _ y | .tgrad _ t _ _ y => firstErr [if t = 95 then some 14 else none, above y.toNat 3 0]
  | .hcopy _ _ _ t _ _ => follow t 1 5
  | .hpfl2 _ s _ _ | .hres _ s _ _ => follow s 1 15
  | .hatom _ s _ _ o y | .hatomr _ s _ _ o y =>
    firstErr [follow s 1 15, above o.toNat 6 3, above y.toNat 5 0,
      if 3 ≤ o.toNat ∧ o.toNat ≤ 5 ∧ 4 ≤ y.toNat then some 0 else none]
  | .hcas _ s _ _ y => firstErr [follow s 2 15, above y.toNat 5 0]
  | .nsend _ _ s _ => follow s 1 8
  | .nexp _ s _ => follow s 1 15
  | .svc _ s _ => follow s 6 15
  | _ => none

/-- A well-formed operation: every field lies within its limits, so the decoder accepts its word. -/
def Instr.wellFormed (i : Instr) : Bool :=
  (specialError i).isNone && (tileError i).isNone && (valueError i).isNone

end Sys2Proof
end

