-- ==== Sys2Proof/Decode.lean ====
section
/-!
DEFINITION. The decoder and the encoder (R60 to R78). A slot word is read by the map of its slot; the rows, the
fields, the encoder and the reserved bits below stand as spec/opcode_table.json gives them. The decoder is total: every
word of every slot gives an instruction or one named error of R62 or R20.
-/

namespace Sys2Proof

/-- The w-bit field of n that begins at bit lo. -/
def bits (n lo w : Nat) : BitVec w := BitVec.ofNat w (n / 2 ^ lo)

/-- The SEQ opcode map (slot 0): the row that the opcode names, its fields cut from the word n. `none`: the cell is “—”. -/
def rowSeq (n : Nat) : Option Instr :=
  match fieldOf n 26 6 with
  | 0x00 => some .nop
  | 0x01 => some (.br (bits n 25 1) (bits n 21 4) (bits n 0 21))
  | 0x02 => some (.brp (bits n 25 1) (bits n 21 4) (bits n 0 21))
  | 0x03 => some (.brx (bits n 25 1) (bits n 21 4) (bits n 15 6) (bits n 0 15))
  | 0x04 => some (.call (bits n 25 1) (bits n 21 4) (bits n 0 21))
  | 0x05 => some (.ret (bits n 25 1) (bits n 21 4))
  | 0x08 => if fieldOf n 22 1 = 1 then some (.nest (bits n 23 3) (bits n 0 16)) else some (.nestReg (bits n 23 3) (bits n 16 6))
  | 0x09 => some (.lbody (bits n 23 3) (bits n 0 5))
  | 0x0A => some (.lbrk (bits n 25 1) (bits n 21 4) (bits n 18 3))
  | 0x0B => some .rot
  | 0x10 => some .chkpt
  | 0x11 => some (.mark (bits n 10 16) (bits n 4 6))
  | 0x12 => some .bar
  | 0x13 => some .sstep
  | 0x14 => some (.wait (bits n 20 6))
  | 0x15 => some .yield
  | 0x16 => some .exit
  | 0x17 => some (.trap (bits n 0 16))
  | 0x18 => some (.bktj (bits n 20 6) (bits n 16 4))
  | 0x19 => some (.setb (bits n 23 3) (bits n 17 6) (bits n 0 17))
  | _ => none

/-- The SCA opcode map (slot 1): the row that the opcode names, its fields cut from the word n. `none`: the cell is “—”. -/
def rowSca (n : Nat) : Option Instr :=
  match fieldOf n 26 6 with
  | 0x00 => some .nop
  | 0x01 => some (.add (bits n 21 5) (bits n 15 6) (bits n 9 6) (bits n 3 6) (bits n 0 3))
  | 0x02 => some (.addi (bits n 21 5) (bits n 15 6) (bits n 9 6) (bits n 0 9))
  | 0x03 => some (.sub (bits n 21 5) (bits n 15 6) (bits n 9 6) (bits n 3 6) (bits n 0 3))
  | 0x04 => some (.mul (bits n 21 5) (bits n 15 6) (bits n 9 6) (bits n 3 6) (bits n 0 3))
  | 0x05 => some (.mulh (bits n 21 5) (bits n 15 6) (bits n 9 6) (bits n 3 6) (bits n 0 3))
  | 0x06 => some (.mulhn (bits n 21 5) (bits n 15 6) (bits n 9 6) (bits n 3 6) (bits n 0 3))
  | 0x07 => some (.div (bits n 21 5) (bits n 15 6) (bits n 9 6) (bits n 3 6) (bits n 0 3))
  | 0x08 => some (.divn (bits n 21 5) (bits n 15 6) (bits n 9 6) (bits n 3 6) (bits n 0 3))
  | 0x09 => some (.rem (bits n 21 5) (bits n 15 6) (bits n 9 6) (bits n 3 6) (bits n 0 3))
  | 0x0A => some (.remn (bits n 21 5) (bits n 15 6) (bits n 9 6) (bits n 3 6) (bits n 0 3))
  | 0x0B => some (.and (bits n 21 5) (bits n 15 6) (bits n 9 6) (bits n 3 6) (bits n 0 3))
  | 0x0C => some (.or (bits n 21 5) (bits n 15 6) (bits n 9 6) (bits n 3 6) (bits n 0 3))
  | 0x0D => some (.xor (bits n 21 5) (bits n 15 6) (bits n 9 6) (bits n 3 6) (bits n 0 3))
  | 0x0E => some (.andn (bits n 21 5) (bits n 15 6) (bits n 9 6) (bits n 3 6) (bits n 0 3))
  | 0x0F => some (.shl (bits n 21 5) (bits n 15 6) (bits n 9 6) (bits n 3 6) (bits n 0 3))
  | 0x10 => some (.shr (bits n 21 5) (bits n 15 6) (bits n 9 6) (bits n 3 6) (bits n 0 3))
  | 0x11 => some (.sar (bits n 21 5) (bits n 15 6) (bits n 9 6) (bits n 3 6) (bits n 0 3))
  | 0x12 => some (.rotl (bits n 21 5) (bits n 15 6) (bits n 9 6) (bits n 3 6) (bits n 0 3))
  | 0x13 => some (.min (bits n 21 5) (bits n 15 6) (bits n 9 6) (bits n 3 6) (bits n 0 3))
  | 0x14 => some (.max (bits n 21 5) (bits n 15 6) (bits n 9 6) (bits n 3 6) (bits n 0 3))
  | 0x15 => some (.minn (bits n 21 5) (bits n 15 6) (bits n 9 6) (bits n 3 6) (bits n 0 3))
  | 0x16 => some (.maxn (bits n 21 5) (bits n 15 6) (bits n 9 6) (bits n 3 6) (bits n 0 3))
  | 0x17 => some (.clz (bits n 21 5) (bits n 15 6) (bits n 9 6) (bits n 0 3))
  | 0x18 => some (.ctz (bits n 21 5) (bits n 15 6) (bits n 9 6) (bits n 0 3))
  | 0x19 => some (.popc (bits n 21 5) (bits n 15 6) (bits n 9 6) (bits n 0 3))
  | 0x1A => some (.sext (bits n 21 5) (bits n 15 6) (bits n 9 6) (bits n 3 6) (bits n 0 3))
  | 0x1B => some (.zext (bits n 21 5) (bits n 15 6) (bits n 9 6) (bits n 3 6) (bits n 0 3))
  | 0x1C => some (.movi (bits n 21 5) (bits n 15 6) (bits n 0 15))
  | 0x1D => some (.movk (bits n 21 5) (bits n 15 6) (bits n 0 15))
  | 0x1E => some (.mov (bits n 21 5) (bits n 15 6) (bits n 9 6) (bits n 0 3))
  | 0x1F => some (.sel (bits n 21 5) (bits n 15 6) (bits n 9 6) (bits n 3 6) (bits n 0 3))
  | 0x20 => some (.cmp (bits n 21 5) (bits n 17 4) (bits n 11 6) (bits n 5 6) (bits n 1 4) (bits n 0 1))
  | 0x21 => some (.pand (bits n 21 5) (bits n 17 4) (bits n 13 4) (bits n 9 4) (bits n 8 1) (bits n 7 1))
  | 0x22 => some (.por (bits n 21 5) (bits n 17 4) (bits n 13 4) (bits n 9 4) (bits n 8 1) (bits n 7 1))
  | 0x23 => some (.pnot (bits n 21 5) (bits n 17 4) (bits n 13 4))
  | 0x24 => some (.s2p (bits n 21 5) (bits n 17 4) (bits n 11 6))
  | 0x25 => some (.p2s (bits n 21 5) (bits n 15 6) (bits n 11 4))
  | 0x26 => some (.rdsr (bits n 21 5) (bits n 15 6) (bits n 0 8))
  | 0x27 => some (.wrsr (bits n 21 5) (bits n 9 6) (bits n 0 8))
  | 0x28 => some (.sfadd (bits n 21 5) (bits n 15 6) (bits n 9 6) (bits n 3 6) (bits n 0 3))
  | 0x29 => some (.sfmul (bits n 21 5) (bits n 15 6) (bits n 9 6) (bits n 3 6) (bits n 0 3))
  | 0x2A => some (.sffma (bits n 21 5) (bits n 15 6) (bits n 9 6) (bits n 3 6) (bits n 0 3))
  | 0x2B => some (.sfcmp (bits n 21 5) (bits n 17 4) (bits n 11 6) (bits n 5 6) (bits n 1 4) (bits n 0 1))
  | 0x2C => some (.sfcvt (bits n 21 5) (bits n 15 6) (bits n 9 6) (bits n 5 4) (bits n 1 4))
  | 0x2D => some (.sfxf (bits n 21 5) (bits n 15 6) (bits n 9 6) (bits n 5 4) (bits n 4 1))
  | _ => none

/-- The IDX opcode map (slot 2): the row that the opcode names, its fields cut from the word n. `none`: the cell is “—”. -/
def rowIdx (n : Nat) : Option Instr :=
  match fieldOf n 26 6 with
  | 0x00 => some .nop
  | 0x01 => some (.qset (bits n 21 5) (bits n 17 4) (bits n 14 3) (bits n 0 14))
  | 0x02 => some (.qadd (bits n 21 5) (bits n 17 4) (bits n 13 4) (bits n 9 4))
  | 0x03 => some (.qinc (bits n 21 5) (bits n 17 4) (bits n 14 3) (bits n 0 14))
  | 0x04 => some (.qcmp (bits n 21 5) (bits n 17 4) (bits n 13 4) (bits n 9 4) (bits n 6 3) (bits n 2 4))
  | 0x05 => some (.qmov (bits n 21 5) (bits n 17 4) (bits n 13 4))
  | 0x06 => some (.q2s (bits n 21 5) (bits n 15 6) (bits n 11 4) (bits n 8 3))
  | 0x07 => some (.s2q (bits n 21 5) (bits n 17 4) (bits n 14 3) (bits n 8 6))
  | 0x08 => some (.hmov (bits n 21 5) (bits n 16 5) (bits n 11 5))
  | 0x09 => some (.hld (bits n 21 5) (bits n 16 5) (bits n 10 6))
  | 0x0A => some (.gset (bits n 21 5) (bits n 18 3) (bits n 15 3) (bits n 9 6))
  | 0x0B => some (.iadd (bits n 21 5) (bits n 15 6) (bits n 9 6) (bits n 3 6))
  | 0x0C => some (.imovi (bits n 21 5) (bits n 15 6) (bits n 0 15))
  | 0x0D => some (.nodc (bits n 21 5) (bits n 15 6) (bits n 9 6) (bits n 3 6))
  | 0x0E => some (.nodl (bits n 21 5) (bits n 15 6) (bits n 9 6))
  | _ => none

/-- The VEC opcode map (slot 3): the row that the opcode names, its fields cut from the word n. `none`: the cell is “—”. -/
def rowVec (n : Nat) : Option Instr :=
  match fieldOf n 26 6 with
  | 0x00 => some .nop
  | 0x01 => some (.vadd (bits n 21 5) (bits n 15 6) (bits n 9 6) (bits n 3 6) (bits n 1 2) (bits n 0 1))
  | 0x02 => some (.vsub (bits n 21 5) (bits n 15 6) (bits n 9 6) (bits n 3 6) (bits n 1 2) (bits n 0 1))
  | 0x03 => some (.vmul (bits n 21 5) (bits n 15 6) (bits n 9 6) (bits n 3 6) (bits n 1 2) (bits n 0 1))
  | 0x04 => some (.vfma (bits n 21 5) (bits n 15 6) (bits n 9 6) (bits n 3 6) (bits n 1 2) (bits n 0 1))
  | 0x05 => some (.vfms (bits n 21 5) (bits n 15 6) (bits n 9 6) (bits n 3 6) (bits n 1 2) (bits n 0 1))
  | 0x06 => some (.vfnma (bits n 21 5) (bits n 15 6) (bits n 9 6) (bits n 3 6) (bits n 1 2) (bits n 0 1))
  | 0x07 => some (.vdiv (bits n 21 5) (bits n 15 6) (bits n 9 6) (bits n 3 6) (bits n 1 2) (bits n 0 1))
  | 0x08 => some (.vsqrt (bits n 21 5) (bits n 15 6) (bits n 9 6) (bits n 1 2) (bits n 0 1))
  | 0x09 => some (.vmin (bits n 21 5) (bits n 15 6) (bits n 9 6) (bits n 3 6) (bits n 1 2) (bits n 0 1))
  | 0x0A => some (.vmax (bits n 21 5) (bits n 15 6) (bits n 9 6) (bits n 3 6) (bits n 1 2) (bits n 0 1))
  | 0x0B => some (.vabs (bits n 21 5) (bits n 15 6) (bits n 9 6) (bits n 1 2) (bits n 0 1))
  | 0x0C => some (.vneg (bits n 21 5) (bits n 15 6) (bits n 9 6) (bits n 1 2) (bits n 0 1))
  | 0x0D => some (.vcpys (bits n 21 5) (bits n 15 6) (bits n 9 6) (bits n 3 6) (bits n 1 2) (bits n 0 1))
  | 0x0E => some (.vcmp (bits n 21 5) (bits n 18 3) (bits n 12 6) (bits n 6 6) (bits n 3 3) (bits n 1 2) (bits n 0 1))
  | 0x0F => some (.vsel (bits n 21 5) (bits n 15 6) (bits n 9 6) (bits n 3 6) (bits n 1 2))
  | 0x10 => some (.vcvt (bits n 21 5) (bits n 15 6) (bits n 9 6) (bits n 5 4) (bits n 1 4) (bits n 0 1))
  | 0x11 => some (.vrnd (bits n 21 5) (bits n 15 6) (bits n 9 6) (bits n 5 4) (bits n 1 2) (bits n 0 1))
  | 0x12 => some (.vxf (bits n 21 5) (bits n 15 6) (bits n 9 6) (bits n 5 4) (bits n 1 2) (bits n 0 1))
  | 0x13 => some (.viadd (bits n 21 5) (bits n 15 6) (bits n 9 6) (bits n 3 6) (bits n 1 2) (bits n 0 1))
  | 0x14 => some (.visub (bits n 21 5) (bits n 15 6) (bits n 9 6) (bits n 3 6) (bits n 1 2) (bits n 0 1))
  | 0x15 => some (.vimul (bits n 21 5) (bits n 15 6) (bits n 9 6) (bits n 3 6) (bits n 1 2) (bits n 0 1))
  | 0x16 => some (.vimulh (bits n 21 5) (bits n 15 6) (bits n 9 6) (bits n 3 6) (bits n 1 2) (bits n 0 1))
  | 0x17 => some (.vand (bits n 21 5) (bits n 15 6) (bits n 9 6) (bits n 3 6) (bits n 0 1))
  | 0x18 => some (.vor (bits n 21 5) (bits n 15 6) (bits n 9 6) (bits n 3 6) (bits n 0 1))
  | 0x19 => some (.vxor (bits n 21 5) (bits n 15 6) (bits n 9 6) (bits n 3 6) (bits n 0 1))
  | 0x1A => some (.vnot (bits n 21 5) (bits n 15 6) (bits n 9 6) (bits n 0 1))
  | 0x1B => some (.vshl (bits n 21 5) (bits n 15 6) (bits n 9 6) (bits n 3 6) (bits n 1 2) (bits n 0 1))
  | 0x1C => some (.vshr (bits n 21 5) (bits n 15 6) (bits n 9 6) (bits n 3 6) (bits n 1 2) (bits n 0 1))
  | 0x1D => some (.vsar (bits n 21 5) (bits n 15 6) (bits n 9 6) (bits n 3 6) (bits n 1 2) (bits n 0 1))
  | 0x1E => some (.vimin (bits n 21 5) (bits n 15 6) (bits n 9 6) (bits n 3 6) (bits n 1 2) (bits n 0 1))
  | 0x1F => some (.vimax (bits n 21 5) (bits n 15 6) (bits n 9 6) (bits n 3 6) (bits n 1 2) (bits n 0 1))
  | 0x20 => some (.viminn (bits n 21 5) (bits n 15 6) (bits n 9 6) (bits n 3 6) (bits n 1 2) (bits n 0 1))
  | 0x21 => some (.vimaxn (bits n 21 5) (bits n 15 6) (bits n 9 6) (bits n 3 6) (bits n 1 2) (bits n 0 1))
  | 0x22 => some (.vpopc (bits n 21 5) (bits n 15 6) (bits n 9 6) (bits n 1 2) (bits n 0 1))
  | 0x23 => some (.vclz (bits n 21 5) (bits n 15 6) (bits n 9 6) (bits n 1 2) (bits n 0 1))
  | 0x24 => some (.vmov (bits n 21 5) (bits n 15 6) (bits n 9 6) (bits n 0 1))
  | 0x25 => some (.vbcast (bits n 21 5) (bits n 15 6) (bits n 9 6) (bits n 1 2) (bits n 0 1))
  | 0x26 => some (.vins (bits n 21 5) (bits n 15 6) (bits n 9 6) (bits n 3 6) (bits n 1 2))
  | 0x27 => some (.vext (bits n 21 5) (bits n 15 6) (bits n 9 6) (bits n 3 6) (bits n 1 2))
  | 0x28 => some (.vperm (bits n 21 5) (bits n 15 6) (bits n 9 6) (bits n 3 6) (bits n 0 1))
  | 0x29 => some (.vslide (bits n 21 5) (bits n 15 6) (bits n 9 6) (bits n 3 6) (bits n 1 2) (bits n 0 1))
  | 0x2A => some (.vzip (bits n 21 5) (bits n 15 6) (bits n 9 6) (bits n 3 6))
  | 0x2B => some (.vunzip (bits n 21 5) (bits n 15 6) (bits n 9 6) (bits n 3 6))
  | 0x2C => some (.vcompress (bits n 21 5) (bits n 15 6) (bits n 9 6) (bits n 1 2))
  | 0x2D => some (.vexpand (bits n 21 5) (bits n 15 6) (bits n 9 6) (bits n 1 2))
  | 0x2E => some (.vred (bits n 21 5) (bits n 15 6) (bits n 9 6) (bits n 5 4) (bits n 1 2) (bits n 0 1))
  | 0x2F => some (.vscan (bits n 21 5) (bits n 15 6) (bits n 9 6) (bits n 5 4) (bits n 1 2) (bits n 0 1))
  | 0x30 => some (.mand (bits n 21 5) (bits n 18 3) (bits n 15 3) (bits n 12 3))
  | 0x31 => some (.mor (bits n 21 5) (bits n 18 3) (bits n 15 3) (bits n 12 3))
  | 0x32 => some (.mxor (bits n 21 5) (bits n 18 3) (bits n 15 3) (bits n 12 3))
  | 0x33 => some (.mnot (bits n 21 5) (bits n 18 3) (bits n 15 3))
  | 0x34 => some (.mpop (bits n 21 5) (bits n 15 6) (bits n 12 3))
  | 0x35 => some (.mfirst (bits n 21 5) (bits n 15 6) (bits n 12 3))
  | 0x36 => some (.vhist (bits n 21 5) (bits n 15 6) (bits n 9 6) (bits n 1 2) (bits n 0 1))
  | 0x37 => some (.vqclip (bits n 21 5) (bits n 15 6) (bits n 9 6) (bits n 3 6) (bits n 1 2))
  | 0x38 => some (.vquant (bits n 21 5) (bits n 15 6) (bits n 9 6) (bits n 5 4))
  | 0x39 => some (.vdeq (bits n 21 5) (bits n 15 6) (bits n 9 6) (bits n 1 4))
  | _ => none

/-- The MXU opcode map (slot 4): the row that the opcode names, its fields cut from the word n. `none`: the cell is “—”. -/
def rowMxu (n : Nat) : Option Instr :=
  match fieldOf n 26 6 with
  | 0x00 => some .nop
  | 0x01 => some (.mxlw (bits n 21 5) (bits n 14 7) (bits n 10 4) (bits n 8 2))
  | 0x02 => some (.mxsw (bits n 21 5))
  | 0x03 => some (.mxs (bits n 21 5) (bits n 17 4) (bits n 10 7) (bits n 6 4) (bits n 0 6))
  | 0x04 => some (.mxrank (bits n 21 5) (bits n 17 4) (bits n 10 7) (bits n 0 6))
  | 0x05 => some (.mxz (bits n 21 5))
  | _ => none

/-- The ACC opcode map (slot 5): the row that the opcode names, its fields cut from the word n. `none`: the cell is “—”. -/
def rowAcc (n : Nat) : Option Instr :=
  match fieldOf n 26 6 with
  | 0x00 => some .nop
  | 0x01 => some (.acz (bits n 21 5) (bits n 17 4) (bits n 11 6) (bits n 5 6))
  | 0x02 => some (.acrd (bits n 21 5) (bits n 17 4) (bits n 10 7) (bits n 4 6) (bits n 0 4))
  | 0x03 => some (.acwr (bits n 21 5) (bits n 17 4) (bits n 10 7) (bits n 4 6) (bits n 0 4))
  | 0x04 => some (.acadd (bits n 21 5) (bits n 17 4) (bits n 10 7) (bits n 4 6) (bits n 0 4))
  | 0x05 => some (.acmv (bits n 21 5) (bits n 17 4) (bits n 11 6) (bits n 5 6) (bits n 0 5))
  | 0x06 => some (.acfmt (bits n 21 5) (bits n 17 4) (bits n 0 4))
  | 0x07 => if fieldOf n 0 5 = 1 then some (.acsclE (bits n 21 5) (bits n 17 4) (bits n 11 6) (bits n 5 6)) else some (.acscl (bits n 21 5) (bits n 17 4) (bits n 11 6) (bits n 5 6))
  | 0x08 => some (.acbias (bits n 21 5) (bits n 17 4) (bits n 11 6) (bits n 5 6))
  | _ => none

/-- The TLS opcode map (slot 6): the row that the opcode names, its fields cut from the word n. `none`: the cell is “—”. -/
def rowTls (n : Nat) : Option Instr :=
  match fieldOf n 26 6 with
  | 0x00 => some .nop
  | 0x01 => some (.tld (bits n 21 5) (bits n 15 6) (bits n 8 7) (bits n 3 5))
  | 0x02 => some (.tst (bits n 21 5) (bits n 15 6) (bits n 8 7) (bits n 3 5))
  | 0x03 => some (.tlds (bits n 21 5) (bits n 15 6) (bits n 8 7) (bits n 2 6) (bits n 0 2))
  | 0x04 => some (.tsts (bits n 21 5) (bits n 15 6) (bits n 8 7) (bits n 2 6) (bits n 0 2))
  | 0x05 => some (.tfill (bits n 21 5) (bits n 14 7) (bits n 8 6) (bits n 2 1) (bits n 0 2))
  | 0x06 => some (.tfree (bits n 21 5) (bits n 14 7))
  | 0x07 => some (.tsetf (bits n 21 5) (bits n 14 7))
  | 0x08 => if fieldOf n 1 2 = 1 then some (.txferRow (bits n 21 5) (bits n 14 7) (bits n 8 6) (bits n 6 2)) else if fieldOf n 1 2 = 2 then some (.txferAll (bits n 21 5) (bits n 14 7) (bits n 8 6)) else some (.txfer (bits n 21 5) (bits n 14 7) (bits n 8 6) (bits n 6 2) (bits n 3 3))
  | 0x09 => some (.tcopy (bits n 21 5) (bits n 14 7) (bits n 7 7) (bits n 1 6))
  | 0x0A => some (.tpack (bits n 21 5) (bits n 14 7) (bits n 7 7) (bits n 1 6))
  | 0x0B => some (.tatom (bits n 21 5) (bits n 15 6) (bits n 8 7) (bits n 5 3) (bits n 3 2))
  | 0x0C => some (.thdr (bits n 21 5) (bits n 14 7) (bits n 8 6))
  | 0x0D => some (.tfmt (bits n 21 5) (bits n 14 7) (bits n 8 6) (bits n 4 1) (bits n 0 4))
  | _ => none

/-- The ENG opcode map (slot 7): the row that the opcode names, its fields cut from the word n. `none`: the cell is “—”. -/
def rowEng (n : Nat) : Option Instr :=
  match fieldOf n 26 6 with
  | 0x00 => some .nop
  | 0x01 => some (.hfet (bits n 21 5) (bits n 14 7) (bits n 8 6) (bits n 3 5) (bits n 0 3))
  | 0x02 => some (.hput (bits n 21 5) (bits n 14 7) (bits n 8 6) (bits n 3 5) (bits n 0 3))
  | 0x03 => some (.hgat (bits n 21 5) (bits n 14 7) (bits n 8 6) (bits n 3 5) (bits n 0 3))
  | 0x04 => some (.hsca (bits n 21 5) (bits n 14 7) (bits n 8 6) (bits n 3 5) (bits n 0 3))
  | 0x05 => some (.hcopy (bits n 21 5) (bits n 16 5) (bits n 11 5) (bits n 5 6) (bits n 2 3) (bits n 0 2))
  | 0x06 => some (.hpfl2 (bits n 21 5) (bits n 15 6) (bits n 10 5) (bits n 0 3))
  | 0x07 => some (.hres (bits n 21 5) (bits n 15 6) (bits n 10 5) (bits n 0 3))
  | 0x08 => some (.hprobe (bits n 21 5) (bits n 15 6) (bits n 10 5) (bits n 0 3))
  | 0x09 => some (.hopen (bits n 21 5) (bits n 15 6) (bits n 10 5))
  | 0x0A => some (.hpub (bits n 21 5) (bits n 15 6) (bits n 10 5))
  | 0x0B => some (.hdisc (bits n 21 5) (bits n 15 6) (bits n 10 5))
  | 0x0C => if fieldOf n 0 1 = 1 then some (.hpinV (bits n 21 5) (bits n 15 6) (bits n 10 5)) else some (.hpin (bits n 21 5) (bits n 15 6) (bits n 10 5))
  | 0x0D => some (.hunpin (bits n 21 5) (bits n 15 6) (bits n 10 5))
  | 0x0E => if fieldOf n 0 1 = 1 then some (.hsubV (bits n 21 5) (bits n 15 6) (bits n 10 5) (bits n 1 1)) else some (.hsub (bits n 21 5) (bits n 15 6) (bits n 10 5) (bits n 1 1))
  | 0x0F => some (.hunsub (bits n 21 5) (bits n 15 6) (bits n 10 5))
  | 0x10 => some (.hver (bits n 21 5) (bits n 15 6) (bits n 10 5))
  | 0x11 => some (.hatom (bits n 21 5) (bits n 15 6) (bits n 10 5) (bits n 6 4) (bits n 3 3) (bits n 0 3))
  | 0x12 => some (.hatomr (bits n 21 5) (bits n 15 6) (bits n 10 5) (bits n 6 4) (bits n 3 3) (bits n 0 3))
  | 0x13 => some (.hcas (bits n 21 5) (bits n 15 6) (bits n 10 5) (bits n 6 4) (bits n 0 3))
  | 0x14 => some (.tdesc (bits n 21 5) (bits n 14 7) (bits n 8 6) (bits n 3 5) (bits n 0 3))
  | 0x15 => some (.tgrad (bits n 21 5) (bits n 14 7) (bits n 8 6) (bits n 3 5) (bits n 0 3))
  | 0x18 => some (.rbind (bits n 21 5) (bits n 15 6) (bits n 10 5) (bits n 0 3))
  | 0x19 => if fieldOf n 0 2 = 1 then some (.rputLast (bits n 21 5) (bits n 14 7) (bits n 8 6) (bits n 3 5)) else if fieldOf n 0 2 = 2 then some (.rputUpd (bits n 21 5) (bits n 14 7) (bits n 8 6) (bits n 3 5)) else some (.rput (bits n 21 5) (bits n 14 7) (bits n 8 6) (bits n 3 5))
  | 0x1A => some (.rtake (bits n 21 5) (bits n 14 7) (bits n 8 6) (bits n 3 5) (bits n 0 3))
  | 0x1B => if fieldOf n 3 1 = 1 then some (.rdoneFail (bits n 21 5) (bits n 15 6) (bits n 10 5) (bits n 0 3)) else some (.rdone (bits n 21 5) (bits n 15 6) (bits n 10 5) (bits n 0 3))
  | 0x1C => some (.rstat (bits n 21 5) (bits n 14 7) (bits n 8 6) (bits n 3 5))
  | 0x20 => if fieldOf n 0 1 = 1 then some (.xsendLast (bits n 21 5) (bits n 14 7) (bits n 8 6) (bits n 3 5)) else some (.xsend (bits n 21 5) (bits n 14 7) (bits n 8 6) (bits n 3 5))
  | 0x21 => some (.xref (bits n 21 5) (bits n 14 7) (bits n 8 6))
  | 0x22 => some (.csnap (bits n 21 5) (bits n 14 7) (bits n 8 6))
  | 0x23 => some (.cread (bits n 21 5) (bits n 14 7) (bits n 8 6))
  | 0x28 => if fieldOf n 0 1 = 1 then some (.fcbindUn (bits n 21 5) (bits n 15 6)) else some (.fcbind (bits n 21 5) (bits n 15 6) (bits n 10 5))
  | 0x29 => some (.fcstat (bits n 21 5) (bits n 14 7) (bits n 8 6))
  | 0x2A => some (.nsend (bits n 21 5) (bits n 14 7) (bits n 8 6) (bits n 3 5))
  | 0x2B => some (.nexp (bits n 21 5) (bits n 15 6) (bits n 10 5))
  | 0x2C => some (.ncnt (bits n 21 5) (bits n 15 6) (bits n 10 5))
  | 0x38 => some (.svc (bits n 21 5) (bits n 15 6) (bits n 5 10))
  | _ => none

/-- The row that slot word n names in slot `slot`, before any check of its fields. -/
def rowOf (slot n : Nat) : Option Instr :=
  match slot with
  | 0 => rowSeq n | 1 => rowSca n | 2 => rowIdx n | 3 => rowVec n
  | 4 => rowMxu n | 5 => rowAcc n | 6 => rowTls n | _ => rowEng n

/-- A field x at bit lo of its word. -/
def fld {w : Nat} (x : BitVec w) (lo : Nat) : Nat := x.toNat * 2 ^ lo

/-- The word of a SEQ operation (slot 0): opcode and fixed bits, and each field at its place. -/
def wordSeq : Instr → Nat
  | .br p c o => 0x04000000 + fld p 25 + fld c 21 + fld o 0
  | .brp p c o => 0x08000000 + fld p 25 + fld c 21 + fld o 0
  | .brx p c x o => 0x0C000000 + fld p 25 + fld c 21 + fld x 15 + fld o 0
  | .call p c o => 0x10000000 + fld p 25 + fld c 21 + fld o 0
  | .ret p c => 0x14000000 + fld p 25 + fld c 21
  | .nest l c => 0x20400000 + fld l 23 + fld c 0
  | .nestReg l s => 0x20000000 + fld l 23 + fld s 16
  | .lbody l n => 0x24000000 + fld l 23 + fld n 0
  | .lbrk p c l => 0x28000000 + fld p 25 + fld c 21 + fld l 18
  | .rot => 0x2C000000
  | .chkpt => 0x40000000
  | .mark k s => 0x44000000 + fld k 10 + fld s 4
  | .bar => 0x48000000
  | .sstep => 0x4C000000
  | .wait s => 0x50000000 + fld s 20
  | .yield => 0x54000000
  | .exit => 0x58000000
  | .trap c => 0x5C000000 + fld c 0
  | .bktj s p => 0x60000000 + fld s 20 + fld p 16
  | .setb b s o => 0x64000000 + fld b 23 + fld s 17 + fld o 0
  | _ => 0

/-- The word of a SCA operation (slot 1): opcode and fixed bits, and each field at its place. -/
def wordSca : Instr → Nat
  | .add g d a b w => 0x04000000 + fld g 21 + fld d 15 + fld a 9 + fld b 3 + fld w 0
  | .addi g d a i => 0x08000000 + fld g 21 + fld d 15 + fld a 9 + fld i 0
  | .sub g d a b w => 0x0C000000 + fld g 21 + fld d 15 + fld a 9 + fld b 3 + fld w 0
  | .mul g d a b w => 0x10000000 + fld g 21 + fld d 15 + fld a 9 + fld b 3 + fld w 0
  | .mulh g d a b w => 0x14000000 + fld g 21 + fld d 15 + fld a 9 + fld b 3 + fld w 0
  | .mulhn g d a b w => 0x18000000 + fld g 21 + fld d 15 + fld a 9 + fld b 3 + fld w 0
  | .div g d a b w => 0x1C000000 + fld g 21 + fld d 15 + fld a 9 + fld b 3 + fld w 0
  | .divn g d a b w => 0x20000000 + fld g 21 + fld d 15 + fld a 9 + fld b 3 + fld w 0
  | .rem g d a b w => 0x24000000 + fld g 21 + fld d 15 + fld a 9 + fld b 3 + fld w 0
  | .remn g d a b w => 0x28000000 + fld g 21 + fld d 15 + fld a 9 + fld b 3 + fld w 0
  | .and g d a b w => 0x2C000000 + fld g 21 + fld d 15 + fld a 9 + fld b 3 + fld w 0
  | .or g d a b w => 0x30000000 + fld g 21 + fld d 15 + fld a 9 + fld b 3 + fld w 0
  | .xor g d a b w => 0x34000000 + fld g 21 + fld d 15 + fld a 9 + fld b 3 + fld w 0
  | .andn g d a b w => 0x38000000 + fld g 21 + fld d 15 + fld a 9 + fld b 3 + fld w 0
  | .shl g d a b w => 0x3C000000 + fld g 21 + fld d 15 + fld a 9 + fld b 3 + fld w 0
  | .shr g d a b w => 0x40000000 + fld g 21 + fld d 15 + fld a 9 + fld b 3 + fld w 0
  | .sar g d a b w => 0x44000000 + fld g 21 + fld d 15 + fld a 9 + fld b 3 + fld w 0
  | .rotl g d a b w => 0x48000000 + fld g 21 + fld d 15 + fld a 9 + fld b 3 + fld w 0
  | .min g d a b w => 0x4C000000 + fld g 21 + fld d 15 + fld a 9 + fld b 3 + fld w 0
  | .max g d a b w => 0x50000000 + fld g 21 + fld d 15 + fld a 9 + fld b 3 + fld w 0
  | .minn g d a b w => 0x54000000 + fld g 21 + fld d 15 + fld a 9 + fld b 3 + fld w 0
  | .maxn g d a b w => 0x58000000 + fld g 21 + fld d 15 + fld a 9 + fld b 3 + fld w 0
  | .clz g d a w => 0x5C000000 + fld g 21 + fld d 15 + fld a 9 + fld w 0
  | .ctz g d a w => 0x60000000 + fld g 21 + fld d 15 + fld a 9 + fld w 0
  | .popc g d a w => 0x64000000 + fld g 21 + fld d 15 + fld a 9 + fld w 0
  | .sext g d a k w => 0x68000000 + fld g 21 + fld d 15 + fld a 9 + fld k 3 + fld w 0
  | .zext g d a k w => 0x6C000000 + fld g 21 + fld d 15 + fld a 9 + fld k 3 + fld w 0
  | .movi g d i => 0x70000000 + fld g 21 + fld d 15 + fld i 0
  | .movk g d i => 0x74000000 + fld g 21 + fld d 15 + fld i 0
  | .mov g d a w => 0x78000000 + fld g 21 + fld d 15 + fld a 9 + fld w 0
  | .sel g d a b p => 0x7C000000 + fld g 21 + fld d 15 + fld a 9 + fld b 3 + fld p 0
  | .cmp g p a b c w => 0x80000000 + fld g 21 + fld p 17 + fld a 11 + fld b 5 + fld c 1 + fld w 0
  | .pand g d a b x y => 0x84000000 + fld g 21 + fld d 17 + fld a 13 + fld b 9 + fld x 8 + fld y 7
  | .por g d a b x y => 0x88000000 + fld g 21 + fld d 17 + fld a 13 + fld b 9 + fld x 8 + fld y 7
  | .pnot g d a => 0x8C000000 + fld g 21 + fld d 17 + fld a 13
  | .s2p g p a => 0x90000000 + fld g 21 + fld p 17 + fld a 11
  | .p2s g d p => 0x94000000 + fld g 21 + fld d 15 + fld p 11
  | .rdsr g d r => 0x98000000 + fld g 21 + fld d 15 + fld r 0
  | .wrsr g a r => 0x9C000000 + fld g 21 + fld a 9 + fld r 0
  | .sfadd g d a b w => 0xA0000000 + fld g 21 + fld d 15 + fld a 9 + fld b 3 + fld w 0
  | .sfmul g d a b w => 0xA4000000 + fld g 21 + fld d 15 + fld a 9 + fld b 3 + fld w 0
  | .sffma g d a b w => 0xA8000000 + fld g 21 + fld d 15 + fld a 9 + fld b 3 + fld w 0
  | .sfcmp g p a b c w => 0xAC000000 + fld g 21 + fld p 17 + fld a 11 + fld b 5 + fld c 1 + fld w 0
  | .sfcvt g d a t s => 0xB0000000 + fld g 21 + fld d 15 + fld a 9 + fld t 5 + fld s 1
  | .sfxf g d a f w => 0xB4000000 + fld g 21 + fld d 15 + fld a 9 + fld f 5 + fld w 4
  | _ => 0

/-- The word of a IDX operation (slot 2): opcode and fixed bits, and each field at its place. -/
def wordIdx : Instr → Nat
  | .qset g q j i => 0x04000000 + fld g 21 + fld q 17 + fld j 14 + fld i 0
  | .qadd g d a b => 0x08000000 + fld g 21 + fld d 17 + fld a 13 + fld b 9
  | .qinc g q j i => 0x0C000000 + fld g 21 + fld q 17 + fld j 14 + fld i 0
  | .qcmp g p a b j c => 0x10000000 + fld g 21 + fld p 17 + fld a 13 + fld b 9 + fld j 6 + fld c 2
  | .qmov g d a => 0x14000000 + fld g 21 + fld d 17 + fld a 13
  | .q2s g d a j => 0x18000000 + fld g 21 + fld d 15 + fld a 11 + fld j 8
  | .s2q g q j a => 0x1C000000 + fld g 21 + fld q 17 + fld j 14 + fld a 8
  | .hmov g d a => 0x20000000 + fld g 21 + fld d 16 + fld a 11
  | .hld g d a => 0x24000000 + fld g 21 + fld d 16 + fld a 10
  | .gset g d f a => 0x28000000 + fld g 21 + fld d 18 + fld f 15 + fld a 9
  | .iadd g d a b => 0x2C000000 + fld g 21 + fld d 15 + fld a 9 + fld b 3
  | .imovi g d i => 0x30000000 + fld g 21 + fld d 15 + fld i 0
  | .nodc g d a b => 0x34000000 + fld g 21 + fld d 15 + fld a 9 + fld b 3
  | .nodl g d a => 0x38000000 + fld g 21 + fld d 15 + fld a 9
  | _ => 0

/-- The word of a VEC operation (slot 3): opcode and fixed bits, and each field at its place. -/
def wordVec : Instr → Nat
  | .vadd g d a b t m => 0x04000000 + fld g 21 + fld d 15 + fld a 9 + fld b 3 + fld t 1 + fld m 0
  | .vsub g d a b t m => 0x08000000 + fld g 21 + fld d 15 + fld a 9 + fld b 3 + fld t 1 + fld m 0
  | .vmul g d a b t m => 0x0C000000 + fld g 21 + fld d 15 + fld a 9 + fld b 3 + fld t 1 + fld m 0
  | .vfma g d a b t m => 0x10000000 + fld g 21 + fld d 15 + fld a 9 + fld b 3 + fld t 1 + fld m 0
  | .vfms g d a b t m => 0x14000000 + fld g 21 + fld d 15 + fld a 9 + fld b 3 + fld t 1 + fld m 0
  | .vfnma g d a b t m => 0x18000000 + fld g 21 + fld d 15 + fld a 9 + fld b 3 + fld t 1 + fld m 0
  | .vdiv g d a b t m => 0x1C000000 + fld g 21 + fld d 15 + fld a 9 + fld b 3 + fld t 1 + fld m 0
  | .vsqrt g d a t m => 0x20000000 + fld g 21 + fld d 15 + fld a 9 + fld t 1 + fld m 0
  | .vmin g d a b t m => 0x24000000 + fld g 21 + fld d 15 + fld a 9 + fld b 3 + fld t 1 + fld m 0
  | .vmax g d a b t m => 0x28000000 + fld g 21 + fld d 15 + fld a 9 + fld b 3 + fld t 1 + fld m 0
  | .vabs g d a t m => 0x2C000000 + fld g 21 + fld d 15 + fld a 9 + fld t 1 + fld m 0
  | .vneg g d a t m => 0x30000000 + fld g 21 + fld d 15 + fld a 9 + fld t 1 + fld m 0
  | .vcpys g d a b t m => 0x34000000 + fld g 21 + fld d 15 + fld a 9 + fld b 3 + fld t 1 + fld m 0
  | .vcmp g m a b c t k => 0x38000000 + fld g 21 + fld m 18 + fld a 12 + fld b 6 + fld c 3 + fld t 1 + fld k 0
  | .vsel g d a b t => 0x3C000001 + fld g 21 + fld d 15 + fld a 9 + fld b 3 + fld t 1
  | .vcvt g d a t s m => 0x40000000 + fld g 21 + fld d 15 + fld a 9 + fld t 5 + fld s 1 + fld m 0
  | .vrnd g d a f t m => 0x44000000 + fld g 21 + fld d 15 + fld a 9 + fld f 5 + fld t 1 + fld m 0
  | .vxf g d a f t m => 0x48000000 + fld g 21 + fld d 15 + fld a 9 + fld f 5 + fld t 1 + fld m 0
  | .viadd g d a b t m => 0x4C000000 + fld g 21 + fld d 15 + fld a 9 + fld b 3 + fld t 1 + fld m 0
  | .visub g d a b t m => 0x50000000 + fld g 21 + fld d 15 + fld a 9 + fld b 3 + fld t 1 + fld m 0
  | .vimul g d a b t m => 0x54000000 + fld g 21 + fld d 15 + fld a 9 + fld b 3 + fld t 1 + fld m 0
  | .vimulh g d a b t m => 0x58000000 + fld g 21 + fld d 15 + fld a 9 + fld b 3 + fld t 1 + fld m 0
  | .vand g d a b m => 0x5C000000 + fld g 21 + fld d 15 + fld a 9 + fld b 3 + fld m 0
  | .vor g d a b m => 0x60000000 + fld g 21 + fld d 15 + fld a 9 + fld b 3 + fld m 0
  | .vxor g d a b m => 0x64000000 + fld g 21 + fld d 15 + fld a 9 + fld b 3 + fld m 0
  | .vnot g d a m => 0x68000000 + fld g 21 + fld d 15 + fld a 9 + fld m 0
  | .vshl g d a b t m => 0x6C000000 + fld g 21 + fld d 15 + fld a 9 + fld b 3 + fld t 1 + fld m 0
  | .vshr g d a b t m => 0x70000000 + fld g 21 + fld d 15 + fld a 9 + fld b 3 + fld t 1 + fld m 0
  | .vsar g d a b t m => 0x74000000 + fld g 21 + fld d 15 + fld a 9 + fld b 3 + fld t 1 + fld m 0
  | .vimin g d a b t m => 0x78000000 + fld g 21 + fld d 15 + fld a 9 + fld b 3 + fld t 1 + fld m 0
  | .vimax g d a b t m => 0x7C000000 + fld g 21 + fld d 15 + fld a 9 + fld b 3 + fld t 1 + fld m 0
  | .viminn g d a b t m => 0x80000000 + fld g 21 + fld d 15 + fld a 9 + fld b 3 + fld t 1 + fld m 0
  | .vimaxn g d a b t m => 0x84000000 + fld g 21 + fld d 15 + fld a 9 + fld b 3 + fld t 1 + fld m 0
  | .vpopc g d a t m => 0x88000000 + fld g 21 + fld d 15 + fld a 9 + fld t 1 + fld m 0
  | .vclz g d a t m => 0x8C000000 + fld g 21 + fld d 15 + fld a 9 + fld t 1 + fld m 0
  | .vmov g d a m => 0x90000000 + fld g 21 + fld d 15 + fld a 9 + fld m 0
  | .vbcast g d a t m => 0x94000000 + fld g 21 + fld d 15 + fld a 9 + fld t 1 + fld m 0
  | .vins g d a b t => 0x98000000 + fld g 21 + fld d 15 + fld a 9 + fld b 3 + fld t 1
  | .vext g d a b t => 0x9C000000 + fld g 21 + fld d 15 + fld a 9 + fld b 3 + fld t 1
  | .vperm g d a b m => 0xA0000000 + fld g 21 + fld d 15 + fld a 9 + fld b 3 + fld m 0
  | .vslide g d a b t m => 0xA4000000 + fld g 21 + fld d 15 + fld a 9 + fld b 3 + fld t 1 + fld m 0
  | .vzip g d a b => 0xA8000000 + fld g 21 + fld d 15 + fld a 9 + fld b 3
  | .vunzip g d a b => 0xAC000000 + fld g 21 + fld d 15 + fld a 9 + fld b 3
  | .vcompress g d a t => 0xB0000001 + fld g 21 + fld d 15 + fld a 9 + fld t 1
  | .vexpand g d a t => 0xB4000001 + fld g 21 + fld d 15 + fld a 9 + fld t 1
  | .vred g d a f t m => 0xB8000000 + fld g 21 + fld d 15 + fld a 9 + fld f 5 + fld t 1 + fld m 0
  | .vscan g d a f t m => 0xBC000000 + fld g 21 + fld d 15 + fld a 9 + fld f 5 + fld t 1 + fld m 0
  | .mand g d a b => 0xC0000000 + fld g 21 + fld d 18 + fld a 15 + fld b 12
  | .mor g d a b => 0xC4000000 + fld g 21 + fld d 18 + fld a 15 + fld b 12
  | .mxor g d a b => 0xC8000000 + fld g 21 + fld d 18 + fld a 15 + fld b 12
  | .mnot g d a => 0xCC000000 + fld g 21 + fld d 18 + fld a 15
  | .mpop g d a => 0xD0000000 + fld g 21 + fld d 15 + fld a 12
  | .mfirst g d a => 0xD4000000 + fld g 21 + fld d 15 + fld a 12
  | .vhist g d a t m => 0xD8000000 + fld g 21 + fld d 15 + fld a 9 + fld t 1 + fld m 0
  | .vqclip g d a b t => 0xDC000000 + fld g 21 + fld d 15 + fld a 9 + fld b 3 + fld t 1
  | .vquant g d a t => 0xE0000002 + fld g 21 + fld d 15 + fld a 9 + fld t 5
  | .vdeq g d a s => 0xE4000020 + fld g 21 + fld d 15 + fld a 9 + fld s 1
  | _ => 0

/-- The word of a MXU operation (slot 4): opcode and fixed bits, and each field at its place. -/
def wordMxu : Instr → Nat
  | .mxlw g t f s => 0x04000000 + fld g 21 + fld t 14 + fld f 10 + fld s 8
  | .mxsw g => 0x08000000 + fld g 21
  | .mxs g b t f r => 0x0C000000 + fld g 21 + fld b 17 + fld t 10 + fld f 6 + fld r 0
  | .mxrank g b t r => 0x10000040 + fld g 21 + fld b 17 + fld t 10 + fld r 0
  | .mxz g => 0x14000000 + fld g 21
  | _ => 0

/-- The word of a ACC operation (slot 5): opcode and fixed bits, and each field at its place. -/
def wordAcc : Instr → Nat
  | .acz g b r c => 0x04000000 + fld g 21 + fld b 17 + fld r 11 + fld c 5
  | .acrd g b t r f => 0x08000000 + fld g 21 + fld b 17 + fld t 10 + fld r 4 + fld f 0
  | .acwr g b t r f => 0x0C000000 + fld g 21 + fld b 17 + fld t 10 + fld r 4 + fld f 0
  | .acadd g b t r f => 0x10000000 + fld g 21 + fld b 17 + fld t 10 + fld r 4 + fld f 0
  | .acmv g b v r m => 0x14000000 + fld g 21 + fld b 17 + fld v 11 + fld r 5 + fld m 0
  | .acfmt g b f => 0x18000000 + fld g 21 + fld b 17 + fld f 0
  | .acscl g b s r => 0x1C000000 + fld g 21 + fld b 17 + fld s 11 + fld r 5
  | .acsclE g b s r => 0x1C000001 + fld g 21 + fld b 17 + fld s 11 + fld r 5
  | .acbias g b v r => 0x20000000 + fld g 21 + fld b 17 + fld v 11 + fld r 5
  | _ => 0

/-- The word of a TLS operation (slot 6): opcode and fixed bits, and each field at its place. -/
def wordTls : Instr → Nat
  | .tld g v t r => 0x04000000 + fld g 21 + fld v 15 + fld t 8 + fld r 3
  | .tst g v t r => 0x08000000 + fld g 21 + fld v 15 + fld t 8 + fld r 3
  | .tlds g s t i z => 0x0C000000 + fld g 21 + fld s 15 + fld t 8 + fld i 2 + fld z 0
  | .tsts g s t i z => 0x10000000 + fld g 21 + fld s 15 + fld t 8 + fld i 2 + fld z 0
  | .tfill g t s f w => 0x14000000 + fld g 21 + fld t 14 + fld s 8 + fld f 2 + fld w 0
  | .tfree g t => 0x18000000 + fld g 21 + fld t 14
  | .tsetf g t => 0x1C000000 + fld g 21 + fld t 14
  | .txfer g t k r c => 0x20000000 + fld g 21 + fld t 14 + fld k 8 + fld r 6 + fld c 3
  | .txferRow g t k r => 0x20000002 + fld g 21 + fld t 14 + fld k 8 + fld r 6
  | .txferAll g t k => 0x20000004 + fld g 21 + fld t 14 + fld k 8
  | .tcopy g d s n => 0x24000000 + fld g 21 + fld d 14 + fld s 7 + fld n 1
  | .tpack g d s n => 0x28000000 + fld g 21 + fld d 14 + fld s 7 + fld n 1
  | .tatom g s t o y => 0x2C000000 + fld g 21 + fld s 15 + fld t 8 + fld o 5 + fld y 3
  | .thdr g t s => 0x30000000 + fld g 21 + fld t 14 + fld s 8
  | .tfmt g t s c f => 0x34000000 + fld g 21 + fld t 14 + fld s 8 + fld c 4 + fld f 0
  | _ => 0

/-- The word of a ENG operation (slot 7): opcode and fixed bits, and each field at its place. -/
def wordEng : Instr → Nat
  | .hfet g t s h e => 0x04000000 + fld g 21 + fld t 14 + fld s 8 + fld h 3 + fld e 0
  | .hput g t s h e => 0x08000000 + fld g 21 + fld t 14 + fld s 8 + fld h 3 + fld e 0
  | .hgat g t s h e => 0x0C000000 + fld g 21 + fld t 14 + fld s 8 + fld h 3 + fld e 0
  | .hsca g t s h e => 0x10000000 + fld g 21 + fld t 14 + fld s 8 + fld h 3 + fld e 0
  | .hcopy g d s t e c => 0x14000000 + fld g 21 + fld d 16 + fld s 11 + fld t 5 + fld e 2 + fld c 0
  | .hpfl2 g s h e => 0x18000000 + fld g 21 + fld s 15 + fld h 10 + fld e 0
  | .hres g s h e => 0x1C000000 + fld g 21 + fld s 15 + fld h 10 + fld e 0
  | .hprobe g s h e => 0x20000000 + fld g 21 + fld s 15 + fld h 10 + fld e 0
  | .hopen g s h => 0x24000000 + fld g 21 + fld s 15 + fld h 10
  | .hpub g s h => 0x28000000 + fld g 21 + fld s 15 + fld h 10
  | .hdisc g s h => 0x2C000000 + fld g 21 + fld s 15 + fld h 10
  | .hpin g s h => 0x30000000 + fld g 21 + fld s 15 + fld h 10
  | .hpinV g s h => 0x30000001 + fld g 21 + fld s 15 + fld h 10
  | .hunpin g s h => 0x34000000 + fld g 21 + fld s 15 + fld h 10
  | .hsub g s h u => 0x38000000 + fld g 21 + fld s 15 + fld h 10 + fld u 1
  | .hsubV g s h u => 0x38000001 + fld g 21 + fld s 15 + fld h 10 + fld u 1
  | .hunsub g s h => 0x3C000000 + fld g 21 + fld s 15 + fld h 10
  | .hver g s h => 0x40000000 + fld g 21 + fld s 15 + fld h 10
  | .hatom g s h q o y => 0x44000000 + fld g 21 + fld s 15 + fld h 10 + fld q 6 + fld o 3 + fld y 0
  | .hatomr g s h q o y => 0x48000000 + fld g 21 + fld s 15 + fld h 10 + fld q 6 + fld o 3 + fld y 0
  | .hcas g s h q y => 0x4C000000 + fld g 21 + fld s 15 + fld h 10 + fld q 6 + fld y 0
  | .tdesc g t s h y => 0x50000000 + fld g 21 + fld t 14 + fld s 8 + fld h 3 + fld y 0
  | .tgrad g t s h y => 0x54000000 + fld g 21 + fld t 14 + fld s 8 + fld h 3 + fld y 0
  | .rbind g s h x => 0x60000000 + fld g 21 + fld s 15 + fld h 10 + fld x 0
  | .rput g t s h => 0x64000000 + fld g 21 + fld t 14 + fld s 8 + fld h 3
  | .rputLast g t s h => 0x64000001 + fld g 21 + fld t 14 + fld s 8 + fld h 3
  | .rputUpd g t s h => 0x64000002 + fld g 21 + fld t 14 + fld s 8 + fld h 3
  | .rtake g t s h x => 0x68000000 + fld g 21 + fld t 14 + fld s 8 + fld h 3 + fld x 0
  | .rdone g s h x => 0x6C000000 + fld g 21 + fld s 15 + fld h 10 + fld x 0
  | .rdoneFail g s h x => 0x6C000008 + fld g 21 + fld s 15 + fld h 10 + fld x 0
  | .rstat g t s h => 0x70000000 + fld g 21 + fld t 14 + fld s 8 + fld h 3
  | .xsend g t s h => 0x80000000 + fld g 21 + fld t 14 + fld s 8 + fld h 3
  | .xsendLast g t s h => 0x80000001 + fld g 21 + fld t 14 + fld s 8 + fld h 3
  | .xref g t s => 0x84000000 + fld g 21 + fld t 14 + fld s 8
  | .csnap g t s => 0x88000000 + fld g 21 + fld t 14 + fld s 8
  | .cread g t s => 0x8C000000 + fld g 21 + fld t 14 + fld s 8
  | .fcbind g s h => 0xA0000000 + fld g 21 + fld s 15 + fld h 10
  | .fcbindUn g s => 0xA0000001 + fld g 21 + fld s 15
  | .fcstat g t s => 0xA4000000 + fld g 21 + fld t 14 + fld s 8
  | .nsend g t s h => 0xA8000000 + fld g 21 + fld t 14 + fld s 8 + fld h 3
  | .nexp g s h => 0xAC000000 + fld g 21 + fld s 15 + fld h 10
  | .ncnt g s h => 0xB0000000 + fld g 21 + fld s 15 + fld h 10
  | .svc g s n => 0xE0000000 + fld g 21 + fld s 15 + fld n 5
  | _ => 0

/-- The slot whose engine executes the operation (R21); `none` for `nop`, which every slot holds, and for the steps that have no word. -/
def slotOf : Instr → Option Nat
  | .br _ _ _ | .brp _ _ _ | .brx _ _ _ _ | .call _ _ _ | .ret _ _ | .nest _ _ | .nestReg _ _ | .lbody _ _
  | .lbrk _ _ _ | .rot | .chkpt | .mark _ _ | .bar | .sstep | .wait _ | .yield | .exit | .trap _ | .bktj _ _
  | .setb _ _ _ => some 0
  | .add _ _ _ _ _ | .addi _ _ _ _ | .sub _ _ _ _ _ | .mul _ _ _ _ _ | .mulh _ _ _ _ _ | .mulhn _ _ _ _ _
  | .div _ _ _ _ _ | .divn _ _ _ _ _ | .rem _ _ _ _ _ | .remn _ _ _ _ _ | .and _ _ _ _ _ | .or _ _ _ _ _
  | .xor _ _ _ _ _ | .andn _ _ _ _ _ | .shl _ _ _ _ _ | .shr _ _ _ _ _ | .sar _ _ _ _ _ | .rotl _ _ _ _ _
  | .min _ _ _ _ _ | .max _ _ _ _ _ | .minn _ _ _ _ _ | .maxn _ _ _ _ _ | .clz _ _ _ _ | .ctz _ _ _ _
  | .popc _ _ _ _ | .sext _ _ _ _ _ | .zext _ _ _ _ _ | .movi _ _ _ | .movk _ _ _ | .mov _ _ _ _
  | .sel _ _ _ _ _ | .cmp _ _ _ _ _ _ | .pand _ _ _ _ _ _ | .por _ _ _ _ _ _ | .pnot _ _ _ | .s2p _ _ _
  | .p2s _ _ _ | .rdsr _ _ _ | .wrsr _ _ _ | .sfadd _ _ _ _ _ | .sfmul _ _ _ _ _ | .sffma _ _ _ _ _
  | .sfcmp _ _ _ _ _ _ | .sfcvt _ _ _ _ _ | .sfxf _ _ _ _ _ => some 1
  | .qset _ _ _ _ | .qadd _ _ _ _ | .qinc _ _ _ _ | .qcmp _ _ _ _ _ _ | .qmov _ _ _ | .q2s _ _ _ _
  | .s2q _ _ _ _ | .hmov _ _ _ | .hld _ _ _ | .gset _ _ _ _ | .iadd _ _ _ _ | .imovi _ _ _ | .nodc _ _ _ _
  | .nodl _ _ _ => some 2
  | .vadd _ _ _ _ _ _ | .vsub _ _ _ _ _ _ | .vmul _ _ _ _ _ _ | .vfma _ _ _ _ _ _ | .vfms _ _ _ _ _ _
  | .vfnma _ _ _ _ _ _ | .vdiv _ _ _ _ _ _ | .vsqrt _ _ _ _ _ | .vmin _ _ _ _ _ _ | .vmax _ _ _ _ _ _
  | .vabs _ _ _ _ _ | .vneg _ _ _ _ _ | .vcpys _ _ _ _ _ _ | .vcmp _ _ _ _ _ _ _ | .vsel _ _ _ _ _
  | .vcvt _ _ _ _ _ _ | .vrnd _ _ _ _ _ _ | .vxf _ _ _ _ _ _ | .viadd _ _ _ _ _ _ | .visub _ _ _ _ _ _
  | .vimul _ _ _ _ _ _ | .vimulh _ _ _ _ _ _ | .vand _ _ _ _ _ | .vor _ _ _ _ _ | .vxor _ _ _ _ _
  | .vnot _ _ _ _ | .vshl _ _ _ _ _ _ | .vshr _ _ _ _ _ _ | .vsar _ _ _ _ _ _ | .vimin _ _ _ _ _ _
  | .vimax _ _ _ _ _ _ | .viminn _ _ _ _ _ _ | .vimaxn _ _ _ _ _ _ | .vpopc _ _ _ _ _ | .vclz _ _ _ _ _
  | .vmov _ _ _ _ | .vbcast _ _ _ _ _ | .vins _ _ _ _ _ | .vext _ _ _ _ _ | .vperm _ _ _ _ _
  | .vslide _ _ _ _ _ _ | .vzip _ _ _ _ | .vunzip _ _ _ _ | .vcompress _ _ _ _ | .vexpand _ _ _ _
  | .vred _ _ _ _ _ _ | .vscan _ _ _ _ _ _ | .mand _ _ _ _ | .mor _ _ _ _ | .mxor _ _ _ _ | .mnot _ _ _
  | .mpop _ _ _ | .mfirst _ _ _ | .vhist _ _ _ _ _ | .vqclip _ _ _ _ _ | .vquant _ _ _ _ | .vdeq _ _ _ _ => some 3
  | .mxlw _ _ _ _ | .mxsw _ | .mxs _ _ _ _ _ | .mxrank _ _ _ _ | .mxz _ => some 4
  | .acz _ _ _ _ | .acrd _ _ _ _ _ | .acwr _ _ _ _ _ | .acadd _ _ _ _ _ | .acmv _ _ _ _ _ | .acfmt _ _ _
  | .acscl _ _ _ _ | .acsclE _ _ _ _ | .acbias _ _ _ _ => some 5
  | .tld _ _ _ _ | .tst _ _ _ _ | .tlds _ _ _ _ _ | .tsts _ _ _ _ _ | .tfill _ _ _ _ _ | .tfree _ _
  | .tsetf _ _ | .txfer _ _ _ _ _ | .txferRow _ _ _ _ | .txferAll _ _ _ | .tcopy _ _ _ _ | .tpack _ _ _ _
  | .tatom _ _ _ _ _ | .thdr _ _ _ | .tfmt _ _ _ _ _ => some 6
  | .hfet _ _ _ _ _ | .hput _ _ _ _ _ | .hgat _ _ _ _ _ | .hsca _ _ _ _ _ | .hcopy _ _ _ _ _ _ | .hpfl2 _ _ _ _
  | .hres _ _ _ _ | .hprobe _ _ _ _ | .hopen _ _ _ | .hpub _ _ _ | .hdisc _ _ _ | .hpin _ _ _ | .hpinV _ _ _
  | .hunpin _ _ _ | .hsub _ _ _ _ | .hsubV _ _ _ _ | .hunsub _ _ _ | .hver _ _ _ | .hatom _ _ _ _ _ _
  | .hatomr _ _ _ _ _ _ | .hcas _ _ _ _ _ | .tdesc _ _ _ _ _ | .tgrad _ _ _ _ _ | .rbind _ _ _ _
  | .rput _ _ _ _ | .rputLast _ _ _ _ | .rputUpd _ _ _ _ | .rtake _ _ _ _ _ | .rdone _ _ _ _
  | .rdoneFail _ _ _ _ | .rstat _ _ _ _ | .xsend _ _ _ _ | .xsendLast _ _ _ _ | .xref _ _ _ | .csnap _ _ _
  | .cread _ _ _ | .fcbind _ _ _ | .fcbindUn _ _ | .fcstat _ _ _ | .nsend _ _ _ _ | .nexp _ _ _ | .ncnt _ _ _
  | .svc _ _ _ => some 7
  | _ => none

/-- The word of a slot operation (R60 to R78), as a number. The other steps have no word. -/
def encodeNat (i : Instr) : Nat :=
  match slotOf i with
  | some 0 => wordSeq i | some 1 => wordSca i | some 2 => wordIdx i | some 3 => wordVec i
  | some 4 => wordMxu i | some 5 => wordAcc i | some 6 => wordTls i | some 7 => wordEng i
  | _ => 0

/-- The bits that the row's format marks zero, or that the instruction does not use (R62, reserved field). -/
def reservedBits : Instr → Nat
  | .clz _ _ _ _ | .ctz _ _ _ _ | .popc _ _ _ _ | .mov _ _ _ _ | .vsqrt _ _ _ _ _ | .vabs _ _ _ _ _
  | .vneg _ _ _ _ _ | .vnot _ _ _ _ | .vpopc _ _ _ _ _ | .vclz _ _ _ _ _ | .vmov _ _ _ _ | .vbcast _ _ _ _ _
  | .vcompress _ _ _ _ | .vexpand _ _ _ _ | .vhist _ _ _ _ _ => 0x00001F8
  | .hld _ _ _ | .hopen _ _ _ | .hpub _ _ _ | .hdisc _ _ _ | .hunpin _ _ _ | .hunsub _ _ _ | .hver _ _ _
  | .nexp _ _ _ | .ncnt _ _ _ => 0x00003FF
  | .q2s _ _ _ _ | .s2q _ _ _ _ | .mxlw _ _ _ _ | .thdr _ _ _ | .xref _ _ _ | .csnap _ _ _ | .cread _ _ _
  | .fcstat _ _ _ => 0x00000FF
  | .iadd _ _ _ _ | .nodc _ _ _ _ | .tld _ _ _ _ | .tst _ _ _ _ | .tatom _ _ _ _ _ | .rstat _ _ _ _
  | .nsend _ _ _ _ => 0x0000007
  | .rot | .chkpt | .bar | .sstep | .yield | .exit => 0x3FFFFFF
  | .mand _ _ _ _ | .mor _ _ _ _ | .mxor _ _ _ _ | .mpop _ _ _ | .mfirst _ _ _ => 0x0000FFF
  | .sfcvt _ _ _ _ _ | .txfer _ _ _ _ _ | .tcopy _ _ _ _ | .tpack _ _ _ _ => 0x0000001
  | .vrnd _ _ _ _ _ _ | .vxf _ _ _ _ _ _ | .vred _ _ _ _ _ _ | .vscan _ _ _ _ _ _ => 0x0000018
  | .hpfl2 _ _ _ _ | .hres _ _ _ _ | .hprobe _ _ _ _ | .rbind _ _ _ _ => 0x00003F8
  | .ret _ _ | .mxsw _ | .mxz _ => 0x01FFFFF
  | .s2p _ _ _ | .p2s _ _ _ | .hmov _ _ _ => 0x00007FF
  | .qadd _ _ _ _ | .gset _ _ _ _ | .nodl _ _ _ => 0x00001FF
  | .hpin _ _ _ | .hpinV _ _ _ | .fcbind _ _ _ => 0x00003FE
  | .rput _ _ _ _ | .rputLast _ _ _ _ | .rputUpd _ _ _ _ => 0x0000004
  | .nestReg _ _ | .bktj _ _ => 0x000FFFF
  | .mark _ _ | .sfxf _ _ _ _ _ => 0x000000F
  | .pand _ _ _ _ _ _ | .por _ _ _ _ _ _ => 0x000007F
  | .pnot _ _ _ | .qmov _ _ _ => 0x0001FFF
  | .acz _ _ _ _ | .svc _ _ _ => 0x000001F
  | .tfree _ _ | .tsetf _ _ => 0x0003FFF
  | .hsub _ _ _ _ | .hsubV _ _ _ _ => 0x00003FC
  | .rdone _ _ _ _ | .rdoneFail _ _ _ _ => 0x00003F0
  | .xsend _ _ _ _ | .xsendLast _ _ _ _ => 0x0000006
  | .nest _ _ => 0x03F0000
  | .lbody _ _ => 0x07FFFE0
  | .lbrk _ _ _ => 0x003FFFF
  | .wait _ => 0x00FFFFF
  | .trap _ => 0x3FF0000
  | .rdsr _ _ _ => 0x0007F00
  | .wrsr _ _ _ => 0x01F8100
  | .qcmp _ _ _ _ _ _ => 0x0000003
  | .mnot _ _ _ => 0x0007FFF
  | .acfmt _ _ _ => 0x001FFF0
  | .tfill _ _ _ _ _ => 0x00000F8
  | .txferRow _ _ _ _ => 0x0000039
  | .txferAll _ _ _ => 0x00000F9
  | .tfmt _ _ _ _ _ => 0x00000E0
  | .hcas _ _ _ _ _ => 0x0000038
  | .fcbindUn _ _ => 0x0007FFE
  | .nop => 0x3FFFFFF
  | _ => 0

/-- The fields (low bit, width) that the row fixes to one value, where another value is a field-value error (R62). -/
def fixedFields : Instr → List (Nat × Nat)
  | .vsel _ _ _ _ _ | .vins _ _ _ _ _ | .vext _ _ _ _ _ | .vcompress _ _ _ _ | .vexpand _ _ _ _
  | .vqclip _ _ _ _ _ => [(0, 1)]
  | .vand _ _ _ _ _ | .vor _ _ _ _ _ | .vxor _ _ _ _ _ | .vnot _ _ _ _ | .vmov _ _ _ _ | .vperm _ _ _ _ _
  | .txfer _ _ _ _ _ | .txferRow _ _ _ _ | .txferAll _ _ _ => [(1, 2)]
  | .vzip _ _ _ _ | .vunzip _ _ _ _ => [(1, 2), (0, 1)]
  | .vquant _ _ _ _ => [(1, 4), (0, 1)]
  | .vdeq _ _ _ _ => [(5, 4), (0, 1)]
  | .mxrank _ _ _ _ => [(6, 4)]
  | .acscl _ _ _ _ | .acsclE _ _ _ _ | .acbias _ _ _ _ => [(0, 5)]
  | .rput _ _ _ _ | .rputLast _ _ _ _ | .rputUpd _ _ _ _ => [(0, 2)]
  | _ => []
/-- Why a slot word is illegal (R62, R63, R20). -/
inductive DecodeError where
  /-- The opcode's cell in the slot's map is “—”. -/
  | unassigned (opcode : Nat)
  /-- A bit that the format marks zero is 1: the range high:low of the reserved field. -/
  | reserved (high low : Nat)
  /-- A field holds a value outside its limits: the bit position of the field. -/
  | field (position : Nat)
  /-- A tile field holds 96 to 127 (R24): the bit position of the field. -/
  | tileRange (position : Nat)
  /-- `rdsr` or `wrsr` names an unassigned (0) or read-only (1) special register (R20). -/
  | special (number reason : Nat)
  deriving DecidableEq, Repr

/-- The low bits of the fields at which a run of reserved bits divides: a field that the instruction does not use stands beside
bits that its format marks zero, or beside another such field (R65 to R77). -/
def fieldCuts : Instr → List Nat
  | .vsqrt _ _ _ _ _ | .vabs _ _ _ _ _ | .vneg _ _ _ _ _ | .vnot _ _ _ _ | .vpopc _ _ _ _ _ | .vclz _ _ _ _ _ | .vmov _ _ _ _
  | .vbcast _ _ _ _ _ | .vcompress _ _ _ _ | .vexpand _ _ _ _ | .vhist _ _ _ _ _ => [5]
  | .pnot _ _ _ => [7, 8, 9]
  | .qmov _ _ _ => [9]
  | .nodl _ _ _ => [3]
  | .mnot _ _ _ => [12]
  | .tfree _ _ | .tsetf _ _ => [8]
  | .txferAll _ _ _ => [6]
  | .xref _ _ _ | .csnap _ _ _ | .cread _ _ _ | .fcstat _ _ _ => [3]
  | .fcbindUn _ _ => [10]
  | _ => []

/-- The low end of the field of `mask` that holds bit `hi`, with `cuts` the fields' low bits. -/
def fieldLow (mask : Nat) (cuts : List Nat) : Nat → Nat
  | 0 => 0
  | hi + 1 => if cuts.contains (hi + 1) || !bitOf mask hi then hi + 1 else fieldLow mask cuts hi

/-- The reserved field that holds the highest offending bit of `bad`. -/
def reservedRange (mask : Nat) (cuts : List Nat) (bad : Nat) : Nat × Nat :=
  let up := (List.range 26).foldl (fun h k => if h + 1 = k ∧ bitOf mask k ∧ !cuts.contains k then k else h) (Nat.log2 bad)
  (up, fieldLow mask cuts (Nat.log2 bad))

/-- R62 and R63 for one slot: an unassigned opcode comes before a reserved field, and a reserved field before a field
value. Among several field-value errors of one word the manual gives no order; the model takes the fields that the row fixes,
then the special register, then a tile out of range, then the other values (log entry 115). -/
def decodeSlot (slot n : Nat) : Except DecodeError Instr :=
  match rowOf slot n with
  | none => .error (.unassigned (fieldOf n 26 6))
  | some i =>
    let diff := n ^^^ encodeNat i
    let bad := diff &&& reservedBits i
    if bad ≠ 0 then
      let r := reservedRange (reservedBits i) (fieldCuts i) bad
      .error (.reserved r.1 r.2)
    else match (fixedFields i).find? (fun f => fieldOf diff f.1 f.2 ≠ 0) with
      | some f => .error (.field f.1)
      | none =>
        match specialError i with
        | some (num, reason) => .error (.special num reason)
        | none =>
          match tileError i with
          | some pos => .error (.tileRange pos)
          | none =>
            match valueError i with
            | some pos => .error (.field pos)
            | none => .ok i

/-- The word of a slot operation. -/
def encode (i : Instr) : BitVec 32 := BitVec.ofNat 32 (encodeNat i)

/-- A slot word: four bytes, the lowest address first (R8). -/
def wordOfBytes (b : List Byte) : Nat :=
  b.foldr (fun x acc => x.toNat + 256 * acc) 0

/-- The four bytes of a slot word in memory order (R8). -/
def bytesOfWord (n : Nat) : List Byte :=
  [BitVec.ofNat 8 n, BitVec.ofNat 8 (n / 256), BitVec.ofNat 8 (n / 65536), BitVec.ofNat 8 (n / 16777216)]

/-- The eight slot words of a bundle's 32 bytes: slot i holds bytes 4i to 4i + 3 (R8, R21). -/
def bundleWords (b : List Byte) : List Nat :=
  (List.range 8).map fun i => wordOfBytes ((b.drop (4 * i)).take 4)

/-- The first slot whose decoder accepts the word. One word may stand in several slots with several meanings (R66 to
R78): the table does not say the slot of a row, and this picks the lowest (log entry 4). -/
def slotFor (n : Nat) : Option Nat :=
  (List.range 8).find? fun s => (decodeSlot s n).toOption.isSome

/-- What the decoder reads from a table row's word: the operation of the lowest slot that accepts it. The word is laid
out as the bundle stores it and read back through its bytes. -/
def decodeTableWord (nbits w : Nat) : Option Instr :=
  if nbits = 32 ∧ w < 2 ^ 32 then
    let n := wordOfBytes (bytesOfWord w)
    match slotFor n with
    | some s => (decodeSlot s n).toOption
    | none => none
  else none

end Sys2Proof
end

