-- ==== Sys2Proof/Config.lean ====
section
/-!
DEFINITION. What the part fixes, and the values the manual leaves open. A constant without a body is a free value:
nothing in Lean can evaluate it, so a statement about the model holds whatever it is. Each is named in the assumption
log.
-/

namespace Sys2Proof.Config

/-- Clusters of the package (R2). -/
def clusters : Nat := 48
/-- Tiles of a core (R2). -/
def tiles : Nat := 96
/-- Bytes of a tile (R2). -/
def tileBytes : Nat := 8192
/-- Entries of a context's withholding buffer (R196). -/
def withholding : Nat := 64
/-- Commands in flight of a core (R193). -/
def inFlight : Nat := 64
/-- Entries of each per-context table of R210. -/
def tableEntries : Nat := 8
/-- Cycles between the start of a stream and its row 0 (R27). -/
def streamLatency : Nat := 14
/-- The swap grace of R332, in cycles. -/
def swapGrace : Nat := 16384
/-- The math-library version that the part implements (R58). -/
def mathVersion : Nat := 1
/-- Journal entries of a partition (R382). -/
def journalEntries : Nat := 4096
/-- Bytes of a page of the tiers (R262). -/
def pageBytes : Nat := 2097152
/-- Bytes of a chunk of storage that a draft copies on its first write (R307). -/
def chunkBytes : Nat := 8192
/-- Lines of 128 bytes of a die's L2, 96 MiB, and of its remote-data cache, 24 MiB (R2, R262). -/
def l2Lines : Nat := 786432
def remoteLines : Nat := 196608
/-- Pages of the package's near tier, 768 GiB, and of its far tier, 1,536 GiB (R2). -/
def nearTierPages : Nat := 393216
def farTierPages : Nat := 786432
/-- A free value from which the size of a queue of a partition follows (R343). -/
opaque queueDepth : Nat → Nat → Nat
/-- Entries of a virtqueue (R343): 16 to 1,024, as its driver sets it up (log entry 112). -/
def queueEntries (part queue : Nat) : Nat := queueDepth part queue % 1009 + 16
/-- Viol service cores of a package (R381). -/
def violCores : Nat := 16
/-- Range entries and page entries of a Handle Resolution Unit (R302), and entries of a core's micro-cache (R373). -/
def rangeEntries : Nat := 256
def pageEntries : Nat := 2048
def microEntries : Nat := 16
/-- Bytes of a page of an expert-buffer pool (R229). -/
def bufferPage : Nat := 65536
/-- The part field of R342. -/
def part : Nat := 4

/-- The memory key that the root of trust draws (R384), by the count of free values drawn before it. -/
opaque partitionKey : Nat → BitVec 512
/-- A signature made with the certificate key of slot 0 (R388, R390), over a digest, by the count of free values drawn
before it. -/
opaque signature : Nat → BitVec 256 → BitVec 512
/-- The certificate digest and chain of slot 0 (R388). -/
opaque certDigest : BitVec 256
opaque certChain : List Byte
/-- The firmware version of Rilsia (R342). -/
opaque firmware : BitVec 32
/-- The order in which two agents reach one home is the schedule's; the choice of an implementation between free page
frames is not visible. The resource index of a new receiver (R353), by the count of indices given before it. -/
opaque resourceIndex : Nat → BitVec 24
/-- The lines of a range that a cache already held (R219): how many of the n lines a prefetch brings, by the count of
free values drawn before it. -/
opaque linesBrought : Nat → Nat → Nat

/-- The header and scale bytes of a group of scaled or OX4 elements that does not lie in one block of its object (R212), as a function
of the headers and scales concerned and the byte: the manual gives no value for them. -/
opaque straddled : List Byte → Nat → Byte

/-- The slot of its record queue in which the router keeps a live record (R247), by the slots that are taken; the manual gives the
capacity and no slot. -/
opaque queueSlot : List Nat → Nat

/-- The host still has a good copy of bad data that was last written from it (R371), by the count of free values drawn before it. -/
opaque goodCopy : Nat → Bool
/-- The near tier of another package has room for storage placed there (R305), by the count of free values drawn before it. -/
opaque remoteRoom : Nat → Bool
/-- The cycles by which a cluster's clock (R17) has gone on while no team stood on the cluster, by the count of free values drawn
before: no turn of the model counts them. -/
opaque cycleAt : Nat → Nat

/-- Where Rilsia starts to look for the number of a new object (R5, R295), and the first generation of a number, by the count
of free values drawn before it. -/
opaque objectNumber : Nat → Nat
opaque firstGeneration : Nat → Nat
/-- The package of shard n of a new object (R300), by the count of free values drawn before it and n. -/
opaque shardHome : Nat → Nat → Nat
/-- The die of shard n of a new object (R300), in the same way. -/
opaque shardDie : Nat → Nat → Nat
/-- The pages of a tier that the saved image of a team takes (R333), by its cores: the layout of an image is Rilsia's own. -/
opaque imagePages : Nat → Nat
/-- The words of a counter set whose layout the manual does not give (R354, R357, R378), by the set and the values of its
counters. -/
opaque counterWords : Nat → List Nat → List (BitVec 64)
/-- The near-tier quota of a partition that Rilsia creates (R265, R384), by the partition and the die. -/
opaque newQuota : Nat → Nat → Nat
/-- Which of the streams that no partition has a new partition gets (R320, R342), by the count of free values drawn before it. -/
opaque newStream : Nat → Nat
/-- The fields of the record with which a launch ends that no trap has ended (R385), by the count of free values drawn before it and
the field. -/
opaque reassignField : Nat → Nat → BitVec 64
/-- The window index of a new host buffer (R346), by the count of free values drawn before it. -/
opaque windowIndex : Nat → BitVec 32
/-- The place of an object's hint record in the home's hint table (R300), by the object's number: no operation reads it. -/
opaque hintIndex : Nat → BitVec 24

end Sys2Proof.Config
end

