-- ==== Sys2Proof/Machine/State.lean ====
section
/-!
DEFINITION. The state of the package, as plain data, holding every piece of state that the manual names (INVENTORY.md
lists each with its rule), the outcomes' reasons, and the state after reset.
-/

namespace Sys2Proof.Machine

/-- A memory: its bytes by address, addresses strictly rising, no listed byte zero. An unlisted address reads as zero:
tiles are zero at team start (R186) and a created object holds zeros (R378). -/
abbrev Mem := List Host.Cell

/-- Accumulator elements by index, in the same form: an unlisted element is all zero bits (R13). -/
abbrev Bank64 := List (Nat × BitVec 64)

/-! ## Registers of a context (R13, R17, R88) -/

/-- A bucket entry (R13): limit and target bundle index; no target is `none`. -/
structure Bucket where
  limit : BitVec 32
  target : Option Int
  deriving DecidableEq, Repr

/-- A descent path trace (R237). -/
structure Trace where
  entries : Vector (BitVec 16) 64
  valid : BitVec 7
  depth : BitVec 5
  deriving DecidableEq, Repr

/-- A level of the loop table (R88). -/
structure Loop where
  active : Bool
  first : BitVec 32
  last : BitVec 32
  deriving DecidableEq, Repr

/-- A register that can be pending (R190, R207, R215, R237): a scalar, a mask or a path trace. -/
inductive RegName where
  | s (n : Nat)
  | m (n : Nat)
  | y (n : Nat)
  deriving DecidableEq, Repr

/-- The checkpoint operations that wait (R103 to R105), and the two that do not. -/
inductive CloseKind where
  | chkpt
  | bar
  | sstep
  | wait (s : BitVec 6)
  | exit
  deriving DecidableEq, Repr

/-- The state of a context that a checkpoint shadows: the register classes of R13 but banks and tiles, the shadowed
special registers of R17, and the sequencer state of R88. `pendingWait` is the pending-wait bit with the operation that
waits; `waitNext` is the model's own: the index at which issue goes on when the wait ends. -/
structure Regs where
  s : Vector (BitVec 64) 64
  p : Vector Bool 16
  v : Vector (BitVec 2048) 64
  m : Vector (BitVec 64) 8
  q : Vector (Vector (BitVec 32) 6) 16
  h : Vector (BitVec 64) 32
  g : Vector (BitVec 65) 8
  n : Vector (BitVec 32) 6
  b : Vector Bucket 8
  y : Vector Trace 4
  fflags : BitVec 7
  rmode : BitVec 3
  srseed : BitVec 64
  vrot : BitVec 5
  prot : BitVec 3
  ckcount : BitVec 64
  pc : BitVec 32
  returns : List (BitVec 32)
  loops : Vector Loop 6
  pendingWait : Option CloseKind
  waitNext : BitVec 32
  barCount : BitVec 32
  stepCount : BitVec 32
  pending : List RegName
  deriving DecidableEq, Repr

/-! ## A context -/

/-- A trap record (R364). -/
structure TrapRecord where
  cls : BitVec 8
  slot : BitVec 8
  ctx : BitVec 8
  bundle : BitVec 32
  detail : BitVec 32
  team : BitVec 32
  operand : BitVec 64
  deriving DecidableEq, Repr

/-- What a context is doing. -/
inductive CtxStatus where
  /-- Beyond the team's count of contexts, or no team: it does nothing (R330). -/
  | idle
  /-- It issues, or could. -/
  | running
  /-- It stands rolled back, awaiting Rilsia (R366). -/
  | awaiting
  /-- It has exited (R107). -/
  | exited
  deriving DecidableEq, Repr

/-- A slot that waits (R29, R102, R177): its slot number, its operation, the registers before its bundle, the bundle's
index, whether the bundle is a checkpoint bundle, and the tiles that the bundle's slots read (slot, tile; R187). -/
structure WaitSlot where
  slot : Nat
  op : Instr
  pre : Regs
  index : BitVec 32
  ckpt : Bool
  reads : List (Nat × Nat)
  deriving DecidableEq, Repr

/-- Where a load goes: a scalar, or a vector by its physical number (R14). -/
inductive LoadDest where
  | s (n : Nat)
  | v (n : Nat)
  deriving DecidableEq, Repr

/-- A load that has issued and is performed late (R201): where it goes, the tile, the byte offset in it and the bytes read. -/
structure LateLoad where
  dest : LoadDest
  tile : Nat
  offset : Nat
  size : Nat
  deriving DecidableEq, Repr

/-- An entry of the withholding buffer, or an effect released with it (R195, R180, R177). `entry` is false for the
effects of the checkpoint bundle itself, which take no entry. -/
inductive Held where
  | cmd (id : Nat) (entry : Bool)
  | atom (tile : Nat) (op : BitVec 3) (ty : BitVec 2) (operand index expected : BitVec 64) (entry : Bool)
  | fullBit (tile : Nat) (set : Bool)
  deriving DecidableEq, Repr

/-- A joined draft (R210). -/
structure DraftEntry where
  obj : ObjKey
  handle : BitVec 64
  draftNo : Nat
  deriving DecidableEq, Repr

/-- A pin (R210). -/
structure PinEntry where
  obj : ObjKey
  handle : BitVec 64
  version : Nat
  deriving DecidableEq, Repr

/-- A refusal entry (R228) with its mark. -/
structure Refusal32 where
  word : BitVec 32
  marked : Bool
  deriving DecidableEq, Repr

/-- A record of a stage set (R245, R246), with the slot of the record queue that it takes while it is live. -/
structure Record where
  header : BitVec 64
  payload : List Byte
  slot : Nat
  deriving DecidableEq, Repr

/-- One hardware context of a core. -/
structure Ctx where
  status : CtxStatus
  /-- The context's index in its team (R15). -/
  index : Nat
  live : Regs
  shadow : Regs
  /-- Bundles retired since the last checkpoint bundle (R88). -/
  region : Nat
  waiting : List WaitSlot
  /-- A checkpoint bundle whose steps 2 to 5 (R98) have not begun, with its index. -/
  closing : Option (CloseKind × BitVec 32)
  withheld : List Held
  drafts : List DraftEntry
  pins : List PinEntry
  refusals : List Refusal32
  overflow : Bool
  overflowMarked : Bool
  /-- Stage-set binding (R247): the set and the stage. -/
  binding : Option (ObjKey × Nat)
  /-- The record held from `rtake` until `rdone` (R247). -/
  held : Option (ObjKey × Nat × Record)
  /-- The watchdog's silence counter (R372). -/
  silence : Nat
  /-- The unresolved trap. -/
  trap : Option TrapRecord
  /-- Cycles since the stop was requested (R332). -/
  grace : Nat
  /-- Its last retired bundle is a checkpoint bundle and it has issued nothing since (R332). -/
  atCheckpoint : Bool
  /-- It was rolled back and has not issued since: its streams and any weight load end first (R199). -/
  draining : Bool
  /-- The model's own: slot writes of other contexts reach this one late (R201). -/
  lags : Bool
  /-- The model's own: loads of this context from tiles are performed late (R201). -/
  defers : Bool
  /-- Loads that have issued and are not performed, oldest first. -/
  loads : List LateLoad
  /-- Entries of the bound table that hold its stalled `mark` (R270). -/
  holds : List Nat
  deriving DecidableEq, Repr

/-! ## A core -/

/-- A tile's header and state (R173, R185); its bytes lie in the core's scratchpad at 8,192 times its number. -/
structure Tile where
  rows : BitVec 7
  rowbytes : BitVec 14
  fmt : BitVec 4
  scaled : Bool
  full : Bool
  owner : BitVec 2
  reserved : Bool
  readBits : BitVec 4
  writtenBits : BitVec 4
  deriving DecidableEq, Repr

/-- A weight plane with its record (R154, R155): the plane's bytes, from which its weights are decoded. -/
structure Plane where
  bytes : Mem
  fmt : BitVec 4
  sparsity : BitVec 2
  scaled : Bool
  deriving DecidableEq, Repr

/-- The format of a bank (R154). -/
inductive AccFmt where
  | f64
  | f32
  | i32
  deriving DecidableEq, Repr

/-- A stream in progress (R160): the rows not yet written, with their bytes as read at the start cycle. -/
structure Stream where
  ctx : Nat
  rank : Bool
  bank : Nat
  afmt : BitVec 4
  scaled : Bool
  plane : Plane
  start : Nat
  row : Nat
  data : List (List Byte)
  deriving DecidableEq, Repr

/-- A weight load in the background (R157): the plane it will write and the flags it raises at completion. -/
structure Load where
  ctx : Nat
  plane : Plane
  flags : BitVec 7
  deriving DecidableEq, Repr

/-- A slot write of one context that has not reached another (R201): the reader, the aligned 8 bytes by their number in the
scratchpad, what the reader still finds there, the writer, the writer's barrier and superstep counts at the write (R204), and
whether the writer has since set the tile's full bit (R203). -/
structure Unseen where
  reader : Nat
  word : Nat
  old : BitVec 64
  writer : Nat
  bars : Nat
  steps : Nat
  shown : Bool
  deriving DecidableEq, Repr

/-- A translation entry (R302) of a cluster's Handle Resolution Unit, or of a core's micro-cache (R373): its tag (object, version
or draft, shard), the one 2 MiB page that it maps or none for a range entry, the byte extent [base, limit) of the shard that it
maps, and where that lies. `kept` is a range entry that only a shootdown removes (R305). -/
structure Xlat where
  cluster : Nat
  obj : ObjKey
  draft : Bool
  tag : Nat
  shard : Nat
  page : Option Nat
  base : Nat
  limit : Nat
  package : Nat
  die : Nat
  far : Bool
  kept : Bool
  deriving DecidableEq, Repr

/-- One core of a team, with its contexts (R12, R13, R154, R185). -/
structure CoreRec where
  /-- The model's name of the core, given when its team is started. -/
  id : Nat
  launch : Nat
  team : Nat
  /-- Relative index: row times columns plus column (R181). -/
  rel : Nat
  /-- Physical core: 28 times the cluster plus 7 times the row plus the column (R374); `none` while swapped out. -/
  place : Option Nat
  ctxs : Vector Ctx 4
  /-- The context that issues, or issued last (R31). -/
  cur : Fin 4
  /-- Issue moves on before the next bundle (R106). -/
  yielded : Bool
  /-- The compute-clock cycle of its cluster in which the core acts next (R17). -/
  cycle : Nat
  tiles : Vector Tile 96
  scratch : Mem
  /-- Writes that have not reached every context, in the order in which they were made (R201). -/
  unseen : List Unseen
  banks : Bank64
  tags : Vector AccFmt 16
  /-- Bank read bits: bit c of entry b is local context c's (R154). -/
  bankRead : Vector (BitVec 4) 16
  /-- Row written bits: entry 16 c + b is local context c's rows of bank b (R154). -/
  rowWritten : Vector (BitVec 64) 64
  active : Plane
  shadowPlane : Plane
  fresh : Bool
  planeRead : BitVec 4
  preSwap : BitVec 4
  /-- The shadow plane was written in the current region of the context: bit c (R158). -/
  shadowRegion : BitVec 4
  streams : List Stream
  load : Option Load
  /-- The translation micro-cache of its engine port (R373), oldest first. -/
  micro : List Xlat
  deriving DecidableEq, Repr

/-- The frame of a bundle that issues: the core before the bundle (R23), the bundle's index, whether it is a checkpoint
bundle (R98), the tiles that its slots read (slot, tile), and whether its SEQ slot has set the program counter. -/
structure Issue where
  pre : CoreRec
  index : BitVec 32
  ckpt : Bool
  reads : List (Nat × Nat)
  pcSet : Bool
  deriving DecidableEq, Repr

/-! ## Engine commands -/

/-- The operands of a command, as captured at issue (R195, R206). -/
structure Capture where
  handle : BitVec 64
  source : BitVec 64
  shape : BitVec 65
  tuple : Vector (BitVec 32) 6
  mask : BitVec 64
  args : List (BitVec 64)
  tile : Mem
  next : Mem
  rows : Nat
  rowbytes : Nat
  fmt : BitVec 4
  scaled : Bool
  trace : Trace
  seed : BitVec 64
  ckcount : BitVec 64
  dests : List Nat
  deriving DecidableEq, Repr

/-- What a performed command writes at completion (R191, R207): the completion word's parts, the follower registers,
a mask, a path trace, and the flags of the work. -/
structure Result where
  status : Nat
  detail : Nat
  count : Nat
  follow : List (BitVec 64)
  mask : Option (BitVec 64)
  trace : Option Trace
  flags : BitVec 7
  deriving DecidableEq, Repr

/-- The kinds of R194, and the cluster transfer of R181. -/
inductive CmdKind where
  | free
  | withheld
  | checkpoint
  | transfer
  deriving DecidableEq, Repr

/-- A command in flight (R206). -/
structure Cmd where
  id : Nat
  core : Nat
  ctx : Nat
  op : Instr
  kind : CmdKind
  index : BitVec 32
  token : Nat
  /-- The registers pending from issue to completion, the token first (R190, R207). -/
  writes : List RegName
  cap : Capture
  resolved : Bool
  released : Bool
  /-- Its place in the order of release, a number later than that of every command released before (R241). -/
  order : Nat
  /-- It reserved its destination tile (R213). -/
  reserved : Bool
  result : Option Result
  /-- Issued in the current region of its context (a rollback makes it an orphan or discards it). -/
  inRegion : Bool
  orphan : Bool
  adopted : Bool
  /-- Its completion word has been written; kept until the next checkpoint for adoption (R198). -/
  done : Bool
  /-- Its context has exited: its completion is discarded (R107). -/
  discarded : Bool
  deriving DecidableEq, Repr

/-! ## Objects (R295 to R307) -/

/-- The kinds of R297. -/
inductive Kind where
  | dense | tree | byte | host | queue | expert | stage | forecast
  deriving DecidableEq, Repr

/-- A version's or a draft's storage (R301): its bytes, or, for a compressed object, its coded blocks (R275). -/
structure Store where
  bytes : Mem
  blocks : List (List Byte)
  deriving DecidableEq, Repr

/-- A published version: number, storage, the expert-buffer pages beyond the reserved one that it holds (R229), and, for each
chunk of 8 KiB that a draft has written since version 1, the version whose draft wrote it: versions of one origin share the chunk
(R307). -/
structure Version where
  num : Nat
  store : Store
  pages : Nat
  origin : List (Nat × Nat)
  deriving DecidableEq, Repr

/-- An open draft (R299, R307): its base, its storage as its readers see it, the context that may add gradients
(R243), whether the stage router holds it (R402), the launches that opened or joined it (R367), and the chunks of 8 KiB that it
has copied and written, the others being its base's (R307). -/
structure Draft where
  base : Nat
  store : Store
  written : List Nat
  gradWriter : Option (Nat × Nat)
  routed : Bool
  joined : List Nat
  deriving DecidableEq, Repr

/-- A hint record (R304). -/
structure Hint where
  package : Nat
  die : Nat
  unwritten : Bool
  far : Bool
  mapped : List Nat
  deriving DecidableEq, Repr

/-- Where an object's storage is (R306), as its descriptor's placement word tells it (R300), and where a migration takes
it. `spilled` lists the shards that lie in a spill image (R396). -/
structure Where where
  die : Nat
  materialised : Bool
  far : Bool
  spilled : List Nat
  lent : Bool
  moving : Bool
  package : Nat
  toPackage : Nat
  toDie : Nat
  deriving DecidableEq, Repr

/-- A pending subscription in the order of registration (R224, R310). -/
structure Sub where
  cmd : Nat
  core : Nat
  ctx : Nat
  v : Bool
  deriving DecidableEq, Repr

/-- An object of the object tables: its descriptor (R296 to R300) and what the home keeps for it. -/
structure Obj where
  key : ObjKey
  /-- Present in its home's table slice; a destroyed object keeps its number's generation. -/
  present : Bool
  generation : Nat
  partition : Nat
  dims : Nat
  kind : Kind
  fmt : BitVec 4
  scaled : Bool
  compressed : Bool
  point : Nat
  epsZero : Bool
  epsExp : Int
  extent : List Nat
  geometry : BitVec 64
  storage : Nat
  scalePlane : Nat
  current : Nat
  /-- The current version and the older versions retained (R6), newest first. -/
  versions : List Version
  draft : Option Draft
  draftNo : Nat
  started : Bool
  marks : Nat
  shard : BitVec 64
  /-- The package and the die of each shard beyond shard 0 (R300). -/
  shardMap : List (Nat × Nat)
  loc : Where
  /-- Packages or cluster groups that hold replicas: version and target (R303, R378). -/
  replicas : List (Nat × Nat)
  hint : Option Hint
  counter : BitVec 32
  pendingBytes : Nat
  overrun : Bool
  endpoint : Bool
  rights : BitVec 128
  /-- Retains that hold a version for hours, one entry each (R378). -/
  retains : List Nat
  subs : List Sub
  /-- Rows admitted and pages held of an expert buffer's open draft (R229). -/
  bufRows : Nat
  bufPages : Nat
  /-- Pages of 2 MiB that lie in the far tier (R262). -/
  farPages : List Nat
  /-- Shards whose copy into a spill image has begun and whose switch has not come (R396), and the version of an export (R319). -/
  spilling : List Nat
  lentVersion : Nat
  /-- Versions whose storage was last written from a spill image (R371, R397). -/
  imaged : List Nat
  /-- Bad chunks with no good copy (R371): versions and chunks. -/
  lost : List (Nat × Nat)
  /-- Host memory window of a host buffer (R348), and the tags of the requests that ask to end it. -/
  iova : Nat
  ending : List (BitVec 32)
  deriving DecidableEq, Repr

/-! ## Stage sets (R244 to R253) -/

/-- A stage set's router state (R247). -/
structure StageSet where
  obj : ObjKey
  queue : ObjKey
  sink : ObjKey
  stages : Nat
  window : Nat
  producers : Nat
  fixed : Bool
  bytes : List (BitVec 8)
  queues : Vector (List Record) 8
  passCur : Vector Nat 8
  failCur : Vector Nat 8
  passWin : Vector Nat 8
  failWin : Vector Nat 8
  windows : Vector Nat 8
  generator : Option (BitVec 32)
  closes : Nat
  drained : Bool
  sunk : Nat
  failed : Nat
  /-- Waiting `rtake` commands in arrival order (R257). -/
  waiters : List Nat
  deriving DecidableEq, Repr

/-! ## Tiers and forecasts (R262 to R273) -/

/-- A forecast entry (R266). -/
structure ForecastEntry where
  handle : BitVec 64
  marker : Nat
  lead : Nat
  team : Nat
  action : Nat
  start : List Int
  extent : List Nat
  deriving DecidableEq, Repr

/-- The counters of words 4 to 15 of R273. -/
structure ForecastCounters where
  triggers : Nat
  completed : Nat
  redundant : Nat
  failedActions : Nat
  checks : Nat
  misses : Nat
  stallCycles : Nat
  missTraps : Nat
  toNear : Nat
  toFar : Nat
  lines : Nat
  lastMiss : Nat
  deriving DecidableEq, Repr

/-- A table bound to a launch (R267). -/
structure Binding where
  handle : BitVec 64
  entries : List ForecastEntry
  deriving DecidableEq, Repr

/-- A triggered forecast action that has not started (R269). -/
structure Action where
  id : Nat
  launch : Nat
  team : Nat
  entry : Nat
  op : ForecastEntry
  deriving DecidableEq, Repr

/-- A page in movement between the tiers (R264), with the launch, entry and action that it completes when it is the last
of it; action 0 is a movement of Rilsia's own. -/
structure Move where
  id : Nat
  obj : ObjKey
  page : Nat
  near : Bool
  launch : Nat
  action : Nat
  entry : Nat
  deriving DecidableEq, Repr

/-- A line that a cache holds by a prefetch (R219, R262). -/
structure CacheLine where
  die : Nat
  remote : Bool
  obj : ObjKey
  version : Nat
  line : Nat
  deriving DecidableEq, Repr

/-- A load block of a fetch engine (R263): the command that fetches it, its tag (object, version or draft, first line), its lines,
and its completion flag. -/
structure LoadBlock where
  cmd : Nat
  obj : ObjKey
  version : Nat
  first : Nat
  lines : Nat
  complete : Bool
  deriving DecidableEq, Repr

/-! ## Launches and teams (R320 to R340) -/

/-- What a team is doing. -/
inductive TeamStatus where
  | unstarted | placed | stopping | saving | out | restoring | exited
  deriving DecidableEq, Repr

/-- A saved team's image (R333): the die and the pages of the tier that it takes, and whether it lies in the far tier as a spill
image. -/
structure SavedImage where
  die : Nat
  pages : Nat
  far : Bool
  deriving DecidableEq, Repr

/-- The marks of a team in one cycle of its cluster (R102): the cycle, the marker before them, their values, the relative index of the
core whose estimate stands, and the entries that they triggered. -/
structure MarkCycle where
  cycle : Nat
  base : Nat
  values : List Nat
  rel : Nat
  fired : List Nat
  deriving DecidableEq, Repr

/-- A team of a launch. -/
structure Team where
  index : Nat
  status : TeamStatus
  place : Option Placement
  /-- The team's code as the loader rewrote it for its placement (R80). -/
  code : Mem
  marker : Nat
  eta : BitVec 32
  pass : Nat
  armed : List Bool
  /-- Routing counters (R230) by number, and the counters whose sticky bit is set. -/
  counters : List (Nat × BitVec 32)
  sticky : List Nat
  placedAt : Nat
  waitSince : Nat
  lastMark : Nat
  /-- A drain decision and the time at which it is made again (R337). -/
  drainUntil : Option Nat
  /-- Arrivals held during a save or a restore (R334, R335). -/
  arrivals : List Instr
  everPlaced : Bool
  /-- When the save or the restore in progress began, and the time of the last save plus restore (R336). -/
  swapStart : Nat
  swapTime : Nat
  image : Option SavedImage
  /-- The marks of the latest cycle in which the team has marked (R102). -/
  marks : Option MarkCycle
  deriving DecidableEq, Repr

/-- How a launch that has been stopped will complete once its released effects have (R337, R367): the fields of its completion record,
and the trap record of its event. -/
structure Ending where
  status : Nat
  detail : Nat
  count : Nat
  fault : Nat
  event : Option TrapRecord
  deriving DecidableEq, Repr

/-- An accepted launch (R323 to R325). -/
structure Launch where
  id : Nat
  stream : Nat
  tag : BitVec 32
  partition : Nat
  rows : Nat
  cols : Nat
  contexts : Nat
  code : Mem
  bundles : Nat
  relocs : List (Nat × Nat)
  grid : Nat
  math : Nat
  repro : Bool
  lchk : Bool
  policy : Nat
  killable : Bool
  cls : Nat
  tokens : Nat
  maxregion : Nat
  seed : BitVec 64
  slice : Nat
  drain : Nat
  watchdog : Nat
  handles : List (BitVec 64)
  scalars : List (BitVec 64)
  shapes : List (BitVec 65)
  buckets : List Bucket
  binding : Option Binding
  fc : ForecastCounters
  teams : List Team
  /-- Slice-floor raises, swaps, grace rollbacks, resolved traps (set 0 of R378). -/
  counters : List Nat
  firstTrap : Option TrapRecord
  laterTraps : Nat
  ending : Option Ending
  ended : Bool
  deriving DecidableEq, Repr

/-- A stream entry (R321): its bytes and, when it came from a submit queue, that queue; or a malformed request of that queue, which
keeps its place among the used entries (R343, R344). -/
structure Entry where
  bytes : List Byte
  queue : Option Nat
  /-- The entry has been accepted or performed and its completion is awaited. -/
  active : Bool
  /-- The version that a conditional node has selected (R328). -/
  selected : Nat
  /-- The request is malformed: it is returned unperformed (R344). -/
  unperformed : Bool
  deriving DecidableEq, Repr

/-- A command stream (R320). -/
structure CmdStream where
  number : Nat
  /-- The partition that it is assigned to; 64, which no partition bears, while it is assigned to none. -/
  partition : Nat
  entries : List Entry
  /-- Entries that a conditional node still skips (R328). -/
  skip : Nat
  deriving DecidableEq, Repr

/-- A completion record (R322, R344), where it goes, and the device-written bytes before it. -/
structure Completion where
  partition : Nat
  queue : Option Nat
  stream : Option Nat
  tag : BitVec 32
  status : Nat
  detail : Nat
  count : Nat
  fault : Nat
  data : List Byte
  /-- The chain is returned unperformed, with used length 0 and no record (R344). -/
  returned : Bool
  deriving DecidableEq, Repr

/-- Who called a service (R233, R329, R346). -/
inductive Caller where
  | command (id : Nat)
  | stream (n : Nat)
  | control (tag : BitVec 32)
  deriving DecidableEq, Repr

/-- A service call that waits for a Viol core or for its object (R381). -/
structure Call where
  id : Nat
  partition : Nat
  cls : Nat
  service : Nat
  args : List (BitVec 64)
  caller : Caller
  /-- The call id of R382: launch, team, context index, ckcount. -/
  callId : Option (Nat × Nat × Nat × Nat)
  deriving DecidableEq, Repr

/-- A journalled reply (R382). -/
structure Journal where
  callId : Nat × Nat × Nat × Nat
  result : Result
  deriving DecidableEq, Repr

/-! ## Host, network and package (R341 to R357, R373 to R400) -/

/-- An event of the event queue (R347). -/
structure HostEvent where
  type : Nat
  tag : BitVec 32
  payload : List Byte
  deriving DecidableEq, Repr

/-- Where an SPDM sequence stands (R388). -/
inductive SpdmState where
  | none | version | capabilities | algorithms
  deriving DecidableEq, Repr

/-- An SPDM response or a tenant report returned on an admin queue. -/
structure AdminReply where
  tag : BitVec 32
  code : BitVec 8
  error : Nat
  body : List Byte
  deriving DecidableEq, Repr

/-- A partition, with its virtio device, its queues and its trap queue (R330, R341 to R347, R364, R384). -/
structure Partition where
  number : Nat
  active : Bool
  reassigning : Bool
  clusters : List Nat
  cap : BitVec 16
  quotas : List Nat
  drain : Nat
  key : BitVec 512
  streams : List Nat
  featuresOk : Bool
  features : BitVec 64
  spdm : SpdmState
  admin : List AdminReply
  traps : List TrapRecord
  buffers : Nat
  pendingEvents : List HostEvent
  posted : List HostEvent
  lostEvents : Nat
  journal : List Journal
  hostMem : Mem
  /-- Address ranges that the host's IOMMU rejects (R348). -/
  rejected : List (Nat × Nat)
  /-- The read request at the head of the control queue that waits for its object (R343, R346). -/
  reading : Option Chain
  deriving DecidableEq, Repr

/-- A receiving object (R353). -/
structure Receiver where
  resource : Nat
  obj : ObjKey
  job : Nat
  deriving DecidableEq, Repr

/-- A connection of the network engine (R352 to R356). -/
structure Conn where
  id : Nat
  lastPort : Nat
  lastEntropy : Nat
  accepted : List Nat
  dropped : Nat
  acks : Nat
  deriving DecidableEq, Repr

/-- A packet of a send in progress (R355): its number, whether it is acknowledged, and its retransmissions. -/
structure SendPacket where
  num : Nat
  acked : Bool
  tries : Nat
  deriving DecidableEq, Repr

/-- A send in progress (R231, R355). -/
structure Send where
  cmd : Nat
  conn : Nat
  job : Nat
  resource : Nat
  offset : Nat
  retries : Nat
  payload : Mem
  length : Nat
  packets : List SendPacket
  deriving DecidableEq, Repr

/-- A packet put on a port: it goes to the peer address of its endpoint record (R353). -/
structure WirePacket where
  port : Nat
  entropy : Nat
  peer : Nat
  job : Nat
  resource : Nat
  offset : Nat
  payload : List Byte
  deriving DecidableEq, Repr

/-- Old storage that stands until the last acknowledgement of its shootdown (R373): the near and the far pages that it takes on a
die. -/
structure OldStorage where
  partition : Nat
  die : Nat
  near : Nat
  far : Nat
  deriving DecidableEq, Repr

/-- A shootdown in progress (R373): what it names (object, a version or a draft, shard, byte range), the old storage that stands until
its last acknowledgement, the clusters that have not acknowledged, and the commands that resolved before it and still read the old
storage. -/
structure Shoot where
  id : Nat
  obj : ObjKey
  /-- Whether it names a draft, and its number or the version's; none for every version and draft. -/
  tag : Option (Bool × Nat)
  shard : Option Nat
  base : Nat
  limit : Nat
  old : List OldStorage
  clusters : List Nat
  cmds : List Nat
  deriving DecidableEq, Repr

/-- A location with an uncorrectable error (R370, R371). -/
inductive BadLoc where
  | tier (obj : ObjKey) (version chunk : Nat)
  | draftChunk (obj : ObjKey) (chunk : Nat)
  | dirtyLine (obj : ObjKey) (line : Nat)
  | tile (core tile : Nat)
  | bank (core bank : Nat)
  | shadow (core ctx : Nat)
  deriving DecidableEq, Repr

/-- The power arbiter (R391): level, throttle step and last estimate of each cluster, the clusters in the order their
levels and throttle steps were raised (the last first), and the microseconds of calm, for the package and, by its number, for
each partition that has a cap; and for set 3 of R378 the microseconds at each level and the throttle steps taken. -/
structure Power where
  level : Vector Nat 48
  throttle : Vector Nat 48
  estimate : Vector Nat 48
  residency : Vector (List Nat) 48
  taken : Vector Nat 48
  raised : List Nat
  stepped : List (List Nat)
  calm : Nat
  capCalm : List (Nat × Nat)
  deriving DecidableEq, Repr

/-- Which agent moves next. The schedule is the environment's: the manual bounds no latency (R3), so any order of turns
that the rules allow is a run. `run` lets a core issue or pass a cycle, `idle` passes n cycles of a core, `event` is one
step of an engine, of Rilsia, of the host or of the network, `hostWrite` is the host changing its own memory and `iommu`
the host setting the address ranges that its IOMMU rejects (R348), `parity` is a register parity error (R33), `spoil` an
uncorrectable error (R371) and `correct` one that is corrected (R370). The last four are the scratchpad's own order (R201):
`lag` makes the writes of other contexts reach a context late, or ends that, when those that have not reached it do; `reach`
lets the oldest write to 8 bytes reach it; `defer` makes its loads late, or ends that; and `load` performs its oldest late
load. -/
inductive Turn where
  | run (core : Nat)
  | idle (core : Nat) (cycles : Nat)
  | event (i : Instr)
  | hostWrite (part : Nat) (addr : Nat) (bytes : List Byte)
  | iommu (part : Nat) (ranges : List (Nat × Nat))
  | parity (core ctx : Nat)
  | spoil (loc : BadLoc)
  | correct (kind : Nat)
  | lag (core ctx : Nat) (on : Bool)
  | reach (core ctx word : Nat)
  | defer (core ctx : Nat) (on : Bool)
  | load (core ctx : Nat)
  deriving DecidableEq, Repr

/-- The state of the package. -/
structure State where
  /-- The core whose turn it is, and the other cores that hold a team. -/
  core : CoreRec
  parked : List CoreRec
  /-- The bundle that issues; `none` between bundles. -/
  issue : Option Issue
  cmds : List Cmd
  nextId : Nat
  objects : List Obj
  sets : List StageSet
  actions : List Action
  moves : List Move
  lines : List CacheLine
  blocks : List LoadBlock
  /-- Pages of the tiers in the order of their last use, the least recent first (R265). -/
  pageUse : List (ObjKey × Nat)
  launches : List Launch
  streams : List CmdStream
  completions : List Completion
  partitions : List Partition
  calls : List Call
  /-- Free pages of each die's expert-buffer pool (R229). -/
  pools : List Nat
  xlats : List Xlat
  shoots : List Shoot
  bad : List BadLoc
  /-- Packages to which the link is lost, and packages declared failed (R351). -/
  lostLinks : List Nat
  failedPackages : List Nat
  flitErrors : Nat
  ports : List PortRecord
  /-- Packets that each port has sent and received (R357). -/
  portCounts : List (Nat × Nat)
  macBase : BitVec 48
  receivers : List Receiver
  conns : List Conn
  sends : List Send
  wire : List WirePacket
  power : Power
  /-- Measurement registers (R386). -/
  measure : Vector (BitVec 256) 8
  /-- Compute-clock cycles of each cluster since package reset: the latest in which a core of it has acted (R17). -/
  clocks : Vector Nat 48
  fuses : BitVec 64
  defects : Vector (BitVec 32) 48
  /-- Defects found in service, which the root of trust keeps over resets (R374). -/
  recorded : Vector (BitVec 32) 48
  /-- The stored configuration that the root of trust keeps over resets, once the package is provisioned (R400). -/
  stored : Option StoredConfig
  /-- The state field of R342 for the package: 0 bring-up, 1 ready, 3 failed. -/
  device : Nat
  package : Nat
  owner : Nat
  /-- Whole microseconds since reset. -/
  micros : Nat
  /-- Register-parity rollbacks of each physical core within the second (R375). -/
  parity : List (Nat × Nat)
  /-- Physical cores in whose tiles or banks an uncorrectable error has occurred (R375). -/
  spoiled : List Nat
  /-- Corrected errors, which only Rilsia counts (R370): of the tiers, of the L2s and remote-data caches, of tiles and of banks. -/
  corrected : List Nat
  /-- The model's own: how many free values have been drawn. -/
  drawn : Nat
  /-- The model's own: the turns to come. -/
  schedule : List Turn
  deriving DecidableEq, Repr

/-! ## Outcomes -/

/-- Why the machine stops with a fault. It has no constructor: every trap that the manual describes is taken as a next state
(Machine/Ops.lean, `takeTrap`), and the manual describes no other stop. Nothing raises a fault. -/
inductive Fault where
  deriving DecidableEq, Repr

/-- Why an operation has no meaning. -/
inductive Refusal where
  /-- Raised by `exec` for an operation whose meaning is not written. Safe: nothing is claimed of it. -/
  | notModelled (mnemonic : String)
  deriving DecidableEq, Repr

/-! ## Reset -/

namespace Reset

/-- A context's registers before a loader sets them: the values of R13, R17 and R88 that do not depend on the launch. -/
def regs : Regs where
  s := Vector.replicate 64 0
  p := (Vector.replicate 16 false).set 0 true
  v := Vector.replicate 64 0
  m := Vector.replicate 8 (BitVec.allOnes 64)
  q := Vector.replicate 16 (Vector.replicate 6 0)
  h := Vector.replicate 32 0xFFF
  g := Vector.replicate 8 0
  n := Vector.replicate 6 0
  b := Vector.replicate 8 ⟨0, none⟩
  y := Vector.replicate 4 ⟨Vector.replicate 64 0, 0, 0⟩
  fflags := 0
  rmode := 0
  srseed := 0
  vrot := 0
  prot := 0
  ckcount := 0
  pc := 0
  returns := []
  loops := Vector.replicate 6 ⟨false, 0, 0⟩
  pendingWait := none
  waitNext := 0
  barCount := 0
  stepCount := 0
  pending := []

/-- An idle context. -/
def ctx : Ctx where
  status := .idle
  index := 0
  live := regs
  shadow := regs
  region := 0
  waiting := []
  closing := none
  withheld := []
  drafts := []
  pins := []
  refusals := []
  overflow := false
  overflowMarked := false
  binding := none
  held := none
  silence := 0
  trap := none
  grace := 0
  atCheckpoint := true
  draining := false
  lags := false
  defers := false
  loads := []
  holds := []

/-- An empty tile (R185). -/
def tile : Tile := ⟨0, 0, 0, false, false, 0, false, 0, 0⟩

/-- A plane of +0, FP32, dense, unscaled (R154). -/
def plane : Plane := ⟨[], 1, 0, false⟩

/-- A core that holds no team. -/
def core : CoreRec where
  id := 0
  launch := 0
  team := 0
  rel := 0
  place := none
  ctxs := Vector.replicate 4 ctx
  cur := 0
  yielded := false
  cycle := 0
  tiles := Vector.replicate 96 tile
  scratch := []
  unseen := []
  banks := []
  tags := Vector.replicate 16 .f32
  bankRead := Vector.replicate 16 0
  rowWritten := Vector.replicate 64 0
  active := plane
  shadowPlane := plane
  fresh := false
  planeRead := 0
  preSwap := 0
  shadowRegion := 0
  streams := []
  load := none
  micro := []

/-- The arbiter at reset (R391). -/
def power : Power :=
  ⟨Vector.replicate 48 0, Vector.replicate 48 0, Vector.replicate 48 0, Vector.replicate 48 (List.replicate 9 0),
    Vector.replicate 48 0, [], [], 0, []⟩

end Reset

/-- The package right after reset: bring-up has not begun (R393, state 0), no partition, no object, no launch. -/
def State.reset : State where
  core := Reset.core
  parked := []
  issue := none
  cmds := []
  nextId := 1
  objects := []
  sets := []
  actions := []
  moves := []
  lines := []
  blocks := []
  pageUse := []
  launches := []
  streams := (List.range 256).map fun n => ⟨n, 64, [], 0⟩
  completions := []
  partitions := []
  calls := []
  pools := []
  xlats := []
  shoots := []
  bad := []
  lostLinks := []
  failedPackages := []
  flitErrors := 0
  ports := []
  portCounts := [(0, 0), (0, 0), (0, 0), (0, 0)]
  macBase := 0
  receivers := []
  conns := []
  sends := []
  wire := []
  power := Reset.power
  measure := Vector.replicate 8 0
  clocks := Vector.replicate 48 0
  fuses := 0
  defects := Vector.replicate 48 0
  recorded := Vector.replicate 48 0
  stored := none
  device := 0
  package := 0
  owner := 0
  micros := 0
  parity := []
  spoiled := []
  corrected := [0, 0, 0, 0]
  drawn := 0
  schedule := []

end Sys2Proof.Machine
end

