-- ==== Sys2Proof/Machine/Flags.lean ====
section
/-!
DEFINITION. The sticky flags of `fflags` (R19, R51) and the overflow and saturation helpers of integer results.
-/

namespace Sys2Proof.Machine

/-- A set of raised flags, in the places of R19. -/
abbrev Flags := BitVec 7

/-- R19, bit 0. -/
def flInvalid : Flags := 1
/-- R19, bit 1. -/
def flDivzero : Flags := 2
/-- R19, bit 2. -/
def flOverflow : Flags := 4
/-- R19, bit 3. -/
def flUnderflow : Flags := 8
/-- R19, bit 4. -/
def flInexact : Flags := 16
/-- R19, bit 5. -/
def flSaturation : Flags := 32
/-- R19, bit 6. -/
def flFormat : Flags := 64

/-- A flag when a condition holds. -/
def flIf (c : Bool) (f : Flags) : Flags := if c then f else 0

/-- An integer clamped to [lo, hi], with saturation when it is clamped (R40, R50). -/
def clampInt (lo hi x : Int) : Int × Flags :=
  if x < lo then (lo, flSaturation) else if hi < x then (hi, flSaturation) else (x, 0)

/-- The range of an integer format of w bits, signed or not (R40). -/
def intMin (signed : Bool) (w : Nat) : Int := if signed then -(2 ^ (w - 1) : Nat) else 0
/-- The greatest value of an integer format. -/
def intMax (signed : Bool) (w : Nat) : Int := if signed then (2 ^ (w - 1) : Nat) - 1 else (2 ^ w : Nat) - 1

/-- R119, R53: the clamp to 32 signed bits. -/
def sat32 (x : Int) : BitVec 32 × Flags :=
  let r := clampInt (intMin true 32) (intMax true 32) x
  (wrap32 r.1, r.2)

/-- An unsigned 64-bit value clamped to 32 bits, with saturation (R92, R109). -/
def satU32 (x : Nat) : BitVec 32 × Flags :=
  if x ≤ 0xFFFFFFFF then (BitVec.ofNat 32 x, 0) else (0xFFFFFFFF, flSaturation)

end Sys2Proof.Machine
end

