-- ==== Sys2Proof/Machine/Memory.lean ====
section
/-!
DEFINITION. The operations over the memories of the machine (tiles, objects, code, host memory): lists of cells in one
canonical form, and the sparse accumulator elements. Multi-byte values are little-endian (R8, R35).
-/

namespace Sys2Proof.Machine

/-- The canonical form above `lo`: addresses strictly rising from `lo`, no listed byte zero. -/
def Memory.wfFrom (lo : Nat) : Mem → Bool
  | [] => true
  | (a, b) :: r => lo ≤ a && b != 0 && Memory.wfFrom (a + 1) r

/-- The canonical form of a memory. -/
def Memory.wf (m : Mem) : Bool := Memory.wfFrom 0 m

/-- The byte at an address; an unlisted address reads as zero. -/
def readByte : Mem → Nat → Byte
  | [], _ => 0
  | (k, b) :: r, a => if k = a then b else readByte r a

/-- The cells at or above an address. -/
def cellsFrom (a : Nat) : Mem → Mem
  | [] => []
  | (k, b) :: r => if k < a then cellsFrom a r else (k, b) :: r

/-- The cells below an address. -/
def cellsBelow (a : Nat) : Mem → Mem
  | [] => []
  | (k, b) :: r => if k < a then (k, b) :: cellsBelow a r else []

/-- The n bytes from an address upward. -/
def readBytes (m : Mem) (a : Nat) : Nat → List Byte
  | 0 => []
  | n + 1 =>
    match cellsFrom a m with
    | [] => List.replicate (n + 1) 0
    | (k, b) :: r => if k = a then b :: readBytes r (a + 1) n else 0 :: readBytes ((k, b) :: r) (a + 1) n

/-- The listed cells of a run of bytes: the non-zero ones. -/
def cellsOf (a : Nat) : List Byte → Mem
  | [] => []
  | b :: r => if b = 0 then cellsOf (a + 1) r else (a, b) :: cellsOf (a + 1) r

/-- The memory with a run of bytes written from an address upward, in canonical form. -/
def writeBytes (m : Mem) (a : Nat) (bs : List Byte) : Mem :=
  cellsBelow a m ++ cellsOf a bs ++ cellsFrom (a + bs.length) m

/-- The memory with one byte written. -/
def writeByte (m : Mem) (a : Nat) (b : Byte) : Mem := writeBytes m a [b]

/-- The memory with n bytes from an address upward cleared. -/
def clearBytes (m : Mem) (a n : Nat) : Mem := cellsBelow a m ++ cellsFrom (a + n) m

/-- The n bytes from `a` upward as a memory of their own, from address zero. -/
def sliceMem (m : Mem) (a n : Nat) : Mem := (cellsBelow (a + n) (cellsFrom a m)).map fun c => (c.1 - a, c.2)

/-- The memory with the n bytes from `a` upward replaced by those of another memory from its address zero. -/
def spliceMem (m : Mem) (a n : Nat) (x : Mem) : Mem :=
  cellsBelow a m ++ (cellsBelow n x).map (fun c => (c.1 + a, c.2)) ++ cellsFrom (a + n) m

/-- Little-endian value of bytes. -/
def natOfBytes : List Byte → Nat
  | [] => 0
  | b :: r => b.toNat + 256 * natOfBytes r

/-- The n little-endian bytes of a value. -/
def bytesOfNat : Nat → Nat → List Byte
  | 0, _ => []
  | n + 1, x => BitVec.ofNat 8 x :: bytesOfNat n (x / 256)

/-- The n-byte little-endian value at an address. -/
def readNat (m : Mem) (a n : Nat) : Nat := natOfBytes (readBytes m a n)
/-- The memory with an n-byte little-endian value written. -/
def writeNat (m : Mem) (a n x : Nat) : Mem := writeBytes m a (bytesOfNat n x)

/-- The bits of a run of bytes from bit `lo` upward, `len` of them, as a value. -/
def bitsAt (bs : List Byte) (lo len : Nat) : Nat := natOfBytes ((bs.drop (lo / 8)).take (len / 8 + 2)) / 2 ^ (lo % 8) % 2 ^ len

/-- Accumulator element by index; unlisted elements are all zero bits. -/
def bankGet : Bank64 → Nat → BitVec 64
  | [], _ => 0
  | (k, b) :: r, a => if k = a then b else bankGet r a

/-- Accumulator elements with one written, in canonical form. -/
def bankSet : Bank64 → Nat → BitVec 64 → Bank64
  | [], a, x => if x = 0 then [] else [(a, x)]
  | (k, b) :: r, a, x =>
    if k < a then (k, b) :: bankSet r a x
    else if x = 0 then (if k = a then r else (k, b) :: r)
    else if k = a then (a, x) :: r else (a, x) :: (k, b) :: r

/-- Accumulator elements with a run written from an index upward. -/
def bankWrite (m : Bank64) (a : Nat) : List (BitVec 64) → Bank64
  | [] => m
  | x :: r => bankWrite (bankSet m a x) (a + 1) r

/-- The canonical form of the accumulator elements above `lo`. -/
def bankWfFrom (lo : Nat) : Bank64 → Bool
  | [] => true
  | (a, b) :: r => lo ≤ a && b != 0 && bankWfFrom (a + 1) r

end Sys2Proof.Machine
end

