-- ==== Sys2Proof/Machine/Formats.lean ====
section
/-!
DEFINITION. The sixteen element formats (R34 to R43), rounding (R45 to R47), conversions (R48 to R50) and the
floating-point operations (R51, R52, R57). A floating-point value is held exactly, as a sign, a whole number and a power
of two, and every operation computes exactly and rounds once.
-/

namespace Sys2Proof.Machine

/-- The layout of a floating-point format (R36): widths, bias, whether it has infinities, and its NaNs
(0 none, 1 an all-ones exponent with a fraction, 2 the E4M3 code). -/
structure FloatFmt where
  width : Nat
  ebits : Nat
  fbits : Nat
  bias : Nat
  infs : Bool
  nans : Nat
  deriving DecidableEq, Repr

/-- A value of a floating-point format: a NaN (signalling or not), an infinity, or (-1)^neg * m * 2^e. -/
inductive FVal where
  | nan (sig : Bool)
  | inf (neg : Bool)
  | fin (neg : Bool) (m : Nat) (e : Int)
  deriving DecidableEq, Repr

/-- A rounding mode of R45 with the seed of the stochastic hash (R46). -/
structure Rounding where
  mode : Nat
  seed : Nat
  deriving DecidableEq, Repr

/-- Round to nearest even (R45). -/
def nearestEven : Rounding := ⟨0, 0⟩

/-- R36. -/
def f64 : FloatFmt := ⟨64, 11, 52, 1023, true, 1⟩
/-- R36. -/
def f32 : FloatFmt := ⟨32, 8, 23, 127, true, 1⟩

/-- R36: the floating-point formats by code (R34). -/
def floatFmt (code : Nat) : Option FloatFmt :=
  [f64, f32, ⟨16, 5, 10, 15, true, 1⟩, ⟨16, 8, 7, 127, true, 1⟩, ⟨8, 5, 2, 15, true, 1⟩,
    ⟨8, 4, 3, 7, false, 2⟩, ⟨6, 3, 2, 3, false, 0⟩, ⟨6, 2, 3, 1, false, 0⟩, ⟨4, 2, 1, 1, false, 0⟩][code]?

/-- The integer formats (R34, R40): signedness and width; the last is for OX4 codes, which are no format of their own. -/
def intFmt (code : Nat) : Bool × Nat :=
  match code with
  | 0x9 => (true, 8)
  | 0xA => (true, 4)
  | 0xC => (true, 32)
  | 0xD => (true, 64)
  | 0xE => (false, 32)
  | 0xF => (false, 64)
  | _ => (true, 4)

/-- R35: bits that one stored element takes. -/
def elemBits (code : Nat) : Nat :=
  [64, 32, 16, 16, 8, 8, 8, 8, 4, 8, 4, 4, 32, 64, 32, 64].getD code 8

/-- R38: the code of +infinity. -/
def infCode (f : FloatFmt) : Nat := (2 ^ f.ebits - 1) * 2 ^ f.fbits

/-- R38: the code of the largest finite value. -/
def maxCode (f : FloatFmt) : Nat :=
  if f.infs then infCode f - 1 else if f.nans = 2 then 2 ^ (f.ebits + f.fbits) - 2 else 2 ^ (f.ebits + f.fbits) - 1

/-- R38: the canonical NaN; +0 in a format without NaNs (R49). -/
def nanCode (f : FloatFmt) : Nat :=
  if f.nans = 1 then infCode f + 2 ^ (f.fbits - 1) else if f.nans = 2 then 2 ^ (f.ebits + f.fbits) - 1 else 0

/-- The sign bit's weight, when set. -/
def signCode (f : FloatFmt) (neg : Bool) : Nat := if neg then 2 ^ (f.width - 1) else 0

/-- R37, R39: the value of a code. -/
def decodeFloat (f : FloatFmt) (x : Nat) : FVal :=
  let neg := bitOf x (f.width - 1)
  let e := fieldOf x f.fbits f.ebits
  let m := x % 2 ^ f.fbits
  if e = 0 then .fin neg m (1 - (f.bias : Int) - f.fbits)
  else if f.nans = 1 && e == 2 ^ f.ebits - 1 then (if m = 0 then .inf neg else .nan (m < 2 ^ (f.fbits - 1)))
  else if f.nans = 2 && e == 2 ^ f.ebits - 1 && m == 2 ^ f.fbits - 1 then .nan false
  else .fin neg (2 ^ f.fbits + m) ((e : Int) - f.bias - f.fbits)

/-- R46: hash32 of a seed and an element index, which R218 can take past 32 bits: it is hashed as it is (log entry 127). -/
def srHash (seed index : Nat) : Nat :=
  let z := (seed + (index + 1) * 0x9E3779B97F4A7C15) % 2 ^ 64
  let z := ((z ^^^ (z / 2 ^ 30)) * 0xBF58476D1CE4E5B9) % 2 ^ 64
  let z := ((z ^^^ (z / 2 ^ 27)) * 0x94D049BB133111EB) % 2 ^ 64
  (z ^^^ (z / 2 ^ 31)) / 2 ^ 32

/-- R45, R46: whether a magnitude n + rem/2^d (and a little more when `sticky`), with n whole, is rounded away from
zero to n + 1. -/
def roundsUp (r : Rounding) (ix : Nat) (neg : Bool) (n rem d : Nat) (sticky : Bool) : Bool :=
  let inexact := rem != 0 || sticky
  match r.mode with
  | 0 => decide (2 ^ d < 2 * rem) || (2 * rem == 2 ^ d && (sticky || n % 2 == 1))
  | 1 => false
  | 2 => !neg && inexact
  | 3 => neg && inexact
  | 4 => decide (2 ^ d ≤ 2 * rem)
  | _ => inexact && decide (srHash r.seed ix < rem * 2 ^ 32 / 2 ^ d)

/-- A non-negative magnitude m * 2^e split at the place q: the whole number of units 2^q, the remainder and its width. -/
def splitAt (m : Nat) (e q : Int) : Nat × Nat × Nat :=
  if q ≤ e then (m * 2 ^ (e - q).toNat, 0, 0)
  else
    let d := (q - e).toNat
    (m / 2 ^ d, m % 2 ^ d, d)

/-- R47: the code of an overflowing result, without its sign. -/
def overflowCode (f : FloatFmt) (mode : Nat) (neg : Bool) : Nat :=
  if !f.infs then maxCode f
  else
    match mode with
    | 1 => maxCode f
    | 2 => if neg then maxCode f else infCode f
    | 3 => if neg then infCode f else maxCode f
    | _ => infCode f

/-- R45 to R47: `round_to` of the exact value (-1)^neg * m * 2^e, or, when `sticky`, of a value strictly between it and
the next whole number of its last place; a sticky value must come with more bits than the format keeps. -/
def roundFloat (f : FloatFmt) (r : Rounding) (ix : Nat) (neg : Bool) (m : Nat) (e : Int) (sticky : Bool) :
    Nat × Flags :=
  if m = 0 then (signCode f neg, 0)
  else
    let emin : Int := 1 - (f.bias : Int)
    let top : Int := e + (Nat.log2 m : Int)
    let q : Int := (if top < emin then emin else top) - f.fbits
    let sp := splitAt m e q
    let inexact := sp.2.1 != 0 || sticky
    let n := if roundsUp r ix neg sp.1 sp.2.1 sp.2.2 sticky then sp.1 + 1 else sp.1
    let code := (q + f.fbits - emin).toNat * 2 ^ f.fbits + n
    if maxCode f < code then (signCode f neg + overflowCode f r.mode neg, flOverflow ||| flInexact)
    else (signCode f neg + code, flIf inexact flInexact ||| flIf (inexact && decide (top < emin)) flUnderflow)

/-- The canonical NaN, with invalid when asked for (R39). -/
def nanResult (f : FloatFmt) (invalid : Bool) : Nat × Flags := (nanCode f, flIf invalid flInvalid)

/-- A signalling NaN. -/
def FVal.isSig : FVal → Bool
  | .nan s => s
  | _ => false

/-- A NaN. -/
def FVal.isNan : FVal → Bool
  | .nan _ => true
  | _ => false

/-- The value with its sign reversed; a NaN is unchanged. -/
def FVal.negate : FVal → FVal
  | .nan s => .nan s
  | .inf n => .inf (!n)
  | .fin n m e => .fin (!n) m e

/-- The signed whole number of units 2^q of a finite value whose exponent is at least q. -/
def signedUnits (neg : Bool) (m : Nat) (e q : Int) : Int :=
  let x : Int := (m * 2 ^ (e - q).toNat : Nat)
  if neg then -x else x

/-- An exact sum of two finite values, as a signed whole number and its exponent. -/
def addExact (na : Bool) (ma : Nat) (ea : Int) (nb : Bool) (mb : Nat) (eb : Int) : Int × Int :=
  let q := if ea ≤ eb then ea else eb
  (signedUnits na ma ea q + signedUnits nb mb eb q, q)

/-- `round_to` of an exact sum; a zero sum takes the sign `zneg`. -/
def roundInt (f : FloatFmt) (r : Rounding) (ix : Nat) (x q : Int) (zneg : Bool) : Nat × Flags :=
  if x = 0 then (signCode f zneg, 0) else roundFloat f r ix (x < 0) x.natAbs q false

/-- The sum of two values that are no NaN, rounded once (R45, R52); `bad` carries invalid of the product before it. -/
def addRound (f : FloatFmt) (r : Rounding) (ix : Nat) : FVal → FVal → Nat × Flags
  | .nan s, b => nanResult f (s || b.isSig)
  | a, .nan s => nanResult f (s || a.isSig)
  | .inf x, .inf y => if x = y then (signCode f x + infCode f, 0) else nanResult f true
  | .inf x, .fin _ _ _ => (signCode f x + infCode f, 0)
  | .fin _ _ _, .inf y => (signCode f y + infCode f, 0)
  | .fin na ma ea, .fin nb mb eb =>
    let s := addExact na ma ea nb mb eb
    roundInt f r ix s.1 s.2 (if ma = 0 ∧ mb = 0 ∧ na = nb then na else r.mode == 3)

/-- The exact product of two values, with invalid of 0 times infinity (R51). -/
def mulExact : FVal → FVal → FVal × Bool
  | .nan s, b => (.nan false, s || b.isSig)
  | a, .nan s => (.nan false, s || a.isSig)
  | .inf x, .inf y => (.inf (x != y), false)
  | .inf x, .fin n m _ => if m = 0 then (.nan false, true) else (.inf (x != n), false)
  | .fin n m _, .inf y => if m = 0 then (.nan false, true) else (.inf (n != y), false)
  | .fin na ma ea, .fin nb mb eb => (.fin (na != nb) (ma * mb) (ea + eb), false)

/-- R52: the product. -/
def mulRound (f : FloatFmt) (r : Rounding) (ix : Nat) (a b : FVal) : Nat × Flags :=
  match mulExact a b with
  | (.nan _, bad) => nanResult f bad
  | (.inf n, _) => (signCode f n + infCode f, 0)
  | (.fin n m e, _) => roundFloat f r ix n m e false

/-- R52: a * b + c with one rounding. -/
def fmaRound (f : FloatFmt) (r : Rounding) (ix : Nat) (a b c : FVal) : Nat × Flags :=
  let p := mulExact a b
  let x := addRound f r ix p.1 c
  (x.1, x.2 ||| flIf p.2 flInvalid)

/-- Extra bits that a quotient or a root is computed to before rounding. -/
def guardBits : Nat := 128

/-- R52, R51: the quotient. -/
def divRound (f : FloatFmt) (r : Rounding) (ix : Nat) : FVal → FVal → Nat × Flags
  | .nan s, b => nanResult f (s || b.isSig)
  | a, .nan s => nanResult f (s || a.isSig)
  | .inf _, .inf _ => nanResult f true
  | .inf x, .fin n _ _ => (signCode f (x != n) + infCode f, 0)
  | .fin n _ _, .inf y => (signCode f (n != y), 0)
  | .fin na ma ea, .fin nb mb eb =>
    if mb = 0 then (if ma = 0 then nanResult f true else (signCode f (na != nb) + infCode f, flDivzero))
    else if ma = 0 then (signCode f (na != nb), 0)
    else
      let k := guardBits + Nat.log2 mb
      roundFloat f r ix (na != nb) (ma * 2 ^ k / mb) (ea - eb - k) (ma * 2 ^ k % mb != 0)

/-- The greatest r below `acc + 2^i` with r^2 at most n, by the bits from i - 1 down. -/
def isqrtFrom (n : Nat) : Nat → Nat → Nat
  | 0, acc => acc
  | i + 1, acc => if (acc + 2 ^ i) * (acc + 2 ^ i) ≤ n then isqrtFrom n i (acc + 2 ^ i) else isqrtFrom n i acc

/-- The whole part of the square root. -/
def isqrt (n : Nat) : Nat := isqrtFrom n (Nat.log2 n / 2 + 1) 0

/-- The square root of a positive value m * 2^e to `guardBits` bits more than it has: whole number, exponent, sticky. -/
def sqrtExact (m : Nat) (e : Int) : Nat × Int × Bool :=
  let m' := if e % 2 = 0 then m else 2 * m
  let e' := if e % 2 = 0 then e else e - 1
  let x := m' * 2 ^ (2 * guardBits)
  let r := isqrt x
  (r, e' / 2 - guardBits, r * r != x)

/-- R52: the square root. -/
def sqrtRound (f : FloatFmt) (r : Rounding) (ix : Nat) : FVal → Nat × Flags
  | .nan s => nanResult f s
  | .inf true => nanResult f true
  | .inf false => (infCode f, 0)
  | .fin neg m e =>
    if m = 0 then (signCode f neg, 0)
    else if neg then nanResult f true
    else
      let x := sqrtExact m e
      roundFloat f r ix false x.1 x.2.1 x.2.2

/-- The order of two values that are no NaN, the two zeros being equal (R52): less. -/
def FVal.lt : FVal → FVal → Bool
  | .inf x, .inf y => x && !y
  | .inf x, .fin _ _ _ => x
  | .fin _ _ _, .inf y => !y
  | .fin na ma ea, .fin nb mb eb => (addExact na ma ea (!nb) mb eb).1 < 0
  | _, _ => false

/-- Equality of two values that are no NaN (R52). -/
def FVal.eqv (a b : FVal) : Bool := !a.isNan && !b.isNan && !a.lt b && !b.lt a

/-- Whether the sign of the value is minus. -/
def FVal.isNeg : FVal → Bool
  | .nan _ => false
  | .inf n => n
  | .fin n _ _ => n

/-- R52: whether a is the smaller operand of a minimum, with -0 below +0. -/
def FVal.below (a b : FVal) : Bool := a.lt b || (a.eqv b && a.isNeg && !b.isNeg)

/-- R52: minimum or maximum of two codes of a format. -/
def minMaxCode (f : FloatFmt) (max : Bool) (x y : Nat) : Nat × Flags :=
  let a := decodeFloat f x
  let b := decodeFloat f y
  let fl := flIf (a.isSig || b.isSig) flInvalid
  if a.isNan then (if b.isNan then (nanCode f, fl) else (y, fl))
  else if b.isNan then (x, fl)
  else ((if (if max then b.below a else a.below b) then x else y), fl)

/-- R69, R52: the comparisons of codes 0 to 6 on values: eq, ne, lt, le, gt, ge, unordered. -/
def cmpFloat (c : Nat) (a b : FVal) : Bool :=
  let un := a.isNan || b.isNan
  match c with
  | 0 => a.eqv b
  | 1 => !a.eqv b
  | 2 => a.lt b
  | 3 => !un && !b.lt a
  | 4 => b.lt a
  | 5 => !un && !a.lt b
  | _ => un

/-! ## Elements of any format -/

/-- The value of a code of an integer format. -/
def intVal (signed : Bool) (w x : Nat) : Int := if signed then signedOf w x else (x % 2 ^ w : Nat)

/-- The exact value of an integer. -/
def ofInt (x : Int) : FVal := .fin (x < 0) x.natAbs 0

/-- The value of a stored element (R34, R35, R37). -/
def elemVal (code x : Nat) : FVal :=
  match floatFmt code with
  | some f => decodeFloat f x
  | none => ofInt (intVal (intFmt code).1 (intFmt code).2 x)

/-- R45: a magnitude rounded to a whole number, and whether it had a fraction. -/
def roundWhole (r : Rounding) (ix : Nat) (neg : Bool) (m : Nat) (e : Int) : Nat × Bool :=
  let sp := splitAt m e 0
  (if roundsUp r ix neg sp.1 sp.2.1 sp.2.2 false then sp.1 + 1 else sp.1, sp.2.1 != 0)

/-- R50: conversion to an integer format. -/
def toIntCode (signed : Bool) (w : Nat) (r : Rounding) (ix : Nat) : FVal → Nat × Flags
  | .nan _ => (0, flInvalid)
  | .inf neg => (wrapN w (if neg then intMin signed w else intMax signed w), flInvalid)
  | .fin neg m e =>
    let n := roundWhole r ix neg m e
    let c := clampInt (intMin signed w) (intMax signed w) (if neg then -(n.1 : Int) else n.1)
    (wrapN w c.1, c.2 ||| flIf n.2 flInexact)

/-- R48, R49: conversion to a floating-point format, with the flags of the one rounding. An integer of more bits than the format holds
is rounded once, in the mode in force, whatever its width (log entry 130). -/
def toFloatCode (f : FloatFmt) (r : Rounding) (ix : Nat) : FVal → Nat × Flags
  | .nan s => (nanCode f, flIf (s || f.nans == 0) flInvalid)
  | .inf neg => if f.infs then (signCode f neg + infCode f, 0) else (signCode f neg + maxCode f, flInvalid)
  | .fin neg m e => roundFloat f r ix neg m e false

/-- R48 to R50: conversion of a value to the element format of a code. -/
def convCode (code : Nat) (r : Rounding) (ix : Nat) (v : FVal) : Nat × Flags :=
  match floatFmt code with
  | some f => toFloatCode f r ix v
  | none => toIntCode (intFmt code).1 (intFmt code).2 r ix v

/-- R41: an element under its E8M0 block scale: NaN with the format flag under a scale of 0xFF. -/
def scaleVal (v : FVal) (e : Nat) : FVal × Flags :=
  if e = 255 then (.nan false, flFormat)
  else
    match v with
    | .fin n m x => (.fin n m (x + (e : Int) - 127), 0)
    | v => (v, 0)

/-- R35: element i of packed bytes, as its code. -/
def elemAt (code : Nat) (bs : List Byte) (i : Nat) : Nat :=
  bitsAt bs (i * elemBits code) (if code = 6 ∨ code = 7 then 6 else elemBits code)

/-! ## OX4 blocks (R42, R43) -/

/-- An outlier: its E4M3 code from a header nibble and its neighbour's code. -/
def outlier (hi lo : Nat) : FVal := (elemVal 5 (hi * 16 + lo))

/-- One pair of a block's codes, with k outliers before it: the two values, the count after it, and whether a marker
beyond the second was met. -/
def oxPair (h0 h1 k a b : Nat) : FVal × FVal × Nat × Bool :=
  let hi := if k = 0 then h0 else h1
  let plain := fun c => ofInt (signedOf 4 c)
  let zero : FVal := .fin false 0 0
  if a = 8 then
    if k < 2 then (outlier hi b, zero, k + 1, false)
    else if b = 8 then (zero, zero, k + 2, true)
    else (zero, plain b, k + 1, true)
  else if b = 8 then
    if k < 2 then (zero, outlier hi a, k + 1, false) else (plain a, zero, k + 1, true)
  else (plain a, plain b, k, false)

/-- The values of the code bytes of a block, with k outliers before them, and whether a third marker was met. -/
def oxBytes (h0 h1 : Nat) : Nat → List Byte → List FVal × Bool
  | _, [] => ([], false)
  | k, b :: r =>
    let p := oxPair h0 h1 k (b.toNat % 16) (b.toNat / 16)
    let q := oxBytes h0 h1 p.2.2.1 r
    (p.1 :: p.2.1 :: q.1, p.2.2.2 || q.2)

/-- R43: the 32 values of an 18-byte block, with the flags of reading them. -/
def decodeOx4 (bs : List Byte) : List FVal × Flags :=
  let h := natOfBytes (bs.take 2)
  let v := oxBytes (fieldOf h 8 4) (fieldOf h 12 4) 0 ((bs.drop 2).take 16)
  (v.1.map fun x => (scaleVal x (h % 256)).1, flIf (v.2 || h % 256 == 255) flFormat)

/-! ## Integer division (R57) -/

/-- R57: quotient of two w-bit codes. -/
def divCode (signed : Bool) (w a b : Nat) : Nat × Flags :=
  let y := intVal signed w b
  if y = 0 then (2 ^ w - 1, flDivzero) else (wrapN w (Int.tdiv (intVal signed w a) y), 0)

/-- R57: remainder of two w-bit codes. -/
def remCode (signed : Bool) (w a b : Nat) : Nat × Flags :=
  let y := intVal signed w b
  if y = 0 then (a % 2 ^ w, flDivzero) else (wrapN w (Int.tmod (intVal signed w a) y), 0)

end Sys2Proof.Machine
end

