-- ==== Sys2Proof/Machine/Operands.lean ====
section
/-!
DEFINITION. Operands of the slot operations: the context that acts, its registers as they stood before the bundle (R23)
and as they are written, rotation (R14), guards (R22), special registers (R17, R18), vector lanes and masks.
-/

namespace Sys2Proof.Machine

/-- The outcome of a meaning. -/
abbrev Out := Host.Outcome State Fault Refusal

/-! ## The acting context -/

/-- The core as it stood before the bundle that issues, or as it is. -/
def frame (s : State) : CoreRec :=
  match s.issue with
  | some i => i.pre
  | none => s.core

/-- The context that acts. -/
def curCtx (s : State) : Ctx := s.core.ctxs.get s.core.cur

/-- The registers that a slot reads (R23). -/
def regs (s : State) : Regs := ((frame s).ctxs.get s.core.cur).live

/-- The index of the bundle that acts: the one that issues, or the context's next. -/
def ownIndex (s : State) : Nat :=
  match s.issue with
  | some i => i.index.toNat
  | none => (curCtx s).live.pc.toNat

/-- Whether the bundle that acts is a checkpoint bundle (R98). -/
def inCheckpoint (s : State) : Bool :=
  match s.issue with
  | some i => i.ckpt
  | none => false

/-- The acting core changed. -/
def modCore (s : State) (f : CoreRec → CoreRec) : State := { s with core := f s.core }

/-- The acting context changed. -/
def modCtx (s : State) (f : Ctx → Ctx) : State :=
  modCore s fun c => { c with ctxs := c.ctxs.set c.cur (f (c.ctxs.get c.cur)) }

/-- The acting context's live registers changed. -/
def modLive (s : State) (f : Regs → Regs) : State := modCtx s fun c => { c with live := f c.live }

/-- Its number in the core, as local context number. -/
def localNo (s : State) : Nat := s.core.cur.val

/-- Flags ORed into the acting context's `fflags` (R19). -/
def raise (s : State) (fl : Flags) : State := modLive s fun r => { r with fflags := r.fflags ||| fl }

/-! ## The launch and the team of the acting core -/

/-- The launch of the acting core. -/
def launchOf (s : State) : Option Launch := s.launches.find? fun l => l.id == s.core.launch

/-- The team of the acting core. -/
def teamOf (s : State) : Option Team :=
  (launchOf s).bind fun l => l.teams.find? fun t => t.index == s.core.team

/-- Bundles of the acting context's code section. -/
def codeBundles (s : State) : Nat := (launchOf s).elim 0 (·.bundles)
/-- The launch carries the reproducible flag (R11). -/
def isRepro (s : State) : Bool := (launchOf s).elim false (·.repro)
/-- The launch runs in latency-check mode (R28). -/
def isLchk (s : State) : Bool := (launchOf s).elim false (·.lchk)
/-- Contexts of each core of the team. -/
def contextsPer (s : State) : Nat := (launchOf s).elim 1 (·.contexts)
/-- Rows of the team. -/
def teamRows (s : State) : Nat := (launchOf s).elim 1 (·.rows)
/-- Columns of the team. -/
def teamCols (s : State) : Nat := (launchOf s).elim 1 (·.cols)

/-- The team of the acting core changed. -/
def modTeam (s : State) (f : Team → Team) : State :=
  { s with launches := s.launches.map fun l =>
      if l.id = s.core.launch then
        { l with teams := l.teams.map fun t => if t.index = s.core.team then f t else t }
      else l }

/-- R16: banks of each context by the contexts of its core. -/
def bankShare (contexts : Nat) : Nat := if contexts ≤ 1 then 16 else if contexts = 2 then 8 else 4

/-- R16: the physical bank of a bank name. -/
def bankOf (s : State) (b : BitVec 4) : Nat := (localNo s * bankShare (contextsPer s) + b.toNat) % 16

/-! ## Registers -/

/-- R14: the physical vector of a name. -/
def physV (r : Regs) (n : Nat) : Nat := if n < 32 then n else 32 + (n - 32 + r.vrot.toNat) % 32
/-- R14: the physical predicate of a name. -/
def physP (r : Regs) (n : Nat) : Nat := if n < 8 then n else 8 + (n - 8 + r.prot.toNat) % 8

/-- A scalar register as read. -/
def getS (s : State) (n : BitVec 6) : BitVec 64 := (regs s).s[n.toNat]
/-- A scalar register by number, as read; past s63 it is zero (no such name is well-formed). -/
def getSAt (s : State) (n : Nat) : BitVec 64 := (regs s).s.getD n 0
/-- A scalar register written. -/
def setS (s : State) (n : BitVec 6) (x : BitVec 64) : State := modLive s fun r => { r with s := r.s.set n.toNat x }

/-- A predicate as read, through rotation. -/
def readP (r : Regs) (n : Nat) : Bool := r.p.getD (physP r n) false
/-- A predicate of the acting context as read. -/
def getP (s : State) (n : Nat) : Bool := readP (regs s) n
/-- A predicate written, through the rotation before the bundle; `p0` ignores writes (R13). -/
def setP (s : State) (n : Nat) (x : Bool) : State :=
  if n = 0 then s else modLive s fun r => { r with p := r.p.setIfInBounds (physP (regs s) n) x }

/-- A vector as read, through rotation. -/
def getV (s : State) (n : BitVec 6) : V2048 := (regs s).v.getD (physV (regs s) n.toNat) 0
/-- A vector by number, as read. -/
def getVAt (s : State) (n : Nat) : V2048 := (regs s).v.getD (physV (regs s) n) 0
/-- A vector by number written, through the rotation before the bundle. -/
def setVAt (s : State) (n : Nat) (x : V2048) : State :=
  modLive s fun r => { r with v := r.v.setIfInBounds (physV (regs s) n) x }
/-- A vector written. -/
def setV (s : State) (n : BitVec 6) (x : V2048) : State := setVAt s n.toNat x

/-- A mask as read. -/
def getM (s : State) (n : BitVec 3) : BitVec 64 := (regs s).m[n.toNat]
/-- A mask written. -/
def setM (s : State) (n : BitVec 3) (x : BitVec 64) : State := modLive s fun r => { r with m := r.m.set n.toNat x }

/-- An index tuple as read. -/
def getQ (s : State) (n : BitVec 4) : Vector (BitVec 32) 6 := (regs s).q[n.toNat]
/-- An index tuple written. -/
def setQ (s : State) (n : BitVec 4) (x : Vector (BitVec 32) 6) : State :=
  modLive s fun r => { r with q := r.q.set n.toNat x }

/-- A handle as read. -/
def getH (s : State) (n : BitVec 5) : BitVec 64 := (regs s).h[n.toNat]
/-- A handle written. -/
def setH (s : State) (n : BitVec 5) (x : BitVec 64) : State := modLive s fun r => { r with h := r.h.set n.toNat x }

/-- A shape entry as read. -/
def getG (s : State) (n : BitVec 3) : BitVec 65 := (regs s).g[n.toNat]
/-- A shape entry written. -/
def setG (s : State) (n : BitVec 3) (x : BitVec 65) : State := modLive s fun r => { r with g := r.g.set n.toNat x }

/-- The rounding mode and the seed of the acting context. -/
def rounding (s : State) : Rounding := ⟨(regs s).rmode.toNat, (regs s).srseed.toNat⟩

/-! ## Guards (R22) and the predicates of the SEQ slot (R65) -/

/-- A polarity and a predicate. -/
def predOn (s : State) (pol : BitVec 1) (c : BitVec 4) : Bool := getP s c.toNat != (pol == 1)

/-- R22: the guard of slots 1 to 7, polarity in its highest bit. -/
def guardOn (s : State) (g : BitVec 5) : Bool := predOn s (g.extractLsb' 4 1) (g.extractLsb' 0 4)

/-- A slot whose guard fails has no effect. -/
def guarded (g : BitVec 5) (s : State) (k : Unit → Out) : Out := if guardOn s g then k () else .next s

/-! ## Special registers (R17, R18, R117) -/

/-- R18: the packed relative coordinate of a core. -/
def packCoord (cols rel : Nat) : Nat := rel / cols * 8 + rel % cols

/-- R17: the value of a special register as read. -/
def readSpecial (s : State) (r : BitVec 8) : BitVec 64 :=
  let x := regs s
  match r.toNat with
  | 0x00 => if isRepro s then 0 else BitVec.ofNat 64 (frame s).cycle
  | 0x01 => BitVec.ofNat 64 (s.core.team % 2 ^ 32)
  | 0x02 => BitVec.ofNat 64 ((curCtx s).index % 2 ^ 32)
  | 0x03 => BitVec.ofNat 64 (packCoord (teamCols s) s.core.rel)
  | 0x04 => BitVec.ofNat 64 (contextsPer s + 8 * teamCols s + 64 * teamRows s + 512 * localNo s)
  | 0x08 => x.fflags.zeroExtend 64
  | 0x09 => BitVec.ofNat 64 ((launchOf s).elim Config.mathVersion (·.math))
  | 0x0A => x.rmode.zeroExtend 64
  | 0x0B => x.srseed
  | 0x0C => BitVec.ofNat 64 ((teamOf s).elim 0 (·.marker))
  | 0x0D => ((teamOf s).elim (0xFFFFFFFF : BitVec 32) (·.eta)).zeroExtend 64
  | 0x10 => x.vrot.zeroExtend 64
  | 0x11 => x.prot.zeroExtend 64
  | 0x12 => if isLchk s then 1 else 0
  | 0x13 => x.ckcount
  | _ => 0

/-- R17, R20: a special register written with the low bits that fit it; the others are unchanged. -/
def writeSpecial (s : State) (r : BitVec 8) (x : BitVec 64) : State :=
  modLive s fun g =>
    match r.toNat with
    | 0x08 => { g with fflags := x.truncate 7 }
    | 0x0A => { g with rmode := x.truncate 3 }
    | 0x0B => { g with srseed := x }
    | 0x10 => { g with vrot := x.truncate 5 }
    | 0x11 => { g with prot := x.truncate 3 }
    | _ => g

/-! ## Shape entries (R121) -/

/-- R121: fields of a shape entry. -/
def shapeRows (g : BitVec 65) : Nat := g.toNat % 2 ^ 7
/-- R121. -/
def shapeRowbytes (g : BitVec 65) : Nat := fieldOf g.toNat 8 14
/-- R121. -/
def shapeFmt (g : BitVec 65) : Nat := fieldOf g.toNat 24 4
/-- R121. -/
def shapeRowCoord (g : BitVec 65) : Nat := fieldOf g.toNat 32 3
/-- R121. -/
def shapeElemCoord (g : BitVec 65) : Nat := fieldOf g.toNat 36 3
/-- R121. -/
def shapeConv (g : BitVec 65) : Bool := bitOf g.toNat 40
/-- R121. -/
def shapeConvMode (g : BitVec 65) : Nat := fieldOf g.toNat 41 3
/-- R121. -/
def shapeProbe (g : BitVec 65) : Bool := bitOf g.toNat 48
/-- R121. -/
def shapeMask (g : BitVec 65) : Nat := fieldOf g.toNat 49 3
/-- R121. -/
def shapeIndex (g : BitVec 65) : Nat := fieldOf g.toNat 56 4
/-- R121: the valid bit. -/
def shapeValid (g : BitVec 65) : Bool := bitOf g.toNat 64

/-! ## Lanes and masks (R125, R126) -/

/-- The n lanes of w bits of a value, lane 0 first. -/
def lanesOf (w : Nat) : Nat → Nat → List Nat
  | 0, _ => []
  | n + 1, x => x % 2 ^ w :: lanesOf w n (x / 2 ^ w)

/-- A value from its lanes of w bits. -/
def packLanes (w : Nat) : List Nat → Nat
  | [] => 0
  | x :: r => x % 2 ^ w + 2 ^ w * packLanes w r

/-- The lanes of a vector at a lane width. -/
def vLanes (w : Nat) (v : V2048) : List Nat := lanesOf w (2048 / w) v.toNat

/-- A vector from lanes. -/
def vPack (w : Nat) (l : List Nat) : V2048 := BitVec.ofNat 2048 (packLanes w l)

/-- The bits of a mask, lane 0 first; lanes past 63 repeat nothing and read as off. -/
def maskBits (m : BitVec 64) (n : Nat) : List Bool := (List.range n).map fun i => bitOf m.toNat i

end Sys2Proof.Machine
end

