-- ==== Sys2Proof/Machine/Reads.lean ====
section
/-!
DEFINITION. What the operations name: the kinds of commands (R194), their tokens and the registers that they leave pending
(R190, R207), and what the slots of a bundle read and write, for the conflicts of R24 and the holds of R25 and R190:
registers that may be pending, and registers, tiles and banks by class.
-/

namespace Sys2Proof.Machine

/-- R194: the kind of an operation that makes a command. -/
def kindOf : Instr → CmdKind
  | .hput .. | .hsca .. | .hcopy .. | .hopen .. | .hpub .. | .hdisc .. | .hunpin .. | .hunsub .. | .hatom .. => .withheld
  | .tgrad .. | .rbind .. | .rput .. | .rputLast .. | .rputUpd .. | .rdone .. | .rdoneFail .. => .withheld
  | .xsend .. | .xsendLast .. | .csnap .. | .fcbind .. | .fcbindUn .. | .nsend .. | .nexp .. => .withheld
  | .hpin .. | .hsub .. => .withheld
  | .hatomr .. | .hcas .. | .rtake .. | .svc .. | .hpinV .. | .hsubV .. => .checkpoint
  | .txfer .. | .txferRow .. | .txferAll .. => .transfer
  | _ => .free

/-- R99: the operations that must stand in a checkpoint bundle. -/
def needsCheckpoint (i : Instr) : Bool := kindOf i == .checkpoint

/-- R190, R207, R215, R219, R237: the registers that a command makes pending, the token first. -/
def writesOf (i : Instr) (token : Nat) (g : BitVec 65) : List RegName :=
  .s token ::
    match i with
    | .hatomr .. | .hcas .. => [.s (token + 1)]
    | .svc .. => [.s (token + 1), .s (token + 2)]
    | .hfet .. | .hgat .. => if shapeProbe g then [.m (shapeMask g)] else []
    | .hprobe .. => [.m (shapeMask g)]
    | .tdesc _ _ _ _ y => [.y y.toNat]
    | _ => []

/-- A scalar register by its field. -/
def sreg (x : BitVec 6) : RegName := .s x.toNat

/-- The mask register `m0`, read where a slot is masked. -/
def maskReg (m : BitVec 1) : List RegName := if m = 1 then [.m 0] else []

/-- The scalar registers from the one after x upward, n of them. -/
def sregsAfter (x : BitVec 6) (n : Nat) : List RegName := (List.range n).map fun i => .s (x.toNat + 1 + i)

/-- The registers a slot reads that may be pending: scalars, masks and path traces. `wait` names its token without reading
it (R105). -/
def readsOf : Instr → List RegName
  | .brx _ _ x _ => [sreg x]
  | .nestReg _ a | .mark _ a | .bktj a _ | .setb _ a _ => [sreg a]
  | .add _ _ a b _ | .sub _ _ a b _ | .mul _ _ a b _ | .mulh _ _ a b _ | .mulhn _ _ a b _ | .div _ _ a b _
  | .divn _ _ a b _ | .rem _ _ a b _ | .remn _ _ a b _ | .and _ _ a b _ | .or _ _ a b _ | .xor _ _ a b _
  | .andn _ _ a b _ | .shl _ _ a b _ | .shr _ _ a b _ | .sar _ _ a b _ | .rotl _ _ a b _ | .min _ _ a b _
  | .max _ _ a b _ | .minn _ _ a b _ | .maxn _ _ a b _ | .sfadd _ _ a b _ | .sfmul _ _ a b _ =>
    [sreg a, sreg b]
  | .sffma _ d a b _ => [sreg d, sreg a, sreg b]
  | .addi _ _ a _ | .clz _ _ a _ | .ctz _ _ a _ | .popc _ _ a _ | .sext _ _ a _ _ | .zext _ _ a _ _ | .mov _ _ a _ => [sreg a]
  | .sfcvt _ _ a _ _ | .sfxf _ _ a _ _ | .s2p _ _ a | .wrsr _ a _ | .s2q _ _ _ a | .hld _ _ a | .gset _ _ _ a => [sreg a]
  | .movk _ d _ => [sreg d]
  | .sel _ _ a b _ | .cmp _ _ a b _ _ | .sfcmp _ _ a b _ _ | .iadd _ _ a b | .nodc _ _ a b => [sreg a, sreg b]
  | .nodl _ _ a => [sreg a]
  | .vadd _ _ _ _ _ m | .vsub _ _ _ _ _ m | .vmul _ _ _ _ _ m | .vfma _ _ _ _ _ m | .vfms _ _ _ _ _ m
  | .vfnma _ _ _ _ _ m | .vdiv _ _ _ _ _ m | .vmin _ _ _ _ _ m | .vmax _ _ _ _ _ m | .vcpys _ _ _ _ _ m
  | .viadd _ _ _ _ _ m | .visub _ _ _ _ _ m | .vimul _ _ _ _ _ m | .vimulh _ _ _ _ _ m | .vshl _ _ _ _ _ m
  | .vshr _ _ _ _ _ m | .vsar _ _ _ _ _ m | .vimin _ _ _ _ _ m | .vimax _ _ _ _ _ m | .viminn _ _ _ _ _ m
  | .vimaxn _ _ _ _ _ m | .vslide _ _ _ _ _ m =>
    maskReg m
  | .vand _ _ _ _ m | .vor _ _ _ _ m | .vxor _ _ _ _ m | .vperm _ _ _ _ m =>
    maskReg m
  | .vsqrt _ _ _ _ m | .vabs _ _ _ _ m | .vneg _ _ _ _ m | .vpopc _ _ _ _ m | .vclz _ _ _ _ m | .vhist _ _ _ _ m =>
    maskReg m
  | .vcmp _ _ _ _ _ _ k => maskReg k
  | .vcvt _ _ _ _ _ m | .vrnd _ _ _ _ _ m | .vxf _ _ _ _ _ m | .vred _ _ _ _ _ m | .vscan _ _ _ _ _ m => maskReg m
  | .vnot _ _ _ m | .vmov _ _ _ m => maskReg m
  | .vsel _ _ _ _ _ | .vcompress _ _ _ _ | .vexpand _ _ _ _ => [.m 0]
  | .vbcast _ _ a _ m => sreg a :: maskReg m
  | .vins _ _ a _ _ => [sreg a]
  | .vqclip _ _ _ b _ => [sreg b]
  | .mand _ _ a b | .mor _ _ a b | .mxor _ _ a b => [.m a.toNat, .m b.toNat]
  | .mnot _ _ a | .mpop _ _ a | .mfirst _ _ a => [.m a.toNat]
  | .acscl _ _ a _ | .acsclE _ _ a _ => [sreg a]
  | .tlds _ _ _ i _ => [sreg i]
  | .tsts _ a _ i _ => [sreg a, sreg i]
  | .tfill _ _ a _ _ | .tfmt _ _ a _ _ | .tcopy _ _ _ a => [sreg a]
  | .tpack _ _ _ _ => [.m 0]
  | .tatom _ a _ o _ => sreg a :: sregsAfter a (if o = 7 then 2 else 1)
  | .hgat _ _ _ _ _ | .hsca _ _ _ _ _ | .xsend _ _ _ _ | .xsendLast _ _ _ _ => [.m 0]
  | .hcopy _ _ _ r _ _ => sregsAfter r 1
  | .hpfl2 _ r _ _ | .hres _ r _ _ => sregsAfter r 1
  | .hatom _ r _ _ _ _ | .hatomr _ r _ _ _ _ => sregsAfter r 1
  | .hcas _ r _ _ _ => sregsAfter r 2
  | .tgrad _ _ _ _ y => [.y y.toNat]
  | .nsend _ _ r _ | .nexp _ r _ => sregsAfter r 1
  | .svc _ r _ => sregsAfter r 6
  | _ => []

/-- The shape entry that a command names. -/
def shapeArg : Instr → Option (BitVec 3)
  | .hfet _ _ _ _ e | .hput _ _ _ _ e | .hgat _ _ _ _ e | .hsca _ _ _ _ e | .hcopy _ _ _ _ e _ => some e
  | .hpfl2 _ _ _ e | .hres _ _ _ e | .hprobe _ _ _ e => some e
  | _ => none

/-- The register that a command or a cluster transfer names as its token (R190). -/
def tokenOf : Instr → Option (BitVec 6)
  | .hfet _ _ r _ _ | .hput _ _ r _ _ | .hgat _ _ r _ _ | .hsca _ _ r _ _ | .hcopy _ _ _ r _ _ => some r
  | .hpfl2 _ r _ _ | .hres _ r _ _ | .hprobe _ r _ _ | .hopen _ r _ | .hpub _ r _ | .hdisc _ r _ | .hpin _ r _ => some r
  | .hpinV _ r _ | .hunpin _ r _ | .hsub _ r _ _ | .hsubV _ r _ _ | .hunsub _ r _ | .hver _ r _ => some r
  | .hatom _ r _ _ _ _ | .hatomr _ r _ _ _ _ | .hcas _ r _ _ _ | .tdesc _ _ r _ _ | .tgrad _ _ r _ _ => some r
  | .rbind _ r _ _ | .rput _ _ r _ | .rputLast _ _ r _ | .rputUpd _ _ r _ | .rtake _ _ r _ _ | .rdone _ r _ _ => some r
  | .rdoneFail _ r _ _ | .rstat _ _ r _ | .xsend _ _ r _ | .xsendLast _ _ r _ | .xref _ _ r | .csnap _ _ r => some r
  | .cread _ _ r | .fcbind _ r _ | .fcbindUn _ r | .fcstat _ _ r | .nsend _ _ r _ | .nexp _ r _ | .ncnt _ r _ => some r
  | .svc _ r _ | .txfer _ _ r _ _ | .txferRow _ _ r _ | .txferAll _ _ r => some r
  | _ => none

/-- R365: a register by class and number: 0 `s`, 1 `p`, 2 `v`, 3 `m`, 4 `q`, 5 `h`, 6 `g`, 7 `n`, 8 `b`, 9 `y`, 10 special,
11 tile. -/
abbrev ClassReg := Nat × Nat

/-- The registers that a command leaves pending, by class. -/
def classOf : RegName → ClassReg
  | .s n => (0, n)
  | .m n => (3, n)
  | .y n => (9, n)

/-- R24, R188, R215: the registers and tiles that a slot writes, guards aside; `ckpt` says that the bundle is a checkpoint
bundle, and `shape` gives the shape entries. -/
def writesAt (ckpt : Bool) (shape : BitVec 3 → BitVec 65) : Instr → List ClassReg
  | .nest l _ | .nestReg l _ => [(7, l.toNat)]
  | .rot => [(10, 0x10), (10, 0x11)]
  | .bktj a p => [(0, a.toNat), (1, p.toNat)]
  | .setb b _ _ => [(8, b.toNat)]
  | .add _ d _ _ _ | .sub _ d _ _ _ | .mul _ d _ _ _ | .mulh _ d _ _ _ | .mulhn _ d _ _ _ | .div _ d _ _ _
  | .divn _ d _ _ _ | .rem _ d _ _ _ | .remn _ d _ _ _ | .and _ d _ _ _ | .or _ d _ _ _ | .xor _ d _ _ _
  | .andn _ d _ _ _ | .shl _ d _ _ _ | .shr _ d _ _ _ | .sar _ d _ _ _ | .rotl _ d _ _ _ | .min _ d _ _ _
  | .max _ d _ _ _ | .minn _ d _ _ _ | .maxn _ d _ _ _ | .sfadd _ d _ _ _ | .sfmul _ d _ _ _ | .sffma _ d _ _ _ =>
    [(0, d.toNat)]
  | .addi _ d _ _ | .clz _ d _ _ | .ctz _ d _ _ | .popc _ d _ _ | .sext _ d _ _ _ | .zext _ d _ _ _ | .mov _ d _ _ => [(0, d.toNat)]
  | .sfcvt _ d _ _ _ | .sfxf _ d _ _ _ | .movi _ d _ | .movk _ d _ | .sel _ d _ _ _ | .p2s _ d _ | .rdsr _ d _ => [(0, d.toNat)]
  | .cmp _ p _ _ _ _ | .sfcmp _ p _ _ _ _ | .pand _ p _ _ _ _ | .por _ p _ _ _ _ | .pnot _ p _ | .s2p _ p _ => [(1, p.toNat)]
  | .wrsr _ _ r => [(10, r.toNat)]
  | .qcmp _ p _ _ _ _ => [(1, p.toNat)]
  | .qset _ q _ _ | .qadd _ q _ _ | .qinc _ q _ _ | .qmov _ q _ | .s2q _ q _ _ => [(4, q.toNat)]
  | .q2s _ d _ _ | .iadd _ d _ _ | .imovi _ d _ | .nodc _ d _ _ | .nodl _ d _ => [(0, d.toNat)]
  | .hmov _ d _ | .hld _ d _ => [(5, d.toNat)]
  | .gset _ d _ _ => [(6, d.toNat)]
  | .vadd _ d _ _ _ _ | .vsub _ d _ _ _ _ | .vmul _ d _ _ _ _ | .vfma _ d _ _ _ _ | .vfms _ d _ _ _ _
  | .vfnma _ d _ _ _ _ | .vdiv _ d _ _ _ _ | .vmin _ d _ _ _ _ | .vmax _ d _ _ _ _ | .vcpys _ d _ _ _ _
  | .viadd _ d _ _ _ _ | .visub _ d _ _ _ _ | .vimul _ d _ _ _ _ | .vimulh _ d _ _ _ _ | .vshl _ d _ _ _ _
  | .vshr _ d _ _ _ _ | .vsar _ d _ _ _ _ | .vimin _ d _ _ _ _ | .vimax _ d _ _ _ _ | .viminn _ d _ _ _ _
  | .vimaxn _ d _ _ _ _ | .vslide _ d _ _ _ _ =>
    [(2, d.toNat)]
  | .vand _ d _ _ _ | .vor _ d _ _ _ | .vxor _ d _ _ _ | .vperm _ d _ _ _ =>
    [(2, d.toNat)]
  | .vsqrt _ d _ _ _ | .vabs _ d _ _ _ | .vneg _ d _ _ _ | .vpopc _ d _ _ _ | .vclz _ d _ _ _ | .vhist _ d _ _ _ =>
    [(2, d.toNat)]
  | .vcmp _ m _ _ _ _ _ => [(3, m.toNat)]
  | .vcvt _ d _ _ _ _ | .vrnd _ d _ _ _ _ | .vxf _ d _ _ _ _ | .vscan _ d _ _ _ _ => [(2, d.toNat)]
  | .vnot _ d _ _ | .vmov _ d _ _ | .vsel _ d _ _ _ | .vcompress _ d _ _ | .vexpand _ d _ _ | .vbcast _ d _ _ _ => [(2, d.toNat)]
  | .vins _ d _ _ _ | .vquant _ d _ _ | .vdeq _ d _ _ => [(2, d.toNat)]
  | .vzip _ d _ _ | .vunzip _ d _ _ => [(2, d.toNat), (2, d.toNat + 1)]
  | .vred _ d _ _ _ _ => [(0, d.toNat)]
  | .vext _ d _ _ _ | .vqclip _ d _ _ _ | .mpop _ d _ | .mfirst _ d _ => [(0, d.toNat)]
  | .mand _ d _ _ | .mor _ d _ _ | .mxor _ d _ _ | .mnot _ d _ => [(3, d.toNat)]
  | .acrd _ _ t _ _ => [(11, t.toNat)]
  | .acmv _ _ v _ m => if m = 0 then [(2, v.toNat)] else []
  | .tld _ v _ _ => [(2, v.toNat)]
  | .tlds _ d _ _ _ => [(0, d.toNat)]
  | .thdr _ _ d => [(0, d.toNat)]
  | .tst _ _ t _ | .tsts _ _ t _ _ | .tfill _ t _ _ _ | .tfmt _ t _ _ _ | .tcopy _ t _ _ => [(11, t.toNat)]
  | .tpack _ t _ n => [(0, n.toNat), (11, t.toNat)]
  | .tatom _ _ t _ _ => [(11, t.toNat)]
  | .tfree _ t | .tsetf _ t => if ckpt then [] else [(11, t.toNat)]
  | i => (tokenOf i).elim [] fun r => (writesOf i r.toNat ((shapeArg i).elim 0 shape)).map classOf

/-- The bank that an MXU or ACC slot names, with its field's place. -/
def bankField : Instr → Option (BitVec 4 × Nat)
  | .mxs _ b _ _ _ | .mxrank _ b _ _ => some (b, 17)
  | .acz _ b _ _ | .acrd _ b _ _ _ | .acwr _ b _ _ _ | .acadd _ b _ _ _ | .acmv _ b _ _ _ | .acfmt _ b _ => some (b, 17)
  | .acscl _ b _ _ | .acsclE _ b _ _ | .acbias _ b _ _ => some (b, 17)
  | _ => none

/-- A slot operation's guard; the SEQ slot has none (R60). -/
def guardField : Instr → Option (BitVec 5)
  | .add g _ _ _ _ | .addi g _ _ _ | .sub g _ _ _ _ | .mul g _ _ _ _ | .mulh g _ _ _ _ | .mulhn g _ _ _ _
  | .div g _ _ _ _ | .divn g _ _ _ _ | .rem g _ _ _ _ | .remn g _ _ _ _ | .and g _ _ _ _ | .or g _ _ _ _
  | .xor g _ _ _ _ | .andn g _ _ _ _ | .shl g _ _ _ _ | .shr g _ _ _ _ | .sar g _ _ _ _ | .rotl g _ _ _ _
  | .min g _ _ _ _ | .max g _ _ _ _ | .minn g _ _ _ _ | .maxn g _ _ _ _ | .clz g _ _ _ | .ctz g _ _ _
  | .popc g _ _ _ | .sext g _ _ _ _ | .zext g _ _ _ _ | .movi g _ _ | .movk g _ _ | .mov g _ _ _ | .sel g _ _ _ _
  | .cmp g _ _ _ _ _ | .pand g _ _ _ _ _ | .por g _ _ _ _ _ | .pnot g _ _ | .s2p g _ _ | .p2s g _ _ | .rdsr g _ _
  | .wrsr g _ _ | .sfadd g _ _ _ _ | .sfmul g _ _ _ _ | .sffma g _ _ _ _ | .sfcmp g _ _ _ _ _ | .sfcvt g _ _ _ _
  | .sfxf g _ _ _ _ | .qset g _ _ _ | .qadd g _ _ _ | .qinc g _ _ _ | .qcmp g _ _ _ _ _ | .qmov g _ _
  | .q2s g _ _ _ | .s2q g _ _ _ | .hmov g _ _ | .hld g _ _ | .gset g _ _ _ | .iadd g _ _ _ | .imovi g _ _
  | .nodc g _ _ _ | .nodl g _ _ | .vadd g _ _ _ _ _ | .vsub g _ _ _ _ _ | .vmul g _ _ _ _ _ | .vfma g _ _ _ _ _
  | .vfms g _ _ _ _ _ | .vfnma g _ _ _ _ _ | .vdiv g _ _ _ _ _ | .vsqrt g _ _ _ _ | .vmin g _ _ _ _ _
  | .vmax g _ _ _ _ _ | .vabs g _ _ _ _ | .vneg g _ _ _ _ | .vcpys g _ _ _ _ _ | .vcmp g _ _ _ _ _ _
  | .vsel g _ _ _ _ | .vcvt g _ _ _ _ _ | .vrnd g _ _ _ _ _ | .vxf g _ _ _ _ _ | .viadd g _ _ _ _ _
  | .visub g _ _ _ _ _ | .vimul g _ _ _ _ _ | .vimulh g _ _ _ _ _ | .vand g _ _ _ _ | .vor g _ _ _ _
  | .vxor g _ _ _ _ | .vnot g _ _ _ | .vshl g _ _ _ _ _ | .vshr g _ _ _ _ _ | .vsar g _ _ _ _ _
  | .vimin g _ _ _ _ _ | .vimax g _ _ _ _ _ | .viminn g _ _ _ _ _ | .vimaxn g _ _ _ _ _ | .vpopc g _ _ _ _
  | .vclz g _ _ _ _ | .vmov g _ _ _ | .vbcast g _ _ _ _ | .vins g _ _ _ _ | .vext g _ _ _ _ | .vperm g _ _ _ _
  | .vslide g _ _ _ _ _ | .vzip g _ _ _ | .vunzip g _ _ _ | .vcompress g _ _ _ | .vexpand g _ _ _
  | .vred g _ _ _ _ _ | .vscan g _ _ _ _ _ | .mand g _ _ _ | .mor g _ _ _ | .mxor g _ _ _ | .mnot g _ _
  | .mpop g _ _ | .mfirst g _ _ | .vhist g _ _ _ _ | .vqclip g _ _ _ _ | .vquant g _ _ _ | .vdeq g _ _ _
  | .mxlw g _ _ _ | .mxsw g | .mxs g _ _ _ _ | .mxrank g _ _ _ | .mxz g | .acz g _ _ _ | .acrd g _ _ _ _
  | .acwr g _ _ _ _ | .acadd g _ _ _ _ | .acmv g _ _ _ _ | .acfmt g _ _ | .acscl g _ _ _ | .acsclE g _ _ _
  | .acbias g _ _ _ | .tld g _ _ _ | .tst g _ _ _ | .tlds g _ _ _ _ | .tsts g _ _ _ _ | .tfill g _ _ _ _
  | .tfree g _ | .tsetf g _ | .txfer g _ _ _ _ | .txferRow g _ _ _ | .txferAll g _ _ | .tcopy g _ _ _
  | .tpack g _ _ _ | .tatom g _ _ _ _ | .thdr g _ _ | .tfmt g _ _ _ _ | .hfet g _ _ _ _ | .hput g _ _ _ _
  | .hgat g _ _ _ _ | .hsca g _ _ _ _ | .hcopy g _ _ _ _ _ | .hpfl2 g _ _ _ | .hres g _ _ _ | .hprobe g _ _ _
  | .hopen g _ _ | .hpub g _ _ | .hdisc g _ _ | .hpin g _ _ | .hpinV g _ _ | .hunpin g _ _ | .hsub g _ _ _
  | .hsubV g _ _ _ | .hunsub g _ _ | .hver g _ _ | .hatom g _ _ _ _ _ | .hatomr g _ _ _ _ _ | .hcas g _ _ _ _
  | .tdesc g _ _ _ _ | .tgrad g _ _ _ _ | .rbind g _ _ _ | .rput g _ _ _ | .rputLast g _ _ _ | .rputUpd g _ _ _
  | .rtake g _ _ _ _ | .rdone g _ _ _ | .rdoneFail g _ _ _ | .rstat g _ _ _ | .xsend g _ _ _ | .xsendLast g _ _ _
  | .xref g _ _ | .csnap g _ _ | .cread g _ _ | .fcbind g _ _ | .fcbindUn g _ | .fcstat g _ _ | .nsend g _ _ _
  | .nexp g _ _ | .ncnt g _ _ | .svc g _ _ => some g
  | _ => none

end Sys2Proof.Machine
end

