-- ==== Sys2Proof/Machine/Scratch.lean ====
section
/-!
DEFINITION. A core's scratchpad as its contexts see it (R201 to R205): writes of one context that have not reached another,
what barriers and full bits make it see, and loads that are performed after later operations of their context. Both are
off unless a turn of the schedule asks for them (log entry 14); then every access acts at its turn.
-/

namespace Sys2Proof.Machine

/-- A local context of a core changed. -/
def modCtxIn (c : CoreRec) (x : Nat) (f : Ctx → Ctx) : CoreRec :=
  { c with ctxs := c.ctxs.setIfInBounds x (f (c.ctxs.getD x Reset.ctx)) }

/-! ## What a context sees (R201) -/

/-- R201: the scratchpad as a local context finds it: at each aligned 8 bytes, what stood there before the oldest write that
has not reached it. -/
def seenBy (c : CoreRec) (x : Nat) : Mem :=
  (c.unseen.filter fun u => u.reader == x).foldr (fun u m => writeNat m (8 * u.word) 8 u.old.toNat) c.scratch

/-- The scratchpad as the core's acting context finds it. -/
def seen (c : CoreRec) : Mem := seenBy c c.cur

/-- The aligned 8 bytes that a run of bytes touches, by their numbers. -/
def wordsOf (a n : Nat) : List Nat := if n = 0 then [] else (List.range ((a + n - 1) / 8 + 1 - a / 8)).map (a / 8 + ·)

/-- R201: the contexts other than x that the writes of others reach late. -/
def lagging (c : CoreRec) (x : Nat) : List Nat :=
  (List.range 4).filter fun k => k != x && (c.ctxs.getD k Reset.ctx).lags

/-- R201: a write of n bytes by context x noted: x itself sees it, and the contexts that lag do not yet. -/
def noteWrite (x bars steps a n : Nat) (c : CoreRec) : CoreRec :=
  { c with unseen := (c.unseen.filter fun u => !(u.reader == x && (wordsOf a n).contains u.word)) ++
      (lagging c x).flatMap fun k =>
        (wordsOf a n).map fun w => ⟨k, w, BitVec.ofNat 64 (readNat c.scratch (8 * w) 8), x, bars, steps, false⟩ }

/-- R201, R202: a write of a local context to its core's scratchpad, with its barrier and superstep counts. -/
def slotWrite (x bars steps a : Nat) (bs : List Byte) (c : CoreRec) : CoreRec :=
  { noteWrite x bars steps a bs.length c with scratch := writeBytes c.scratch a bs }

/-- The unseen writes once those that satisfy p, and the older ones of the same reader and place, have been seen. -/
def seeing (p : Unseen → Bool) : List Unseen → List Unseen
  | [] => []
  | u :: r =>
    if p u || r.any fun v => v.reader == u.reader && v.word == u.word && p v then seeing p r else u :: seeing p r

/-- Writes made visible in a core. -/
def makeSeen (p : Unseen → Bool) (c : CoreRec) : CoreRec := { c with unseen := seeing p c.unseen }

/-- The tile that aligned 8 bytes lie in. -/
def Unseen.tile (u : Unseen) : Nat := u.word / 1024

/-- R203: a slot of context x that waited on tile t sees what each context that has set its full bit wrote to it before. -/
def seesOwner (x t : Nat) (c : CoreRec) : CoreRec := makeSeen (fun u => u.reader == x && u.tile == t && u.shown) c

/-- R204: context x has passed its n-th barrier: it sees what was written before the arrivals at it. -/
def seesBarrier (x n : Nat) (c : CoreRec) : CoreRec := makeSeen (fun u => u.reader == x && decide (u.bars < n)) c

/-- R204: context x has passed its n-th superstep. -/
def seesSuperstep (x n : Nat) (c : CoreRec) : CoreRec := makeSeen (fun u => u.reader == x && decide (u.steps < n)) c

/-- R202: a landing in tile t is whole to every reader. -/
def seenLanding (t : Nat) (c : CoreRec) : CoreRec := { c with unseen := c.unseen.filter fun u => u.tile != t }

/-! ## Late loads (R201) -/

/-- A load of context x performed: it reads what the context sees now. -/
def performLoad (x : Nat) (l : LateLoad) (c : CoreRec) : CoreRec :=
  let n := natOfBytes (readBytes (seenBy c x) (Config.tileBytes * l.tile + l.offset) l.size)
  modCtxIn c x fun d =>
    match l.dest with
    | .s k => { d with live := { d.live with s := d.live.s.setIfInBounds k (BitVec.ofNat 64 n) } }
    | .v k => { d with live := { d.live with v := d.live.v.setIfInBounds k (BitVec.ofNat 2048 n) } }

/-- The late loads of context x that satisfy p, and those before them, performed in order. -/
def performLoads (x : Nat) (p : LateLoad → Bool) (c : CoreRec) : CoreRec :=
  let ls := (c.ctxs.getD x Reset.ctx).loads
  let now := ls.take (ls.length - (ls.reverse.takeWhile fun l => !p l).length)
  if now.isEmpty then c
  else modCtxIn (now.foldl (fun c l => performLoad x l c) c) x fun d => { d with loads := d.loads.drop now.length }

/-- Every late load from tile t performed, before what the tile holds is replaced. -/
def loadsOfTile (t : Nat) (c : CoreRec) : CoreRec :=
  [0, 1, 2, 3].foldl (fun c x => performLoads x (fun l => l.tile == t) c) c

/-- R201, R26: an operation that uses vector registers. -/
def usesVectors (i : Instr) : Bool :=
  match i with
  | .acmv .. | .acbias .. | .tld .. | .tst .. => true
  | i => slotOf i == some 3

/-- R26, R201: a late load comes before a bundle that names its register or its tile, and before a checkpoint bundle. -/
def precedes (scalars tiles : List Nat) (vectors all : Bool) (l : LateLoad) : Bool :=
  all || tiles.contains l.tile ||
    match l.dest with
    | .s k => scalars.contains k
    | .v _ => vectors

end Sys2Proof.Machine
end

