-- ==== Sys2Proof/Machine/Ops.lean ====
section
/-!
DEFINITION. The shared operations of the machine: finding and changing cores, launches and partitions; tiles, waits on
empty tiles and the region rules (R29, R187, R167); command records; and taking a trap, which is the part's exception
(R101, R197, R363 to R365), with the rollback that it and other causes share.
-/

namespace Sys2Proof.Machine

/-! ## Cores -/

/-- A core by the model's name for it. -/
def coreOf (s : State) (id : Nat) : Option CoreRec :=
  if s.core.id = id then some s.core else s.parked.find? fun c => c.id == id

/-- Every core that holds a team, the acting one first. -/
def allCores (s : State) : List CoreRec := s.core :: s.parked

/-- A core changed, by its name. -/
def modCoreId (s : State) (id : Nat) (f : CoreRec → CoreRec) : State :=
  if s.core.id = id then { s with core := f s.core }
  else { s with parked := s.parked.map fun c => if c.id = id then f c else c }

/-- Every core changed. -/
def modAllCores (s : State) (f : CoreRec → CoreRec) : State := { s with core := f s.core, parked := s.parked.map f }

/-- The named core made the acting one; a name that no core has changes nothing. -/
def focus (s : State) (id : Nat) : State :=
  if s.core.id = id then s
  else
    match s.parked.find? fun c => c.id == id with
    | none => s
    | some c => { s with core := c, parked := s.parked.map fun d => if d.id = id then s.core else d }

/-- An operation carried out with another core and context acting, after which the first core acts again. -/
def withActing (s : State) (core : Nat) (ctx : Fin 4) (f : State → State) : State :=
  match coreOf s core with
  | none => s
  | some c =>
    let t := modCore (focus s core) fun d => { d with cur := ctx }
    focus (modCore (f { t with issue := none }) fun d => { d with cur := c.cur }) s.core.id

/-- A context changed, by core and local number. -/
def modCtxOf (s : State) (core : Nat) (ctx : Nat) (f : Ctx → Ctx) : State :=
  modCoreId s core fun c =>
    if h : ctx < 4 then { c with ctxs := c.ctxs.set ctx (f (c.ctxs[ctx])) } else c

/-- A context, by core and local number. -/
def ctxOf (s : State) (core : Nat) (ctx : Nat) : Option Ctx := (coreOf s core).bind fun c => c.ctxs[ctx]?

/-! ## Launches, teams, partitions -/

/-- A launch by its number. -/
def launchBy (s : State) (id : Nat) : Option Launch := s.launches.find? fun l => l.id == id

/-- A launch changed. -/
def modLaunch (s : State) (id : Nat) (f : Launch → Launch) : State :=
  { s with launches := s.launches.map fun l => if l.id = id then f l else l }

/-- A team of a launch. -/
def teamBy (s : State) (launch team : Nat) : Option Team :=
  (launchBy s launch).bind fun l => l.teams.find? fun t => t.index == team

/-- A team changed. -/
def modTeamBy (s : State) (launch team : Nat) (f : Team → Team) : State :=
  modLaunch s launch fun l => { l with teams := l.teams.map fun t => if t.index = team then f t else t }

/-- A partition by its number. -/
def partitionBy (s : State) (n : Nat) : Option Partition := s.partitions.find? fun p => p.number == n

/-- A partition changed. -/
def modPartition (s : State) (n : Nat) (f : Partition → Partition) : State :=
  { s with partitions := s.partitions.map fun p => if p.number = n then f p else p }

/-- The partition that owns the acting launch. -/
def actingPartition (s : State) : Nat := (launchOf s).elim 0 (·.partition)

/-! ## Tiles (R173, R174, R185) -/

/-- A tile's header and state. -/
def tileOf (c : CoreRec) (t : Nat) : Tile := c.tiles.getD t Reset.tile

/-- A tile's state changed in a core. -/
def setTileIn (c : CoreRec) (t : Nat) (f : Tile → Tile) : CoreRec :=
  { c with tiles := c.tiles.setIfInBounds t (f (tileOf c t)) }

/-- A tile's state changed in the acting core. -/
def modTile (s : State) (t : Nat) (f : Tile → Tile) : State := modCore s fun c => setTileIn c t f

/-- The bytes of a tile from an offset upward, as the acting context finds them. -/
def tileBytesAt (c : CoreRec) (t off n : Nat) : List Byte := readBytes (seen c) (Config.tileBytes * t + off) n

/-- A tile's contents as a memory of its own, as the acting context finds them. -/
def tileMem (c : CoreRec) (t : Nat) : Mem := sliceMem (seen c) (Config.tileBytes * t) Config.tileBytes

/-- Bytes written into a tile of the acting core by its acting context. -/
def putTile (s : State) (t off : Nat) (bs : List Byte) : State :=
  modCore s (slotWrite (localNo s) (curCtx s).live.barCount.toNat (curCtx s).live.stepCount.toNat (Config.tileBytes * t + off) bs)

/-- A tile's contents replaced by a landing, in a core (R202). -/
def setTileMem (c : CoreRec) (t : Nat) (m : Mem) : CoreRec :=
  let d := seenLanding t (loadsOfTile t c)
  { d with scratch := spliceMem d.scratch (Config.tileBytes * t) Config.tileBytes m }

/-- The head of a tile replaced by a landing, in a core (R202). -/
def landBytes (c : CoreRec) (t : Nat) (bs : List Byte) : CoreRec :=
  let d := seenLanding t (loadsOfTile t c)
  { d with scratch := writeBytes d.scratch (Config.tileBytes * t) bs }

/-- The bit of a local context. -/
def ctxBit (c : Nat) : BitVec 4 := BitVec.ofNat 4 (2 ^ c)

/-- The acting context's read bit of a tile, set unless it wrote the tile whole in its region (R187). -/
def markRead (s : State) (t : Nat) : State :=
  modTile s t fun x =>
    if x.writtenBits &&& ctxBit (localNo s) = 0 then { x with readBits := x.readBits ||| ctxBit (localNo s) } else x

/-- Tiles marked read. -/
def markReads (s : State) (ts : List Nat) : State := ts.foldl markRead s

/-- R187: a write to tile t by this slot is a region violation. -/
def tileViolation (s : State) (slot t : Nat) : Bool :=
  (tileOf s.core t).readBits &&& ctxBit (localNo s) != 0 ||
    (s.issue.elim false fun i => i.reads.any fun r => r.1 != slot && r.2 == t)

/-- R203: the unseen writes of the acting context to a tile, which a slot that waits on the tile's full bit sees from now on; or
those of every context, which it no longer does. -/
def showWrites (s : State) (t : Nat) (on : Bool) : State :=
  modCore s fun c =>
    { c with unseen := c.unseen.map fun u =>
        if u.word / 1024 = t ∧ (!on ∨ u.writer = localNo s) then { u with shown := on } else u }

/-- The full bit set, with the acting context as owner (R174). -/
def setFull (s : State) (t : Nat) : State :=
  showWrites (modTile s t fun x => { x with full := true, owner := BitVec.ofNat 2 (localNo s) }) t true

/-- The full bit cleared. -/
def clearFull (s : State) (t : Nat) : State := showWrites (modTile s t fun x => { x with full := false }) t false

/-- R41, R54 header: a landing's header, full bit and owner, in a core; the reservation ends. -/
def landHeader (owner rows rowbytes : Nat) (fmt : BitVec 4) (scaled : Bool) (x : Tile) : Tile :=
  { x with rows := BitVec.ofNat 7 rows, rowbytes := BitVec.ofNat 14 rowbytes, fmt := fmt, scaled := scaled,
           full := true, reserved := false, owner := BitVec.ofNat 2 owner }

/-! ## Waiting slots (R29) -/

/-- R190, R206: the registers that a waiting command holds pending from the issue of its bundle. -/
def waitPending (r : Regs) (op : Instr) : List RegName :=
  (tokenOf op).elim [] fun t => writesOf op t.toNat ((shapeArg op).elim 0 fun e => r.g[e.toNat])

/-- The slot recorded as waiting, with the registers that it will use; a command's token is pending from now on (R181,
R190). -/
def addWait (s : State) (slot : Nat) (op : Instr) : State :=
  modCtx s fun c =>
    { c with
      waiting := c.waiting ++
        [⟨slot, op, regs s, BitVec.ofNat 32 (ownIndex s), inCheckpoint s, s.issue.elim [] (·.reads)⟩]
      live := { c.live with pending := c.live.pending ++ waitPending (regs s) op } }

/-! ## Command records (R206) -/

/-- A command by its number. -/
def cmdBy (s : State) (id : Nat) : Option Cmd := s.cmds.find? fun c => c.id == id

/-- A command changed. -/
def modCmd (s : State) (id : Nat) (f : Cmd → Cmd) : State :=
  { s with cmds := s.cmds.map fun c => if c.id = id then f c else c }

/-- A command dropped from the records. -/
def dropCmd (s : State) (id : Nat) : State := { s with cmds := s.cmds.filter fun c => c.id != id }

/-- A command belongs to a context. -/
def Cmd.of (c : Cmd) (core ctx : Nat) : Bool := c.core == core && c.ctx == ctx

/-- The reservation of a tile released, in a core (R213). -/
def unreserve (c : CoreRec) (t : Nat) : CoreRec := setTileIn c t fun x => { x with reserved := false }

/-- The tile that a command lands in, when it has one. -/
def destTile : Instr → Option Nat
  | .hfet _ t _ _ _ | .hgat _ t _ _ _ => some t.toNat
  | .xref _ t _ | .csnap _ t _ | .cread _ t _ | .fcstat _ t _ => some t.toNat
  | .rtake _ t _ _ _ => some t.toNat
  | .rstat _ t _ _ => some t.toNat
  | .tdesc _ t _ _ _ => some (t.toNat + 1)
  | _ => none

/-- A command's reservation released, when it holds one. -/
def dropReservation (s : State) (c : Cmd) : State :=
  match c.reserved, destTile c.op with
  | true, some t => modCmd (modCoreId s c.core fun d => unreserve d t) c.id fun d => { d with reserved := false }
  | _, _ => s

/-! ## Rollback (R101, R197 to R199) -/

/-- What a rollback of (core, ctx) leaves of a command: unreleased withheld and checkpoint commands go, free commands of
the region become orphans, and a transfer of the region goes on without its token. -/
def rollbackCmd (core ctx : Nat) (c : Cmd) : Option Cmd :=
  if !(c.of core ctx && c.inRegion) then some c
  else
    match c.kind with
    | .free => some { c with orphan := true, adopted := false }
    | .transfer => if c.done then none else some { c with discarded := true, inRegion := false }
    | _ => if c.released then some c else none

/-- The region bits of a context cleared (R187, R167, R197): tile bits, bank bits and the plane read bit. -/
def clearRegionBits (c : CoreRec) (x : Nat) : CoreRec :=
  let keep := ~~~ctxBit x
  { c with
    tiles := c.tiles.map fun t => { t with readBits := t.readBits &&& keep, writtenBits := t.writtenBits &&& keep }
    bankRead := c.bankRead.map fun b => b &&& keep
    rowWritten := c.rowWritten.mapIdx fun i b => if i / 16 = x then 0 else b
    planeRead := c.planeRead &&& keep }

/-- R228: the marks of `xref` taken back. -/
def unmarkRefusals (c : Ctx) : Ctx :=
  { c with refusals := c.refusals.map fun r => { r with marked := false }, overflowMarked := false }

/-- A context rolled back: its shadow restored, its buffer discarded, its waiting slots abandoned (R101). Its
region count becomes 0, which is the model's choice (log entry 116). -/
def rollbackCtx (c : Ctx) : Ctx :=
  { unmarkRefusals c with
    live := c.shadow, region := 0, waiting := [], closing := none, withheld := [], loads := [], atCheckpoint := true,
    draining := true }

/-- R101, R197: the acting context rolled back. -/
def rollback (s : State) : State :=
  let s1 := modCtx { s with cmds := s.cmds.filterMap (rollbackCmd s.core.id (localNo s)) } rollbackCtx
  modCore s1 fun c => clearRegionBits c (localNo s)

/-! ## Taking a trap (R362 to R366) -/

/-- R362: the classes after which Rilsia ends the launch at once. -/
def fatalClass (cls : Nat) : Bool := cls != 0x07 && cls != 0x08 && cls != 0x09

/-- The trap counted by its launch: the first fatal one is kept (R367), the later ones are counted. -/
def noteTrap (r : TrapRecord) (l : Launch) : Launch :=
  if l.firstTrap.isSome then { l with laterTraps := l.laterTraps + 1 }
  else if fatalClass r.cls.toNat then { l with firstTrap := some r } else l

/-- A trap record of the acting context (R364). -/
def trapRecord (s : State) (cls slot bundle detail : Nat) (operand : BitVec 64) : TrapRecord :=
  ⟨BitVec.ofNat 8 cls, BitVec.ofNat 8 slot, BitVec.ofNat 8 (curCtx s).index, BitVec.ofNat 32 bundle,
    BitVec.ofNat 32 detail, BitVec.ofNat 32 s.core.team, operand⟩

/-- TAKING A TRAP (R363, R364, R366): the acting context is rolled back to its last checkpoint, stands awaiting Rilsia,
and the record goes to its partition's trap queue. A context that already awaits takes no second trap. -/
def takeTrapAt (s : State) (cls slot bundle detail : Nat) (operand : BitVec 64) : State :=
  if (curCtx s).trap.isSome then s
  else
    let r := trapRecord s cls slot bundle detail operand
    let s1 := modCtx (rollback s) fun c => { c with status := .awaiting, trap := some r }
    let s2 := modPartition s1 (actingPartition s) fun p => { p with traps := p.traps ++ [r] }
    modLaunch s2 s.core.launch (noteTrap r)

/-- A trap at the acting bundle. -/
def takeTrap (s : State) (cls slot detail : Nat) (operand : BitVec 64) : State :=
  takeTrapAt s cls slot (ownIndex s) detail operand

/-- A meaning that ends in a trap. -/
def trapOut (s : State) (cls slot detail : Nat) (operand : BitVec 64) : Out := .next (takeTrap s cls slot detail operand)

/-- R365: an illegal bundle with subcause and value. -/
def trapIllegal (s : State) (slot sub value : Nat) : Out := trapOut s 0x01 slot (sub + 256 * value) 0
/-- R365: a region violation. -/
def trapRegion (s : State) (slot sub value : Nat) : Out := trapOut s 0x02 slot (sub + 256 * value) 0
/-- R365: a region overflow. -/
def trapOverflow (s : State) (slot sub : Nat) : Out := trapOut s 0x03 slot sub 0
/-- R365: a bounds trap whose operand is the offending value. -/
def trapBounds (s : State) (slot sub : Nat) (value : BitVec 64) : Out := trapOut s 0x06 slot sub value

/-! ## Reading tiles (R29, R371) -/

/-- R371: a tile of the acting core holds an uncorrectable error. -/
def badTile (s : State) (t : Nat) : Bool := s.bad.contains (.tile s.core.id t)

/-- R182: a tile that slots find full; a reserved tile reads as empty. -/
def tileFull (c : CoreRec) (t : Nat) : Bool := (tileOf c t).full && !(tileOf c t).reserved

/-- R29: go on when every named tile is full, with the read bits set; otherwise the slot waits. A tile with an
uncorrectable error is class 0x09 to the reading context (R370, R371). -/
def needTiles (s : State) (slot : Nat) (op : Instr) (ts : List Nat) (k : State → Out) : Out :=
  if ts.all (tileFull (frame s)) then
    match ts.find? (badTile s) with
    | some t => trapOut s 0x09 slot (0x03 + 256 * t) 0
    | none => k (markReads s ts)
  else .next (addWait s slot op)

/-- R187: a write to a tile, or the region violation that it is. -/
def writingTile (s : State) (slot t : Nat) (k : Unit → Out) : Out :=
  if tileViolation s slot t then trapRegion s slot 0x01 t else k ()

/-! ## The turn's return: a trap resolved (R366) -/

/-- RETURNING FROM A TRAP (R366): Rilsia resumes the acting context, which issues from its shadowed program counter. -/
def resumeTrap (s : State) : State :=
  modCtx s fun c => if c.status = .awaiting then { c with status := .running, trap := none } else c

/-! ## Fresh names and the schedule -/

/-- A name not used before, and the state that has used it. -/
def freshId (s : State) : Nat × State := (s.nextId, { s with nextId := s.nextId + 1 })

/-- The count of free values drawn so far, and the state that has drawn one more. -/
def drawFree (s : State) : Nat × State := (s.drawn, { s with drawn := s.drawn + 1 })

/-- R372: a pulse resets the silence counter of a context. -/
def pulse (s : State) (core ctx : Nat) : State := modCtxOf s core ctx fun c => { c with silence := 0 }

/-- The acting context's pulse. -/
def pulseActing (s : State) : State := modCtx s fun c => { c with silence := 0 }

end Sys2Proof.Machine
end

