-- ==== Sys2Proof/Machine/MathLib.lean ====
section
/-!
DEFINITION. Math-library version 1 (R58, R59). Algebraic functions are computed exactly. A transcendental function is
enclosed between two whole numbers of a small unit; when both ends round to the same code with the same flags, that is
the correctly rounded result, and otherwise the precision grows (log entry 28).
-/

namespace Sys2Proof.Machine

/-- The sum of term k over `w k`, with alternating signs or not, where term (k + 1) is term k times t / 2^p over `d k`. -/
def seriesFrom (p t : Nat) (d w : Nat → Nat) (alt : Bool) : Nat → Nat → Nat → Int → Int
  | 0, _, _, acc => acc
  | fuel + 1, k, term, acc =>
    if term = 0 then acc
    else
      let x : Int := (term / w k : Nat)
      seriesFrom p t d w alt fuel (k + 1) (term * t / 2 ^ p / d k) (if alt && k % 2 == 1 then acc - x else acc + x)

/-- A series in units of 2^-p from a first term of one. -/
def series (p t : Nat) (d w : Nat → Nat) (alt : Bool) : Int := seriesFrom p t d w alt (4 * p + 400) 0 (2 ^ p) 0

/-- No weight. -/
def noWeight (_ : Nat) : Nat := 1
/-- The odd weights 1, 3, 5 and so on. -/
def oddWeight (k : Nat) : Nat := 2 * k + 1

/-- Arc tangent of 1/n in units of 2^-p. -/
def atanInv (p n : Nat) : Int := series p (2 ^ p) (fun _ => n * n) oddWeight true / n

/-- pi in units of 2^-p. -/
def piUnits (p : Nat) : Nat := ((16 * atanInv (p + 16) 5 - 4 * atanInv (p + 16) 239) / 2 ^ 16).toNat

/-- The natural logarithm of 2 in units of 2^-p. -/
def ln2Units (p : Nat) : Nat :=
  -- 2 atanh(1/3)
  (2 * series (p + 16) (2 ^ (p + 16)) (fun _ => 9) oddWeight false / 3 / 2 ^ 16).toNat

/-- The exponential of r / 2^p, for r from 0 up to about 2^p, in units of 2^-p. -/
def expUnits (p r : Nat) : Int := series p r (fun k => k + 1) noWeight false

/-- The whole part of m * 2^e in units of 2^-p. -/
def unitsOf (p m : Nat) (e : Int) : Nat := if 0 ≤ e + p then m * 2 ^ (e + p).toNat else m / 2 ^ (-(e + p)).toNat

/-- An enclosure of a positive magnitude: between lo * 2^x and hi * 2^x. -/
structure Enclosure where
  neg : Bool
  lo : Nat
  hi : Nat
  x : Int
  deriving DecidableEq, Repr

/-- An enclosure about a value in units of 2^x, with an error of `err` units. -/
def encloseInt (v : Int) (err : Nat) (x : Int) : Enclosure := ⟨v < 0, v.natAbs - err, v.natAbs + err, x⟩

/-- The error allowed in a series, in units. -/
def slack : Nat := 2 ^ 20

/-- exp of a value in units of 2^-p: its mantissa in units of 2^-p and its binary exponent. -/
def expParts (p : Nat) (x : Int) : Int × Int :=
  let l : Int := ln2Units p
  let k := x / l
  (expUnits p (x - k * l).toNat, k)

/-- The signed units of a finite value. -/
def signedUnitsOf (p : Nat) (neg : Bool) (m : Nat) (e : Int) : Int :=
  if neg then -(unitsOf p m e : Int) else unitsOf p m e

/-- exp. -/
def encloseExp (p : Nat) (neg : Bool) (m : Nat) (e : Int) : Enclosure :=
  let v := expParts p (signedUnitsOf p neg m e)
  encloseInt v.1 slack (v.2 - p)

/-- exp2. -/
def encloseExp2 (p : Nat) (neg : Bool) (m : Nat) (e : Int) : Enclosure :=
  let x := signedUnitsOf p neg m e
  let k := x / 2 ^ p
  let r := (x - k * 2 ^ p).toNat * ln2Units p / 2 ^ p
  encloseInt (expUnits p r) slack (k - p)

/-- The parts of a positive value about 1: its binary exponent k, and the numerator (with its sign) and the denominator
of z = (y - 1) / (y + 1), where the value is y * 2^k and y lies from 3/4 up to 3/2. -/
def logParts (m : Nat) (e : Int) : Int × Bool × Nat × Nat :=
  let l := Nat.log2 m
  let up := decide (3 * 2 ^ l ≤ 2 * m)
  let one := if up then 2 ^ (l + 1) else 2 ^ l
  (e + l + (if up then 1 else 0), m < one, if m < one then one - m else m - one, m + one)

/-- The inverse hyperbolic tangent of num/den over num/den, in units of 2^-p. -/
def atanhRatio (p num den : Nat) : Nat :=
  (series p (num * num * 2 ^ p / (den * den)) (fun _ => 1) oddWeight false).toNat

/-- log, or log2 when asked for, of a positive value that is no power of two (for log: not 1). -/
def encloseLog (p : Nat) (two : Bool) (m : Nat) (e : Int) : Enclosure :=
  let q := logParts m e
  let s := atanhRatio p q.2.2.1 q.2.2.2
  let unit := if two then ln2Units p else 2 ^ p
  if q.1 = 0 then
    -- 2 z S over ln 2 or 1, kept relative
    let v := fun (x : Nat) => 2 * q.2.2.1 * x * 2 ^ (64 + p) / (q.2.2.2 * unit)
    ⟨q.2.1, v (s - slack), v (s + slack) + 1, -(64 : Int) - p⟩
  else
    let z : Int := (2 * q.2.2.1 * s / q.2.2.2 : Nat)
    let z := if q.2.1 then -z else z
    if two then encloseInt (q.1 * 2 ^ p + z * 2 ^ p / unit) slack (-(p : Int))
    else encloseInt (q.1 * ln2Units p + z) slack (-(p : Int))

/-- The square of a value in units of 2^-p. -/
def squareUnits (p m : Nat) (e : Int) : Nat := unitsOf p (m * m) (2 * e)

/-- x * S for a ratio S in units of 2^-p. -/
def encloseTimes (p : Nat) (neg : Bool) (m : Nat) (e : Int) (s : Nat) : Enclosure :=
  ⟨neg, m * (s - slack), m * (s + slack), e - p⟩

/-- sin of r in units of 2^-p. -/
def sinUnits (p r : Nat) : Int :=
  r * series p (r * r / 2 ^ p) (fun k => (2 * k + 2) * (2 * k + 3)) noWeight true / 2 ^ p
/-- cos of r in units of 2^-p. -/
def cosUnits (p r : Nat) : Int := series p (r * r / 2 ^ p) (fun k => (2 * k + 1) * (2 * k + 2)) noWeight true

/-- The argument reduced by pi/2: the quadrant and the rest in units of 2^-p. -/
def reduceHalfPi (p m : Nat) (e : Int) : Nat × Nat :=
  let w := p + 64 + (e + Nat.log2 m).toNat
  let h := piUnits w / 2
  let x := unitsOf w m e
  (x / h % 4, x % h / 2 ^ (w - p))

/-- sin: below 1 as x times a series, above with the argument reduced. -/
def encloseSin (p : Nat) (neg : Bool) (m : Nat) (e : Int) : Enclosure :=
  if e + Nat.log2 m < 0 then
    encloseTimes p neg m e (series p (squareUnits p m e) (fun k => (2 * k + 2) * (2 * k + 3)) noWeight true).toNat
  else
    let q := reduceHalfPi p m e
    let v := if q.1 % 2 = 0 then sinUnits p q.2 else cosUnits p q.2
    encloseInt (if (q.1 ≥ 2) != neg then -v else v) slack (-(p : Int))

/-- cos. -/
def encloseCos (p m : Nat) (e : Int) : Enclosure :=
  let q := reduceHalfPi p m e
  let v := if q.1 % 2 = 0 then cosUnits p q.2 else sinUnits p q.2
  encloseInt (if q.1 = 1 ∨ q.1 = 2 then -v else v) slack (-(p : Int))

/-- tanh: below 1 as x times the ratio of two series, above by exp(-2x). -/
def encloseTanh (p : Nat) (neg : Bool) (m : Nat) (e : Int) : Enclosure :=
  if e + Nat.log2 m < 0 then
    let t := squareUnits p m e
    let s := series p t (fun k => (2 * k + 2) * (2 * k + 3)) noWeight false
    let c := series p t (fun k => (2 * k + 1) * (2 * k + 2)) noWeight false
    encloseTimes p neg m e (s * 2 ^ p / c).toNat
  else if 64 ≤ unitsOf 0 m e then ⟨neg, 2 ^ p - 2 ^ (p - 160), 2 ^ p - 1, -(p : Int)⟩
  else
    let v := expParts p (-(2 * (unitsOf p m e : Int)))
    let x : Int := v.1 / 2 ^ (-v.2).toNat
    encloseInt ((if neg then -1 else 1) * ((2 ^ p - x) * 2 ^ p / (2 ^ p + x))) slack (-(p : Int))

/-- erf: below 6 as x times a series, above next to 1. -/
def encloseErf (p : Nat) (neg : Bool) (m : Nat) (e : Int) : Enclosure :=
  if 6 ≤ unitsOf 0 m e then ⟨neg, 2 ^ p - 2 ^ (p - 55), 2 ^ p - 1, -(p : Int)⟩
  else
    let w := p + 96
    let s := (series w (squareUnits w m e) (fun k => k + 1) oddWeight true / 2 ^ 96).toNat
    let c := isqrt (2 ^ (2 * p + 2 + p) / piUnits p)
    encloseTimes p neg m e (s * c / 2 ^ p)

/-- The precisions tried. -/
def precisions : List Nat := [192, 384, 768, 1536, 3072]

/-- The correctly rounded result of an enclosed value that is no code of the format. -/
def roundEnclosed (f : FloatFmt) (enc : Nat → Enclosure) : List Nat → Nat × Flags
  | [] => (0, 0)
  | p :: r =>
    let x := enc p
    let a := roundFloat f nearestEven 0 x.neg x.lo x.x true
    let b := roundFloat f nearestEven 0 x.neg x.hi x.x true
    if a = b ∨ r = [] then b else roundEnclosed f enc r

/-- A whole value, when the magnitude m * 2^e is one below 2^12. -/
def wholeOf (m : Nat) (e : Int) : Option Nat :=
  if 12 ≤ e + Nat.log2 m then none
  else if 0 ≤ e then some (m * 2 ^ e.toNat)
  else if m % 2 ^ (-e).toNat = 0 then some (m / 2 ^ (-e).toNat) else none

/-- exp and exp2 of a non-zero finite value. -/
def expResult (f : FloatFmt) (two neg : Bool) (m : Nat) (e : Int) : Nat × Flags :=
  if 12 ≤ e + Nat.log2 m then roundFloat f nearestEven 0 false 1 (if neg then -8192 else 8192) false
  else
    match two, wholeOf m e with
    | true, some n => roundFloat f nearestEven 0 false 1 (if neg then -(n : Int) else n) false
    | _, _ => roundEnclosed f (fun p => if two then encloseExp2 p neg m e else encloseExp p neg m e) precisions

/-- log and log2 of a positive finite value. -/
def logResult (f : FloatFmt) (two : Bool) (m : Nat) (e : Int) : Nat × Flags :=
  let q := logParts m e
  if q.2.2.1 = 0 ∧ (two ∨ q.1 = 0) then roundFloat f nearestEven 0 (q.1 < 0) q.1.natAbs 0 false
  else roundEnclosed f (fun p => encloseLog p two m e) precisions

/-- The reciprocal square root of a positive value, exactly rounded. -/
def rsqrtResult (f : FloatFmt) (m : Nat) (e : Int) : Nat × Flags :=
  let m' := if e % 2 = 0 then m else 2 * m
  let e' := if e % 2 = 0 then e else e - 1
  let k := guardBits + Nat.log2 m'
  let r := isqrt (2 ^ (2 * k) / m')
  roundFloat f nearestEven 0 false r (-(e' / 2) - k) (r * r * m' != 2 ^ (2 * k))

/-- R59: function `fn` of a non-zero finite operand. -/
def mathFinite (f : FloatFmt) (fn : Nat) (neg : Bool) (m : Nat) (e : Int) : Nat × Flags :=
  match fn with
  | 0 => expResult f false neg m e
  | 1 => expResult f true neg m e
  | 2 => if neg then nanResult f true else logResult f false m e
  | 3 => if neg then nanResult f true else logResult f true m e
  | 4 => roundEnclosed f (fun p => encloseSin p neg m e) precisions
  | 5 => roundEnclosed f (fun p => encloseCos p m e) precisions
  | 6 => roundEnclosed f (fun p => encloseTanh p neg m e) precisions
  | 7 => roundEnclosed f (fun p => encloseErf p neg m e) precisions
  | 8 => divRound f nearestEven 0 (.fin false 1 0) (.fin neg m e)
  | 9 => if neg then nanResult f true else rsqrtResult f m e
  | _ => sqrtRound f nearestEven 0 (.fin neg m e)

/-- R59: function `fn` of a zero. -/
def mathZero (f : FloatFmt) (fn : Nat) (neg : Bool) : Nat × Flags :=
  let one := f.bias * 2 ^ f.fbits
  match fn with
  | 0 | 1 | 5 => (one, 0)
  | 2 | 3 => (signCode f true + infCode f, flDivzero)
  | 8 | 9 => (signCode f neg + infCode f, flDivzero)
  | _ => (signCode f neg, 0)

/-- R59: function `fn` of an infinity. -/
def mathInf (f : FloatFmt) (fn : Nat) (neg : Bool) : Nat × Flags :=
  let one := f.bias * 2 ^ f.fbits
  match fn with
  | 0 | 1 => if neg then (0, 0) else (infCode f, 0)
  | 2 | 3 | 10 => if neg then nanResult f true else (infCode f, 0)
  | 4 | 5 => nanResult f true
  | 6 | 7 => (signCode f neg + one, 0)
  | 8 => (signCode f neg, 0)
  | _ => if neg then nanResult f true else (0, 0)

/-- R59: function `fn` of a value, correctly rounded to nearest-even. -/
def mathFun (f : FloatFmt) (fn : Nat) : FVal → Nat × Flags
  | .nan s => nanResult f s
  | .inf neg => mathInf f fn neg
  | .fin neg m e => if m = 0 then mathZero f fn neg else mathFinite f fn neg m e

end Sys2Proof.Machine
end

