-- ==== Sys2Proof/Machine/Scalar.lean ====
section
/-!
DEFINITION. The meanings of the scalar operations (R111 to R118).
-/

namespace Sys2Proof.Machine

/-- R111: the width of an integer operation. -/
def scalarWidth (w : BitVec 3) : Nat := if w = 1 then 32 else 64

/-- R111: a w-bit result as written: zero-extended or sign-extended to 64 bits. -/
def extendTo64 (signed : Bool) (w x : Nat) : BitVec 64 := if signed then BitVec.ofInt 64 (signedOf w x) else BitVec.ofNat 64 (x % 2 ^ w)

/-- R111: a three-register integer operation on w-bit codes. -/
def alu3 (g : BitVec 5) (d a b : BitVec 6) (w : BitVec 3) (signed : Bool) (f : Nat → Nat → Nat → Nat × Flags) (s : State) :
    Out :=
  guarded g s fun _ =>
    let n := scalarWidth w
    let x := f n ((getS s a).toNat % 2 ^ n) ((getS s b).toNat % 2 ^ n)
    .next (raise (setS s d (extendTo64 signed n x.1)) x.2)

/-- A result without flags. -/
def noFlags (f : Nat → Nat → Nat → Nat) (n a b : Nat) : Nat × Flags := (f n a b, 0)

/-- R111: the upper half of a product. -/
def mulHigh (signed : Bool) (w a b : Nat) : Nat := wrapN w (intVal signed w a * intVal signed w b / (2 ^ w : Nat))
/-- R111: arithmetic right shift. -/
def sarCode (w a b : Nat) : Nat := wrapN w (signedOf w a / (2 ^ (b % w) : Nat))
/-- R111: rotation left. -/
def rotlCode (w a b : Nat) : Nat := (a * 2 ^ (b % w) + a / 2 ^ (w - b % w)) % 2 ^ w
/-- R111: minimum or maximum. -/
def minMaxCodeInt (signed max : Bool) (w a b : Nat) : Nat :=
  if (intVal signed w a < intVal signed w b) == max then b else a
/-- R113: leading zeros of a w-bit value. -/
def clzCode (w a : Nat) : Nat := if a = 0 then w else w - 1 - Nat.log2 a
/-- R113: trailing zeros of a w-bit value, looked for from bit i on. -/
def ctzFrom (w a : Nat) : Nat → Nat
  | 0 => w
  | n + 1 => if bitOf a (w - (n + 1)) then w - (n + 1) else ctzFrom w a n
/-- R113: one bits of a w-bit value. -/
def popcCode (w a : Nat) : Nat := ((List.range w).filter (bitOf a)).length

/-- R111: `add`. -/
def execAdd (g : BitVec 5) (d a b : BitVec 6) (w : BitVec 3) (s : State) : Out :=
  alu3 g d a b w true (noFlags fun n x y => (x + y) % 2 ^ n) s
/-- R112: `addi`. -/
def execAddi (g : BitVec 5) (d a : BitVec 6) (i : BitVec 9) (s : State) : Out :=
  guarded g s fun _ => .next (setS s d (getS s a + i.signExtend 64))
/-- R111: `sub`. -/
def execSub (g : BitVec 5) (d a b : BitVec 6) (w : BitVec 3) (s : State) : Out :=
  alu3 g d a b w true (noFlags fun n x y => (x + 2 ^ n - y) % 2 ^ n) s
/-- R111: `mul`. -/
def execMul (g : BitVec 5) (d a b : BitVec 6) (w : BitVec 3) (s : State) : Out :=
  alu3 g d a b w true (noFlags fun n x y => x * y % 2 ^ n) s
/-- R111: `mulh`. -/
def execMulh (g : BitVec 5) (d a b : BitVec 6) (w : BitVec 3) (s : State) : Out :=
  alu3 g d a b w true (noFlags (mulHigh true)) s
/-- R111: `mulhn`. -/
def execMulhn (g : BitVec 5) (d a b : BitVec 6) (w : BitVec 3) (s : State) : Out :=
  alu3 g d a b w false (noFlags (mulHigh false)) s
/-- R111, R57: `div`. -/
def execDiv (g : BitVec 5) (d a b : BitVec 6) (w : BitVec 3) (s : State) : Out := alu3 g d a b w true (divCode true) s
/-- R111, R57: `divn`. -/
def execDivn (g : BitVec 5) (d a b : BitVec 6) (w : BitVec 3) (s : State) : Out := alu3 g d a b w false (divCode false) s
/-- R111, R57: `rem`. -/
def execRem (g : BitVec 5) (d a b : BitVec 6) (w : BitVec 3) (s : State) : Out := alu3 g d a b w true (remCode true) s
/-- R111, R57: `remn`. -/
def execRemn (g : BitVec 5) (d a b : BitVec 6) (w : BitVec 3) (s : State) : Out := alu3 g d a b w false (remCode false) s
/-- R111: `and`. -/
def execAnd (g : BitVec 5) (d a b : BitVec 6) (w : BitVec 3) (s : State) : Out :=
  alu3 g d a b w true (noFlags fun _ x y => x &&& y) s
/-- R111: `or`. -/
def execOr (g : BitVec 5) (d a b : BitVec 6) (w : BitVec 3) (s : State) : Out :=
  alu3 g d a b w true (noFlags fun _ x y => x ||| y) s
/-- R111: `xor`. -/
def execXor (g : BitVec 5) (d a b : BitVec 6) (w : BitVec 3) (s : State) : Out :=
  alu3 g d a b w true (noFlags fun _ x y => x ^^^ y) s
/-- R111: `andn`. -/
def execAndn (g : BitVec 5) (d a b : BitVec 6) (w : BitVec 3) (s : State) : Out :=
  alu3 g d a b w true (noFlags fun n x y => x &&& (2 ^ n - 1 - y)) s
/-- R111, R57: `shl`. -/
def execShl (g : BitVec 5) (d a b : BitVec 6) (w : BitVec 3) (s : State) : Out :=
  alu3 g d a b w true (noFlags fun n x y => x * 2 ^ (y % n) % 2 ^ n) s
/-- R111, R57: `shr`. -/
def execShr (g : BitVec 5) (d a b : BitVec 6) (w : BitVec 3) (s : State) : Out :=
  alu3 g d a b w false (noFlags fun n x y => x / 2 ^ (y % n)) s
/-- R111, R57: `sar`. -/
def execSar (g : BitVec 5) (d a b : BitVec 6) (w : BitVec 3) (s : State) : Out := alu3 g d a b w true (noFlags sarCode) s
/-- R111: `rotl`. -/
def execRotl (g : BitVec 5) (d a b : BitVec 6) (w : BitVec 3) (s : State) : Out := alu3 g d a b w true (noFlags rotlCode) s
/-- R111: `min`. -/
def execMin (g : BitVec 5) (d a b : BitVec 6) (w : BitVec 3) (s : State) : Out :=
  alu3 g d a b w true (noFlags (minMaxCodeInt true false)) s
/-- R111: `max`. -/
def execMax (g : BitVec 5) (d a b : BitVec 6) (w : BitVec 3) (s : State) : Out :=
  alu3 g d a b w true (noFlags (minMaxCodeInt true true)) s
/-- R111: `minn`. -/
def execMinn (g : BitVec 5) (d a b : BitVec 6) (w : BitVec 3) (s : State) : Out :=
  alu3 g d a b w false (noFlags (minMaxCodeInt false false)) s
/-- R111: `maxn`. -/
def execMaxn (g : BitVec 5) (d a b : BitVec 6) (w : BitVec 3) (s : State) : Out :=
  alu3 g d a b w false (noFlags (minMaxCodeInt false true)) s

/-- R113: a bit count of the w-bit operand. -/
def countBits (g : BitVec 5) (d a : BitVec 6) (w : BitVec 3) (f : Nat → Nat → Nat) (s : State) : Out :=
  guarded g s fun _ =>
    let n := scalarWidth w
    .next (setS s d (BitVec.ofNat 64 (f n ((getS s a).toNat % 2 ^ n))))

/-- R113: `clz`. -/
def execClz (g : BitVec 5) (d a : BitVec 6) (w : BitVec 3) (s : State) : Out := countBits g d a w clzCode s
/-- R113: `ctz`. -/
def execCtz (g : BitVec 5) (d a : BitVec 6) (w : BitVec 3) (s : State) : Out :=
  countBits g d a w (fun n x => ctzFrom n x n) s
/-- R113: `popc`. -/
def execPopc (g : BitVec 5) (d a : BitVec 6) (w : BitVec 3) (s : State) : Out := countBits g d a w popcCode s
/-- R113: `sext`: bit k copied upward. -/
def execSext (g : BitVec 5) (d a k : BitVec 6) (_w : BitVec 3) (s : State) : Out :=
  guarded g s fun _ => .next (setS s d (BitVec.ofInt 64 (signedOf (k.toNat + 1) (getS s a).toNat)))
/-- R113: `zext`. -/
def execZext (g : BitVec 5) (d a k : BitVec 6) (_w : BitVec 3) (s : State) : Out :=
  guarded g s fun _ => .next (setS s d (BitVec.ofNat 64 ((getS s a).toNat % 2 ^ (k.toNat + 1))))
/-- R114: `movi`. -/
def execMovi (g : BitVec 5) (d : BitVec 6) (i : BitVec 15) (s : State) : Out :=
  guarded g s fun _ => .next (setS s d (i.signExtend 64))
/-- R114: `movk`: (sd << 15) OR imm. -/
def execMovk (g : BitVec 5) (d : BitVec 6) (i : BitVec 15) (s : State) : Out :=
  guarded g s fun _ => .next (setS s d ((getS s d <<< 15) ||| i.zeroExtend 64))
/-- R113: `mov`. -/
def execMov (g : BitVec 5) (d a : BitVec 6) (w : BitVec 3) (s : State) : Out :=
  guarded g s fun _ => .next (setS s d (extendTo64 true (scalarWidth w) (getS s a).toNat))
/-- R115: `sel`. -/
def execSel (g : BitVec 5) (d a b : BitVec 6) (p : BitVec 3) (s : State) : Out :=
  guarded g s fun _ => .next (setS s d (if getP s p.toNat then getS s a else getS s b))

/-- R69: the integer comparisons. -/
def cmpInt (c w x y : Nat) : Bool :=
  let a := signedOf w x
  let b := signedOf w y
  let m := x % 2 ^ w
  let n := y % 2 ^ w
  match c with
  | 0 => m == n
  | 1 => m != n
  | 2 => decide (a < b)
  | 3 => decide (a ≤ b)
  | 4 => decide (b < a)
  | 5 => decide (b ≤ a)
  | 6 => decide (m < n)
  | 7 => decide (m ≤ n)
  | 8 => decide (n < m)
  | _ => decide (n ≤ m)

/-- R116: `cmp`. -/
def execCmp (g : BitVec 5) (p : BitVec 4) (a b : BitVec 6) (c : BitVec 4) (w : BitVec 1) (s : State) : Out :=
  guarded g s fun _ =>
    .next (setP s p.toNat (cmpInt c.toNat (if w = 1 then 32 else 64) (getS s a).toNat (getS s b).toNat))
/-- R116: `pand`. -/
def execPand (g : BitVec 5) (d a b : BitVec 4) (x y : BitVec 1) (s : State) : Out :=
  guarded g s fun _ => .next (setP s d.toNat ((getP s a.toNat != (x == 1)) && (getP s b.toNat != (y == 1))))
/-- R116: `por`. -/
def execPor (g : BitVec 5) (d a b : BitVec 4) (x y : BitVec 1) (s : State) : Out :=
  guarded g s fun _ => .next (setP s d.toNat ((getP s a.toNat != (x == 1)) || (getP s b.toNat != (y == 1))))
/-- R116: `pnot`. -/
def execPnot (g : BitVec 5) (d a : BitVec 4) (s : State) : Out :=
  guarded g s fun _ => .next (setP s d.toNat (!getP s a.toNat))
/-- R116: `s2p`. -/
def execS2p (g : BitVec 5) (p : BitVec 4) (a : BitVec 6) (s : State) : Out :=
  guarded g s fun _ => .next (setP s p.toNat (getS s a != 0))
/-- R116: `p2s`. -/
def execP2s (g : BitVec 5) (d : BitVec 6) (p : BitVec 4) (s : State) : Out :=
  guarded g s fun _ => .next (setS s d (if getP s p.toNat then 1 else 0))

/-- R117: `rdsr`. -/
def execRdsr (g : BitVec 5) (d : BitVec 6) (r : BitVec 8) (s : State) : Out :=
  guarded g s fun _ => .next (setS s d (readSpecial s r))
/-- R117, R20: `wrsr`; a rounding mode of 6 or 7 is the illegal-bundle trap of a value out of range. -/
def execWrsr (g : BitVec 5) (a : BitVec 6) (r : BitVec 8) (s : State) : Out :=
  guarded g s fun _ =>
    if r = 0x0A ∧ 6 ≤ (getS s a).toNat % 8 then trapOut s 0x01 1 (0x10 + 2 ^ 8 * r.toNat + 2 ^ 16 * 2) (getS s a)
    else .next (writeSpecial s r (getS s a))

/-- R118: the format that w selects. -/
def scalarFmt (w : Nat) : FloatFmt := if w = 1 then f32 else f64
/-- R118: a scalar floating operand. -/
def scalarVal (w : Nat) (x : BitVec 64) : FVal := decodeFloat (scalarFmt w) (x.toNat % 2 ^ (scalarFmt w).width)

/-- R118: a floating result and its flags written. -/
def setFloat (s : State) (d : BitVec 6) (x : Nat × Flags) : Out := .next (raise (setS s d (BitVec.ofNat 64 x.1)) x.2)

/-- R118, R52: `sfadd`. -/
def execSfadd (g : BitVec 5) (d a b : BitVec 6) (w : BitVec 3) (s : State) : Out :=
  guarded g s fun _ =>
    setFloat s d (addRound (scalarFmt w.toNat) (rounding s) 0 (scalarVal w.toNat (getS s a)) (scalarVal w.toNat (getS s b)))
/-- R118, R52: `sfmul`. -/
def execSfmul (g : BitVec 5) (d a b : BitVec 6) (w : BitVec 3) (s : State) : Out :=
  guarded g s fun _ =>
    setFloat s d (mulRound (scalarFmt w.toNat) (rounding s) 0 (scalarVal w.toNat (getS s a)) (scalarVal w.toNat (getS s b)))
/-- R118, R52: `sffma`: sa * sb + sd with one rounding. -/
def execSffma (g : BitVec 5) (d a b : BitVec 6) (w : BitVec 3) (s : State) : Out :=
  guarded g s fun _ =>
    setFloat s d (fmaRound (scalarFmt w.toNat) (rounding s) 0 (scalarVal w.toNat (getS s a)) (scalarVal w.toNat (getS s b))
      (scalarVal w.toNat (getS s d)))
/-- R118, R52, R69: `sfcmp`; invalid for a signalling NaN. -/
def execSfcmp (g : BitVec 5) (p : BitVec 4) (a b : BitVec 6) (c : BitVec 4) (w : BitVec 1) (s : State) : Out :=
  guarded g s fun _ =>
    let x := scalarVal w.toNat (getS s a)
    let y := scalarVal w.toNat (getS s b)
    .next (raise (setP s p.toNat (cmpFloat c.toNat x y)) (flIf (x.isSig || y.isSig) flInvalid))
/-- R118, R48 to R50: `sfcvt`; an `.i32` result is sign-extended. -/
def execSfcvt (g : BitVec 5) (d a : BitVec 6) (t r : BitVec 4) (s : State) : Out :=
  guarded g s fun _ =>
    let x := convCode t.toNat (rounding s) 0 (elemVal r.toNat ((getS s a).toNat % 2 ^ elemBits r.toNat))
    .next (raise (setS s d (extendTo64 (t == 0xC) (elemBits t.toNat) x.1)) x.2)
/-- R118, R58, R59: `sfxf`; a code that version 1 does not define is the illegal-bundle trap "math version". -/
def execSfxf (g : BitVec 5) (d a : BitVec 6) (f : BitVec 4) (w : BitVec 1) (s : State) : Out :=
  guarded g s fun _ =>
    if 0xB ≤ f.toNat then trapIllegal s 1 0x0A f.toNat
    else setFloat s d (mathFun (scalarFmt w.toNat) f.toNat (scalarVal w.toNat (getS s a)))

end Sys2Proof.Machine
end

