-- ==== Sys2Proof/Machine/VecOps.lean ====
section
/-!
DEFINITION. Shared operations of the vector slot: lanes under masks (R125 to R127), lane-wise operations, conversions of
packed lanes (R135), reductions and scans (R55, R56, R144), histograms and quantisation (R147 to R152).
-/

namespace Sys2Proof.Machine

/-- R125: the lane width of a floating type. -/
def floatLane (ty : Nat) : Nat := [64, 32, 16, 16].getD ty 64
/-- R125: the format of a floating type. -/
def laneFmt (ty : Nat) : FloatFmt := (floatFmt ty).getD f64
/-- R125: the lane width of an integer type. -/
def intLane (ty : Nat) : Nat := [64, 32, 8].getD ty 64
/-- R125: the lane width of the width class. -/
def widthLane (ty : Nat) : Nat := [64, 32, 16, 8].getD ty 64

/-- R126: lane i of w bits takes part. -/
def laneOn (s : State) (mk : BitVec 1) (w i : Nat) : Bool :=
  mk == 0 || bitOf ((regs s).m[0]).toNat (if 32 ≤ w then i else i * w / 32)

/-- The flags of lanes ORed. -/
def orFlags (l : List Flags) : Flags := l.foldl (· ||| ·) 0

/-- R127: each active lane takes its result, each inactive lane keeps its value, and the flags are ORed. -/
def vecMap (s : State) (d : BitVec 6) (w : Nat) (mk : BitVec 1) (f : Nat → Nat → Nat → Nat → Nat × Flags) (a b : V2048) :
    Out :=
  let old := vLanes w (getV s d)
  let rows := (old.zip ((vLanes w a).zip (vLanes w b))).zipIdx
  let out := rows.map fun r =>
    if laneOn s mk w r.2 then f r.2 r.1.1 r.1.2.1 r.1.2.2 else (r.1.1, 0)
  .next (raise (setV s d (vPack w (out.map (·.1)))) (orFlags (out.map (·.2))))

/-- A floating lane operation of two sources. -/
def vecFloat (g : BitVec 5) (d a b : BitVec 6) (t : BitVec 2) (mk : BitVec 1)
    (f : FloatFmt → Rounding → Nat → FVal → FVal → FVal → Nat × Flags) (s : State) : Out :=
  guarded g s fun _ =>
    let m := laneFmt t.toNat
    let r := rounding s
    vecMap s d (floatLane t.toNat) mk
      (fun i z x y => f m r i (decodeFloat m x) (decodeFloat m y) (decodeFloat m z)) (getV s a) (getV s b)

/-- A floating lane operation on codes. -/
def vecCodes (g : BitVec 5) (d a b : BitVec 6) (t : BitVec 2) (mk : BitVec 1) (f : FloatFmt → Nat → Nat → Nat × Flags)
    (s : State) : Out :=
  guarded g s fun _ =>
    vecMap s d (floatLane t.toNat) mk (fun _ _ x y => f (laneFmt t.toNat) x y) (getV s a) (getV s b)

/-- An integer lane operation (R136). -/
def vecInt (g : BitVec 5) (d a b : BitVec 6) (w : Nat) (mk : BitVec 1) (f : Nat → Nat → Nat → Nat) (s : State) : Out :=
  guarded g s fun _ => vecMap s d w mk (fun _ _ x y => (f w x y, 0)) (getV s a) (getV s b)

/-- R131: a value rounded to an integral one in its format. -/
def roundIntegral (f : FloatFmt) (r : Rounding) (ix x : Nat) : Nat × Flags :=
  match decodeFloat f x with
  | .nan sig => nanResult f sig
  | .inf _ => (x, 0)
  | .fin neg m e =>
    let n := roundWhole r ix neg m e
    if n.2 then ((roundFloat f nearestEven 0 neg n.1 0 false).1, flInexact) else (x, 0)

/-- R133: one lane's comparison: the bit and the flags. -/
def cmpLane (t c x y : Nat) : Bool × Flags :=
  if t < 2 then
    let f := if t = 0 then f64 else f32
    let a := decodeFloat f x
    let b := decodeFloat f y
    (cmpFloat c a b, flIf (a.isSig || b.isSig) flInvalid)
  else (cmpInt c (if t = 2 then 64 else 32) x y, 0)

/-- Bits as a number, bit 0 first. -/
def packBits (l : List Bool) : Nat := packLanes 1 (l.map b2n)

/-! ## Conversions of packed lanes (R135) -/

/-- R135: `vcvt` of a whole register. -/
def convertLanes (s : State) (d a : BitVec 6) (t c : Nat) (mk : BitVec 1) : Out :=
  let wt := elemBits t
  let ws := elemBits c
  let w := Nat.max wt ws
  let n := 2048 / w
  let old := lanesOf wt n (getV s d).toNat
  let out := (old.zip (lanesOf ws n (getV s a).toNat)).zipIdx.map fun r =>
    if laneOn s mk w r.2 then convCode t (rounding s) r.2 (elemVal c r.1.2) else (r.1.1, 0)
  .next (raise (setV s d (vPack wt (out.map (·.1)))) (orFlags (out.map (·.2))))

/-! ## Reductions and scans (R55, R56, R144) -/

/-- R144: the combination of function fn on codes of a type, with an element index. -/
def combine (fn ty : Nat) (r : Rounding) (ix x y : Nat) : Nat × Flags :=
  let f := if ty = 0 then f64 else f32
  let w := if ty = 0 then 64 else 32
  match fn with
  | 0 => addRound f r ix (decodeFloat f x) (decodeFloat f y)
  | 1 => mulRound f r ix (decodeFloat f x) (decodeFloat f y)
  | 2 => minMaxCode f false x y
  | 3 => minMaxCode f true x y
  | 4 => ((x + y) % 2 ^ w, 0)
  | 5 => (minMaxCodeInt true false w x y, 0)
  | 6 => (minMaxCodeInt true true w x y, 0)
  | 7 => (minMaxCodeInt false false w x y, 0)
  | 8 => (minMaxCodeInt false true w x y, 0)
  | 9 => (x &&& y, 0)
  | 10 => (x ||| y, 0)
  | _ => (x ^^^ y, 0)

/-- R144: the identity of an inactive lane. -/
def identity (fn ty : Nat) : Nat :=
  let f := if ty = 0 then f64 else f32
  let w := if ty = 0 then 64 else 32
  match fn with
  | 0 => signCode f true
  | 1 => f.bias * 2 ^ f.fbits
  | 2 => infCode f
  | 3 => signCode f true + infCode f
  | 5 => 2 ^ (w - 1) - 1
  | 6 => 2 ^ (w - 1)
  | 7 | 9 => 2 ^ w - 1
  | _ => 0

/-- R55: one level of the tree, positions from j on. -/
def treeLevel (f : Nat → Nat → Nat → Nat × Flags) : Nat → List Nat → List (Nat × Flags)
  | j, x :: y :: r => f j x y :: treeLevel f (j + 1) r
  | _, [x] => [(x, 0)]
  | _, [] => []

/-- R55: the tree from level L on, the element index of level L and position j being 64 (L - 1) + j (R145). -/
def treeReduce (f : Nat → Nat → Nat → Nat × Flags) : Nat → Nat → List Nat → Nat × Flags
  | 0, _, l => (l.headD 0, 0)
  | fuel + 1, level, l =>
    match l with
    | [] => (0, 0)
    | [x] => (x, 0)
    | l =>
      let n := treeLevel (fun j => f (64 * (level - 1) + j)) 0 l
      let r := treeReduce f fuel (level + 1) (n.map (·.1))
      (r.1, r.2 ||| orFlags (n.map (·.2)))

/-- R56: one step of the scan. -/
def scanStep (f : Nat → Nat → Nat → Nat × Flags) (step : Nat) (l : List Nat) : List (Nat × Flags) :=
  let k := 2 ^ step
  let left := List.replicate k 0 ++ l
  (l.zip left).zipIdx.map fun r => if r.2 < k then (r.1.1, 0) else f (64 * step + r.2) r.1.2 r.1.1

/-- R56: the steps of the scan from `step` on. -/
def scanSteps (f : Nat → Nat → Nat → Nat × Flags) : Nat → Nat → List Nat → List Nat × Flags
  | 0, _, l => (l, 0)
  | n + 1, step, l =>
    let x := scanStep f step l
    let r := scanSteps f n (step + 1) (x.map (·.1))
    (r.1, r.2 ||| orFlags (x.map (·.2)))

/-- R55, R56: the lanes that enter, masked-off ones as identities. -/
def enterLanes (s : State) (a : BitVec 6) (fn ty : Nat) (mk : BitVec 1) : List Nat :=
  let w := if ty = 0 then 64 else 32
  (vLanes w (getV s a)).zipIdx.map fun r => if laneOn s mk w r.2 then r.1 else identity fn ty

/-! ## Lane moves -/

/-- R142: the lanes whose mask bit is set, then zeros. -/
def compressLanes (on : List Bool) (l : List Nat) : List Nat :=
  let x := ((l.zip on).filter (·.2)).map (·.1)
  x ++ List.replicate (l.length - x.length) 0

/-- R142: the lanes in turn at the set mask bits. -/
def expandLanes : List Bool → List Nat → List Nat
  | [], _ => []
  | true :: m, x :: r => x :: expandLanes m r
  | true :: m, [] => 0 :: expandLanes m []
  | false :: m, l => 0 :: expandLanes m l

/-- Two lists taken in turn. -/
def interleave : List Nat → List Nat → List Nat
  | x :: a, y :: b => x :: y :: interleave a b
  | _, _ => []

/-- Every second element, from the first. -/
def evens : List Nat → List Nat
  | x :: _ :: r => x :: evens r
  | [x] => [x]
  | [] => []

/-! ## Histograms (R147, R148) -/

/-- R147: the bin of a lane. -/
def histBin (ty x : Nat) : Nat := if ty = 1 then fieldOf x 23 8 / 4 else fieldOf x 52 11 / 32

/-- R148: the least bin at which the running sum reaches n. -/
def clipBin (n : Nat) : Nat → Nat → List Nat → Option Nat
  | _, _, [] => none
  | j, sum, x :: r => if n ≤ sum + x then some j else clipBin n (j + 1) (sum + x) r

/-! ## Quantisation (R149 to R152) -/

/-- R150: emax of a target. -/
def quantEmax (t : Nat) : Int :=
  match t with
  | 4 => 15
  | 5 => 8
  | 6 => 4
  | 9 => 6
  | _ => if t = 0xA then 2 else 2

/-- The floor of the binary logarithm of a non-zero magnitude. -/
def floorLog2 (m : Nat) (e : Int) : Int := e + Nat.log2 m

/-- A value is a NaN or an infinity. -/
def FVal.isSpecial : FVal → Bool
  | .fin .. => false
  | _ => true

/-- The greater magnitude of finite values; the first on equal magnitudes. -/
def biggest : List (FVal × Nat) → Option (FVal × Nat)
  | [] => none
  | x :: r =>
    match x.1, biggest r with
    | .fin _ m e, some (.fin n k x2, i) => if (FVal.fin false m e).lt (.fin false k x2) then some (.fin n k x2, i) else some x
    | _, some y => some y
    | _, none => some x

/-- R150, R151: the scale code for a magnitude and an offset. -/
def scaleCodeFor (v : FVal) (emax : Int) : Nat :=
  match v with
  | .fin _ m e => if m = 0 then 127 else (clampInt 0 254 (floorLog2 m e - emax + 127)).1.toNat
  | _ => 127

/-- A value divided by the scale of a code. -/
def unscale (v : FVal) (code : Nat) : FVal :=
  match v with
  | .fin n m e => .fin n m (e - ((code : Int) - 127))
  | v => v

/-- The magnitude of a value. -/
def FVal.abs : FVal → FVal
  | .fin _ m e => .fin false m e
  | v => v

/-- R150: a block quantised: its scale code, its elements and the flags; `base` is the first lane's index. -/
def quantBlock (t : Nat) (r : Rounding) (base : Nat) (x : List FVal) : Nat × List Nat × Flags :=
  if x.any FVal.isSpecial then (255, List.replicate x.length 0, flFormat)
  else
    let big := (biggest (x.zipIdx.map fun p => (p.1.abs, p.2))).elim (.fin false 0 0) (·.1)
    let code := scaleCodeFor big (quantEmax t)
    let el := x.zipIdx.map fun p => convCode t r (base + p.2) (unscale p.1 code)
    (code, el.map (·.1), orFlags (el.map (·.2)))

/-- R151: a value rounded to a whole number, and whether it had a fraction. -/
def roundedInt (r : Rounding) (ix : Nat) (v : FVal) : Int × Bool :=
  match v with
  | .fin neg m e =>
    let n := roundWhole r ix neg m e
    (if neg then -(n.1 : Int) else n.1, n.2)
  | _ => (0, false)

/-- The partner of a lane in its pair (R43). -/
def pairOf (i : Nat) : Nat := if i % 2 = 0 then i + 1 else i - 1

/-- R151: the outliers of a block, from its two greatest lanes. The rounding of the test raises no flag of its own (log entry 131). -/
def oxOutliers (r : Rounding) (ix : Nat → Nat) (x : List FVal) (code : Nat) (big : List Nat) : List Nat :=
  big.foldl (fun o c =>
    let n := (roundedInt r (ix c) (unscale (x.getD c (.fin false 0 0)) code)).1
    if 7 < n.natAbs ∧ !o.contains (pairOf c) then o ++ [c] else o) []

/-- R151: the E4M3 code of an outlier, an odd one kept from a low nibble of 8. -/
def oxCode (r : Rounding) (ix : Nat → Nat) (c : Nat) (v : FVal) : Nat × Flags :=
  let e := convCode 5 r (ix c) v
  if c % 2 = 1 ∧ e.1 % 16 = 8 then (e.1 - 1, e.2 ||| flInexact) else e

/-- R151: the code of a lane of a block, with flags. -/
def oxLane (r : Rounding) (ix : Nat → Nat) (x : List FVal) (code : Nat) (outs : List Nat) (k : Nat) : Nat × Flags :=
  let v := unscale (x.getD k (.fin false 0 0)) code
  if outs.contains k then (8, 0)
  else if outs.contains (pairOf k) then
    let e := oxCode r ix (pairOf k) (unscale (x.getD (pairOf k) (.fin false 0 0)) code)
    (e.1 % 16, e.2 ||| flIf (match v with | .fin _ m _ => m != 0 | _ => false) flInexact)
  else
    let n := roundedInt r (ix k) v
    let c := clampInt (-7) 7 n.1
    (wrapN 4 c.1, c.2 ||| flIf n.2 flInexact)

/-- R151: the three greatest lanes of a block, greatest first, lower lane first on equal magnitudes. -/
def greatestLanes : Nat → List (FVal × Nat) → List (FVal × Nat)
  | 0, _ => []
  | n + 1, l =>
    match biggest l with
    | none => []
    | some x => x :: greatestLanes n (l.filter fun y => y.2 != x.2)

/-- R151: an OX4 block of 32 values, each with its element index: its 18 bytes and the flags. -/
def quantOx4At (r : Rounding) (ix : Nat → Nat) (x : List FVal) : List Byte × Flags :=
  if x.any FVal.isSpecial then (bytesOfNat 18 0xFF, flFormat)
  else
    let g := greatestLanes 3 (x.zipIdx.map fun p => (p.1.abs, p.2))
    let code := scaleCodeFor ((g[2]?).elim (.fin false 0 0) (·.1)) 2
    let outs := oxOutliers r ix x code ((g.take 2).map (·.2))
    let el := (List.range 32).map (oxLane r ix x code outs)
    let asc := (List.range 32).filter outs.contains
    let hi := asc.map fun c => (oxCode r ix c (unscale (x.getD c (.fin false 0 0)) code)).1 / 16
    (bytesOfNat 18 (code + hi.headD 0 * 2 ^ 8 + (hi.drop 1).headD 0 * 2 ^ 12 + packLanes 4 (el.map (·.1)) * 2 ^ 16),
      orFlags (el.map (·.2)))

/-- R151: an OX4 block of 32 values whose element indices rise from a first one. -/
def quantOx4 (r : Rounding) (base : Nat) (x : List FVal) : List Byte × Flags := quantOx4At r (base + ·) x

/-- R149: the 256 bytes of a quantised register, as a number, with the flags. -/
def quantRegister (t : Nat) (r : Rounding) (x : List FVal) : Nat × Flags :=
  if t = 0xB then
    let a := quantOx4 r 0 (x.take 32)
    let b := quantOx4 r 32 (x.drop 32)
    (natOfBytes (a.1 ++ b.1), a.2 ||| b.2)
  else
    let a := quantBlock t r 0 (x.take 32)
    let b := quantBlock t r 32 (x.drop 32)
    (packLanes (elemBits t) (a.2.1 ++ b.2.1) + a.1 * 2 ^ (8 * 240) + b.1 * 2 ^ (8 * 241), a.2.2 ||| b.2.2)

/-- R152: the 64 scaled values of a quantised register, with the flags of reading them. -/
def dequantValues (c x : Nat) : List FVal × Flags :=
  if c = 0xB then
    let a := decodeOx4 (bytesOfNat 18 x)
    let b := decodeOx4 (bytesOfNat 18 (x / 2 ^ 144))
    (a.1 ++ b.1, a.2 ||| b.2)
  else
    let v := (lanesOf (elemBits c) 64 x).zipIdx.map fun p =>
      scaleVal (elemVal c (if c = 6 ∨ c = 7 then p.1 % 64 else p.1)) (fieldOf x (8 * (240 + p.2 / 32)) 8)
    (v.map (·.1), orFlags (v.map (·.2)))

end Sys2Proof.Machine
end

