-- ==== Sys2Proof/Machine/MatrixOps.lean ====
section
/-!
DEFINITION. Shared operations of the matrix array and the accumulator banks: the layout of planes and rows (R155, R156,
R161), the pairings (R44), the stream steps (R53, R54, R163), and the bank region rule (R28, R167).
-/

namespace Sys2Proof.Machine

/-! ## Weight planes (R155, R156) -/

/-- R155: positions of a column by weight format. -/
def planePositions (fmt : Nat) : Nat := [16, 64, 256, 256, 512, 512, 512, 512, 1024, 512, 1024, 1024].getD fmt 16

/-- R41: a format that may carry block scales of its own. -/
def mayScale (fmt : Nat) : Bool := decide (4 ≤ fmt ∧ fmt ≤ 0xA)

/-- R156: stored values of a group of eight positions. -/
def perGroup (sparsity : Nat) : Nat := if sparsity = 1 then 4 else 2

/-- R155: stored values of a column. -/
def storedValues (fmt sparsity : Nat) : Nat :=
  if sparsity = 2 then planePositions fmt / 2 else planePositions fmt

/-- R35, R42: bytes of a run of n stored values, a multiple of 32 for OX4. -/
def valueBytes (fmt n : Nat) : Nat := if fmt = 0xB then n / 32 * 18 else n * elemBits fmt / 8

/-- R155: bytes of the scales of a run of n values. -/
def scaleBytes (scaled : Bool) (n : Nat) : Nat := if scaled then n / 32 else 0

/-- R155: mask bytes of a column. -/
def maskBytes (fmt sparsity : Nat) : Nat := if sparsity = 0 then 0 else planePositions fmt / 4

/-- R155: bytes of a column. -/
def columnBytes (fmt sparsity : Nat) (scaled : Bool) : Nat :=
  valueBytes fmt (storedValues fmt sparsity) + scaleBytes scaled (storedValues fmt sparsity) + maskBytes fmt sparsity

/-- R43: OX4 blocks of 18 bytes decoded, n of them. -/
def oxRun : Nat → List Byte → List FVal × Flags
  | 0, _ => ([], 0)
  | n + 1, bs =>
    let a := decodeOx4 (bs.take 18)
    let r := oxRun n (bs.drop 18)
    (a.1 ++ r.1, a.2 ||| r.2)

/-- R35, R41, R43: n values of a format from bytes, with the scales that follow them. -/
def valuesOf (fmt n : Nat) (scaled : Bool) (bs : List Byte) : List FVal × Flags :=
  if fmt = 0xB then oxRun (n / 32) bs
  else
    let at_ := valueBytes fmt n
    let v := (List.range n).map fun i =>
      let x := elemVal fmt (elemAt fmt bs i)
      if scaled then scaleVal x (bs.getD (at_ + i / 32) 0).toNat else (x, 0)
    (v.map (·.1), orFlags (v.map (·.2)))

/-- R156: one group: its weights at the set bits of its mask, in order, and whether the counts differ. -/
def placeGroup : List Bool → List FVal → List (Option FVal) × Bool
  | [], vals => ([], !vals.isEmpty)
  | true :: m, v :: vals =>
    let r := placeGroup m vals
    (some v :: r.1, r.2)
  | true :: m, [] =>
    let r := placeGroup m []
    (none :: r.1, true)
  | false :: m, vals =>
    let r := placeGroup m vals
    (none :: r.1, r.2)

/-- R156: the groups of a column, each with the next stored values. -/
def placeGroups (per : Nat) : List Byte → List FVal → List (Option FVal) × Bool
  | [], _ => ([], false)
  | m :: ms, vals =>
    let a := placeGroup (maskBits (m.zeroExtend 64) 8) (vals.take per)
    let r := placeGroups per ms (vals.drop per)
    (a.1 ++ r.1, a.2 || r.2)

/-- R155, R156: the weights of column n of a plane, a pruned position holding none, with the flags of decoding it. -/
def columnOf (p : Plane) (n : Nat) : List (Option FVal) × Flags :=
  let fmt := p.fmt.toNat
  let sp := p.sparsity.toNat
  let size := columnBytes fmt sp p.scaled
  let bs := readBytes p.bytes (n * size) size
  let v := valuesOf fmt (storedValues fmt sp) p.scaled bs
  if sp = 0 then (v.1.map some, v.2)
  else
    let g := placeGroups (perGroup sp) (bs.drop (size - maskBytes fmt sp)) v.1
    (g.1, v.2 ||| flIf g.2 flFormat)

/-- The sixteen columns of a plane. -/
def columnsOf (p : Plane) : List (List (Option FVal)) := (List.range 16).map fun n => (columnOf p n).1

/-- R157: the flags of a load. -/
def planeFlags (p : Plane) : Flags := orFlags ((List.range 16).map fun n => (columnOf p n).2)

/-! ## Pairings and activation rows (R44, R161) -/

/-- R44: the accumulator format and the products per PE per cycle of a pairing. -/
def pairing (w a : Nat) (scaled : Bool) : Option (AccFmt × Nat) :=
  let ints : AccFmt := if scaled then .f32 else .i32
  let eight := decide (4 ≤ a ∧ a ≤ 7)
  match w with
  | 0 => if a = 0 then some (.f64, 1) else none
  | 1 => if a = 1 then some (.f32, 4) else none
  | 2 => if a = 2 then some (.f32, 16) else none
  | 3 => if a = 3 then some (.f32, 16) else none
  | 4 | 5 | 6 | 7 => if eight then some (.f32, 32) else none
  | 8 => if a = 8 then some (.f32, 64) else if eight then some (.f32, 32) else none
  | 9 => if a = 9 then some (ints, 32) else none
  | 0xA =>
    if a = 9 then some (ints, 32) else if a = 0xA then some (ints, 64)
    else if a = 2 ∨ a = 3 then some (.f32, 16) else if a = 4 ∨ a = 5 then some (.f32, 32) else none
  | 0xB =>
    if a = 0xB ∨ a = 0xA then some (.f32, 64)
    else if a = 2 ∨ a = 3 then some (.f32, 16) else if a = 4 ∨ a = 5 then some (.f32, 32) else none
  | _ => none

/-- R161: K of a pairing with p products per PE per cycle. -/
def streamK (p sparsity : Nat) : Nat := if sparsity = 0 then 16 * p else 32 * p

/-- R161: row bytes of an activation row of k elements. -/
def rowBytesOf (afmt k : Nat) (scaled : Bool) : Nat := valueBytes afmt k + scaleBytes (scaled && mayScale afmt) k

/-- R161: the tiles that a stream of n rows occupies from tile t. -/
def streamTiles (t n rb : Nat) : List Nat := (List.range ((n - 1) / (8192 / rb) + 1)).map (t + ·)

/-- R161: the bytes of row m of a stream. -/
def streamRowBytes (c : CoreRec) (t rb m : Nat) : List Byte :=
  tileBytesAt c (t + m / (8192 / rb)) (m % (8192 / rb) * rb) rb

/-! ## Stream steps (R53, R54, R163) -/

/-- The code of a bank format. -/
def accCode : AccFmt → Nat
  | .f64 => 0
  | .f32 => 1
  | .i32 => 0xC

/-- The floating format of a bank. -/
def accFloat (t : AccFmt) : FloatFmt := if t = .f64 then f64 else f32

/-- R53: the exact sum of finite values, as a whole number of units 2^q. -/
def exactSum (q : Int) : List FVal → Int
  | [] => 0
  | .fin neg m e :: r => signedUnits neg m e q + exactSum q r
  | _ :: r => exactSum q r

/-- The least exponent among finite values, from a start. -/
def leastExp : Int → List FVal → Int
  | q, [] => q
  | q, .fin _ _ e :: r => leastExp (min q e) r
  | q, _ :: r => leastExp q r

/-- A negative zero. -/
def FVal.isNegZero : FVal → Bool
  | .fin true 0 _ => true
  | _ => false

/-- R53: `step_narrow` on the accumulator and the products, with invalid when a product raised it. -/
def stepNarrow (bad : Bool) (vs : List FVal) : Nat × Flags :=
  let pos := vs.any fun v => v == .inf false
  let neg := vs.any fun v => v == .inf true
  if vs.any FVal.isNan || (pos && neg) then (nanCode f32, flIf (bad || (pos && neg)) flInvalid)
  else if pos then (infCode f32, 0)
  else if neg then (signCode f32 true + infCode f32, 0)
  else
    let q := leastExp 0 vs
    roundInt f32 nearestEven 0 (exactSum q vs) q (vs.all FVal.isNegZero)

/-- R53: a narrow step into an FP32 element. -/
def narrowFloat (acc : Nat) (a : List FVal) (w : List (Option FVal)) : Nat × Flags :=
  let prods := (a.zip w).filterMap fun p => p.2.map fun x => mulExact p.1 x
  let x := decodeFloat f32 acc
  stepNarrow (x.isSig || prods.any (·.2)) (x :: prods.map (·.1))

/-- R53: a narrow step into an int32 element. -/
def narrowInt (acc : Nat) (a : List FVal) (w : List (Option FVal)) : Nat × Flags :=
  let prods := (a.zip w).filterMap fun p => p.2.map fun x => (mulExact p.1 x).1
  let r := sat32 (signedOf 32 acc + exactSum 0 prods)
  (r.1.toNat, r.2)

/-- R54: a wide step, one product at a time. -/
def stepWide (f : FloatFmt) (acc : Nat) : List FVal → List (Option FVal) → Nat × Flags
  | a :: as, some w :: ws =>
    let x := fmaRound f nearestEven 0 a w (decodeFloat f acc)
    let r := stepWide f x.1 as ws
    (r.1, x.2 ||| r.2)
  | _ :: as, none :: ws => stepWide f acc as ws
  | _, _ => (acc, 0)

/-- R163: the order of scores: NaN below everything, zeros equal. -/
def rankBelow (a b : FVal) : Bool := if a.isNan then !b.isNan else if b.isNan then false else a.lt b

/-- R163: the count of comparators ahead of a score. -/
def rankCount (x : FVal) (ties : List Bool) (b : List FVal) : Nat :=
  ((b.zip ties).filter fun p => rankBelow x p.1 || (!rankBelow p.1 x && p.2)).length

/-- A weight that is not a zero sets the tie flag. -/
def tieFlag : Option FVal → Bool
  | some (.fin _ m _) => m != 0
  | some _ => true
  | none => false

/-- R162, R163: column n of a row: its new element and flags. -/
def streamElement (st : Stream) (acc : AccFmt) (k : Nat) (a : List FVal) (n old : Nat) : Nat × Flags :=
  let w := (columnOf st.plane n).1
  if st.rank then
    let r := sat32 (signedOf 32 old + rankCount (a.getD n (.nan false)) (w.take 16 |>.map tieFlag) ((a.drop 16).take 16))
    (r.1.toNat, r.2 ||| flIf ((a.take 32).any FVal.isNan) flInvalid)
  else if st.plane.fmt.toNat ≤ 1 then stepWide (accFloat acc) (old % 2 ^ (accFloat acc).width) (a.take k) (w.take k)
  else if acc = .i32 then narrowInt (old % 2 ^ 32) (a.take k) (w.take k)
  else narrowFloat (old % 2 ^ 32) (a.take k) (w.take k)

/-! ## Bank elements -/

/-- The place of an element among the accumulator elements. -/
def accIndex (bank row col : Nat) : Nat := 1024 * bank + 16 * row + col

/-- An element's code. -/
def accGet (c : CoreRec) (bank row col : Nat) : Nat := (bankGet c.banks (accIndex bank row col)).toNat

/-- The elements of a row. -/
def accRow (c : CoreRec) (bank row : Nat) : List Nat := (List.range 16).map (accGet c bank row)

/-- A row written. -/
def accPut (c : CoreRec) (bank row : Nat) (x : List Nat) : CoreRec :=
  { c with banks := bankWrite c.banks (accIndex bank row 0) (x.map (BitVec.ofNat 64)) }

/-- A bank's format. -/
def tagOf (c : CoreRec) (bank : Nat) : AccFmt := c.tags.getD bank .f32

/-- R162, R163: the next row of a stream added into its bank, with the flags, under the format that the bank has in this cycle (log
entry 132). -/
def streamRow (c : CoreRec) (st : Stream) (bs : List Byte) : CoreRec × Flags :=
  let acc := tagOf c st.bank
  let sp := st.plane.sparsity.toNat
  let k := if st.rank then 64 else (pairing st.plane.fmt.toNat st.afmt.toNat (st.plane.scaled || st.scaled)).elim 0 fun p =>
    streamK p.2 sp
  let a := valuesOf st.afmt.toNat k (st.scaled && mayScale st.afmt.toNat) bs
  let r := (accRow c st.bank st.row).zipIdx.map fun p => streamElement st acc k a.1 p.2 p.1
  (accPut c st.bank st.row (r.map (·.1)), a.2 ||| orFlags (r.map (·.2)))

/-- R27: the head stream's next row is due. -/
def rowDue (c : CoreRec) : Bool :=
  match c.streams with
  | [] => false
  | st :: _ => decide (st.start + Config.streamLatency + st.row ≤ c.cycle)



/-- Flags ORed into a context of a core. -/
def raiseIn (c : CoreRec) (x : Nat) (fl : Flags) : CoreRec :=
  modCtxIn c x fun d => { d with live := { d.live with fflags := d.live.fflags ||| fl } }

/-- R27: the next row of the head stream written, with its flags in the issuing context. -/
def rowUpdate (c : CoreRec) : CoreRec :=
  match c.streams with
  | [] => c
  | st :: more =>
    match st.data with
    | [] => { c with streams := more }
    | bs :: rest =>
      let r := streamRow c st bs
      let d := raiseIn r.1 st.ctx r.2
      { d with streams := if rest.isEmpty then more else { st with row := st.row + 1, data := rest } :: more }

/-- R27: every due row of a core written, up to n of them. -/
def rowUpdates : Nat → CoreRec → CoreRec
  | 0, c => c
  | n + 1, c => if rowDue c then rowUpdates n (rowUpdate c) else c

/-! ## The bank region rule (R28, R167) -/

/-- R167: the written bit of a row. -/
def rowWrittenBit (c : CoreRec) (x bank row : Nat) : Bool := bitOf (c.rowWritten.getD (16 * x + bank) 0).toNat row

/-- Written bits set. -/
def markRows (c : CoreRec) (x bank : Nat) (rows : List Nat) : CoreRec :=
  let i := 16 * x + bank
  let bits := rows.foldl (fun b r => b ||| BitVec.ofNat 64 (2 ^ r)) (c.rowWritten.getD i 0)
  { c with rowWritten := c.rowWritten.setIfInBounds i bits }

/-- R28: the first of these rows that an `mxs` stream in flight will write. Which of several such rows the trap names the manual does not
say; the model takes the first (log entry 20). -/
def pendingRow (c : CoreRec) (bank : Nat) (rows : List Nat) : Option Nat :=
  rows.find? fun r => c.streams.any fun st => !st.rank && st.bank == bank && decide (st.row ≤ r ∧ r < st.row + st.data.length)

/-- R28: an ACC access, or the early-access trap. -/
def accAccess (s : State) (b : BitVec 4) (rows : List Nat) (k : Unit → Out) : Out :=
  match isLchk s, pendingRow s.core (bankOf s b) rows with
  | true, some r => trapIllegal s 5 0x07 (b.toNat * 256 + r)
  | _, _ => k ()

/-- R371: a bank with an uncorrectable error traps its reader. -/
def bankSound (s : State) (slot : Nat) (b : BitVec 4) (k : Unit → Out) : Out :=
  if s.bad.contains (.bank s.core.id (bankOf s b)) then trapOut s 0x09 slot (0x04 + 256 * b.toNat) 0 else k ()

/-- R167: a read of rows. -/
def bankReads (s : State) (b : BitVec 4) (rows : List Nat) (k : State → Out) : Out :=
  accAccess s b rows fun _ => bankSound s 5 b fun _ =>
    if rows.all (rowWrittenBit s.core (localNo s) (bankOf s b)) then k s
    else
      let bits := s.core.bankRead.getD (bankOf s b) 0 ||| ctxBit (localNo s)
      k (modCore s fun c => { c with bankRead := c.bankRead.setIfInBounds (bankOf s b) bits })

/-- R167: the row that the violation of a write of rows names, plain or accumulating; none when the write is legal. -/
def bankViolation (s : State) (accumulating : Bool) (b : BitVec 4) (rows : List Nat) : Option Nat :=
  if s.core.bankRead.getD (bankOf s b) 0 &&& ctxBit (localNo s) != 0 then some (rows.headD 0)
  else if accumulating then rows.find? fun r => !rowWrittenBit s.core (localNo s) (bankOf s b) r
  else none

/-- R167: a write of rows by a slot, plain or accumulating. -/
def bankWrites (s : State) (slot : Nat) (accumulating : Bool) (b : BitVec 4) (rows : List Nat) (k : State → Out) : Out :=
  match bankViolation s accumulating b rows with
  | some r => trapRegion s slot 0x02 (b.toNat * 256 + r)
  | none => k (modCore s fun c => markRows c (localNo s) (bankOf s b) rows)

/-- R28, R167: an ACC slot's write of rows. -/
def accWrites (s : State) (accumulating : Bool) (b : BitVec 4) (rows : List Nat) (k : State → Out) : Out :=
  accAccess s b rows fun _ =>
    if accumulating then bankSound s 5 b fun _ => bankWrites s 5 true b rows k else bankWrites s 5 false b rows k

/-- R29, R167: an ACC slot that reads a tile and writes rows: on an empty tile the region rule is checked at issue, and the slot
waits; on a full one the tile is read and the rows are written. -/
def needTileForRows (s : State) (op : Instr) (accumulating : Bool) (b : BitVec 4) (t : Nat) (rows : List Nat) (k : State → Out) : Out :=
  match tileFull (frame s) t, bankViolation s accumulating b rows with
  | false, some r => trapRegion s 5 0x02 (b.toNat * 256 + r)
  | _, _ => needTiles s 5 op [t] fun s => accWrites s accumulating b rows k

/-- The rows from row0 to row 63. -/
def rowsFrom (row0 : Nat) : List Nat := (List.range (64 - row0)).map (row0 + ·)

/-- Rows rewritten element by element: row, column and old code give the new code and flags (R164). -/
def mapRows (s : State) (b : BitVec 4) (rows : List Nat) (f : Nat → Nat → Nat → Nat × Flags) : Out :=
  let bank := bankOf s b
  let c := frame s
  let r := rows.map fun row => (row, (accRow c bank row).zipIdx.map fun p => f row p.2 p.1)
  let t := modCore s fun d => r.foldl (fun d x => accPut d bank x.1 (x.2.map (·.1))) d
  .next (raise t (orFlags (r.map fun x => orFlags (x.2.map (·.2)))))

/-- R164: the element index of the stochastic hash. -/
def accIx (row col : Nat) : Nat := 16 * row + col

/-! ## The tiles that a slot reads (R188) -/

/-- The tiles that a stream reads from its first tile's header. -/
def streamReads (s : State) (t f n : Nat) (rank : Bool) : List Nat :=
  let h := tileOf s.core t
  if rank then streamTiles t n 256
  else
    match pairing s.core.active.fmt.toNat f (s.core.active.scaled || h.scaled) with
    | none => [t]
    | some p => streamTiles t n (rowBytesOf f (streamK p.2 s.core.active.sparsity.toNat) h.scaled)

/-- R188: the tiles that a slot reads. -/
def tileReads (s : State) : Instr → List Nat
  | .mxlw _ t f x =>
    let scaled := (tileOf s.core t.toNat).scaled && mayScale f.toNat
    if 8192 < 16 * columnBytes f.toNat x.toNat scaled then [t.toNat, t.toNat + 1] else [t.toNat]
  | .mxs _ _ t f r => streamReads s t.toNat f.toNat (r.toNat + 1) false
  | .mxrank _ _ t r => streamReads s t.toNat 1 (r.toNat + 1) true
  | .acwr _ _ t _ _ | .acadd _ _ t _ _ => [t.toNat]
  | .tld _ _ t _ => [t.toNat]
  | .tlds _ _ t _ _ => [t.toNat]
  | .tcopy _ _ c _ | .tpack _ _ c _ => [c.toNat]
  | .txfer _ t _ _ _ => [t.toNat]
  | .txferRow _ t _ _ => [t.toNat]
  | .txferAll _ t _ => [t.toNat]
  | .hput _ t _ _ _ | .tdesc _ t _ _ _ => [t.toNat]
  | .hgat _ t _ _ _ => [t.toNat + 1]
  | .hsca _ t _ _ _ | .tgrad _ t _ _ _ => [t.toNat, t.toNat + 1]
  | .rput _ t _ _ | .rputLast _ t _ _ | .rputUpd _ t _ _ | .xsend _ t _ _ | .xsendLast _ t _ _ | .nsend _ t _ _ => [t.toNat]
  | _ => []

end Sys2Proof.Machine
end

