-- ==== Sys2Proof/Machine/Acc.lean ====
section
/-!
DEFINITION. The meanings of the accumulator-port operations (R164 to R172).
-/

namespace Sys2Proof.Machine

/-- A value of a bank element. -/
def accVal (t : AccFmt) (x : Nat) : FVal := elemVal (accCode t) (x % 2 ^ elemBits (accCode t))

/-- R164: a floating result of a bank, or the saturated sum of an int32 bank. -/
def accAdd (t : AccFmt) (r : Rounding) (ix : Nat) (x : Nat) (v : FVal) : Nat × Flags :=
  if t = .i32 then
    match v with
    | .fin .. =>
      let n := roundedInt r ix v
      let y := sat32 (signedOf 32 x + n.1)
      (y.1.toNat, y.2 ||| flIf n.2 flInexact)
    | v =>
      let n := toIntCode true 32 r ix v
      let y := sat32 (signedOf 32 x + signedOf 32 n.1)
      (y.1.toNat, n.2 ||| y.2)
  else addRound (accFloat t) r ix (accVal t x) v

/-- R168: `acz`; c is the count less one. -/
def execAcz (g : BitVec 5) (b : BitVec 4) (r c : BitVec 6) (s : State) : Out :=
  guarded g s fun _ =>
    let rows := (List.range (c.toNat + 1)).map (r.toNat + ·)
    accWrites s false b rows fun s => mapRows s b rows fun _ _ _ => (0, 0)

/-- R169: bytes of a tile row of sixteen elements. -/
def accStride (fmt : Nat) : Nat := 2 * elemBits fmt

/-- R169: `acrd`: bank rows converted into a tile, with its header. -/
def execAcrd (g : BitVec 5) (b : BitVec 4) (t : BitVec 7) (r : BitVec 6) (f : BitVec 4) (s : State) : Out :=
  guarded g s fun _ =>
    let bank := bankOf s b
    let tag := tagOf (frame s) bank
    let rows := rowsFrom r.toNat
    bankReads s b rows fun s => writingTile s 5 t.toNat fun _ =>
      let x := rows.map fun row => (accRow (frame s) bank row).zipIdx.map fun p =>
        convCode f.toNat (rounding s) (accIx row p.2) (accVal tag p.1)
      let bytes := x.flatMap fun row => bytesOfNat (accStride f.toNat) (packLanes (elemBits f.toNat) (row.map (·.1)))
      let s1 := putTile s t.toNat 0 bytes
      let s2 := modTile s1 t.toNat fun h =>
        { h with rows := BitVec.ofNat 7 (64 - r.toNat), rowbytes := BitVec.ofNat 14 (accStride f.toNat), fmt := f, scaled := false }
      .next (raise s2 (orFlags (x.map fun row => orFlags (row.map (·.2)))))

/-- R169: the value of element `col` of the tile row that bank row `row` takes. -/
def accTileVal (s : State) (t : BitVec 7) (row0 : Nat) (f : Nat) (row col : Nat) : FVal :=
  elemVal f (elemAt f (tileBytesAt (frame s) t.toNat ((row - row0) * accStride f) (accStride f)) col)

/-- R169: `acwr`: tile rows converted into bank rows. -/
def execAcwr (g : BitVec 5) (b : BitVec 4) (t : BitVec 7) (r : BitVec 6) (f : BitVec 4) (s : State) : Out :=
  guarded g s fun _ =>
    let rows := rowsFrom r.toNat
    needTileForRows s (.acwr g b t r f) false b t.toNat rows fun s =>
      let tag := tagOf (frame s) (bankOf s b)
      mapRows s b rows fun row col _ =>
        convCode (accCode tag) (rounding s) (accIx row col) (accTileVal s t r.toNat f.toNat row col)

/-- R169: `acadd`: tile rows added into bank rows with one rounding. -/
def execAcadd (g : BitVec 5) (b : BitVec 4) (t : BitVec 7) (r : BitVec 6) (f : BitVec 4) (s : State) : Out :=
  guarded g s fun _ =>
    let rows := rowsFrom r.toNat
    needTileForRows s (.acadd g b t r f) true b t.toNat rows fun s =>
      let tag := tagOf (frame s) (bankOf s b)
      mapRows s b rows fun row col old =>
        accAdd tag (rounding s) (accIx row col) old (accTileVal s t r.toNat f.toNat row col)

/-- R170: `acmv`, from the bank for mode 0 and into it for mode 1. -/
def execAcmv (g : BitVec 5) (b : BitVec 4) (v : BitVec 6) (r : BitVec 6) (m : BitVec 5) (s : State) : Out :=
  guarded g s fun _ =>
    let bank := bankOf s b
    let wide := tagOf (frame s) bank == .f64
    let n := if wide then 2 else 4
    let w := if wide then 64 else 32
    let rows := (List.range n).map (r.toNat + ·)
    if 63 < r.toNat + n - 1 then trapBounds s 5 0x09 (BitVec.ofNat 64 (r.toNat + n - 1))
    else if m = 0 then
      bankReads s b rows fun s => .next (setV s v (vPack w (rows.flatMap (accRow (frame s) bank))))
    else
      accWrites s false b rows fun s =>
        let lanes := vLanes w (getV s v)
        mapRows s b rows fun row col _ => (lanes.getD (16 * (row - r.toNat) + col) 0, 0)

/-- R171: the bank format of a code. -/
def tagFor (f : BitVec 4) : AccFmt := if f = 0 then .f64 else if f = 1 then .f32 else .i32

/-- R171: `acfmt`. -/
def execAcfmt (g : BitVec 5) (b : BitVec 4) (f : BitVec 4) (s : State) : Out :=
  guarded g s fun _ =>
    let tag := tagOf (frame s) (bankOf s b)
    if tag = tagFor f then .next s
    else
      accWrites s true b (rowsFrom 0) fun s =>
        let s1 := modCore s fun c => { c with tags := c.tags.setIfInBounds (bankOf s b) (tagFor f) }
        mapRows s1 b (rowsFrom 0) fun row col old => convCode f.toNat (rounding s) (accIx row col) (accVal tag old)

/-- R172: bank rows multiplied by a value. -/
def scaleRows (s : State) (b : BitVec 4) (r : BitVec 6) (v : AccFmt → FVal) : Out :=
  let tag := tagOf (frame s) (bankOf s b)
  if tag = .i32 then trapIllegal s 5 0x09 b.toNat
  else
    accWrites s true b (rowsFrom r.toNat) fun s =>
      mapRows s b (rowsFrom r.toNat) fun row col old =>
        mulRound (accFloat tag) (rounding s) (accIx row col) (accVal tag old) (v tag)

/-- R172: `acscl`. -/
def execAcscl (g : BitVec 5) (b : BitVec 4) (x : BitVec 6) (r : BitVec 6) (s : State) : Out :=
  guarded g s fun _ => scaleRows s b r fun tag => accVal tag (getS s x).toNat

/-- R172: a power of two; beyond 2^5000 and 2^-5000 every product of the formats overflows or vanishes alike. -/
def powerOfTwo (n : Int) : FVal := .fin false 1 (clampInt (-5000) 5000 n).1

/-- R172: `acscl.e`. -/
def execAcsclE (g : BitVec 5) (b : BitVec 4) (x : BitVec 6) (r : BitVec 6) (s : State) : Out :=
  guarded g s fun _ => scaleRows s b r fun _ => powerOfTwo (getS s x).toInt

/-- R172: `acbias`. -/
def execAcbias (g : BitVec 5) (b : BitVec 4) (v : BitVec 6) (r : BitVec 6) (s : State) : Out :=
  guarded g s fun _ =>
    let tag := tagOf (frame s) (bankOf s b)
    let lanes := vLanes (if tag = .f64 then 64 else 32) (getV s v)
    accWrites s true b (rowsFrom r.toNat) fun s =>
      mapRows s b (rowsFrom r.toNat) fun row col old =>
        accAdd tag (rounding s) (accIx row col) old (accVal tag (lanes.getD col 0))

end Sys2Proof.Machine
end

