-- ==== Sys2Proof/Machine/Codec.lean ====
section
/-!
DEFINITION. The codec of compressed objects (R274 to R278): blocks of 256 elements as bit sequences, most significant bit
of a byte first, the encoder that the compression engine uses and the decoder that every expander uses.
-/

namespace Sys2Proof.Machine

/-- The k low bits of x, most significant first. -/
def bitsMsb : Nat → Nat → List Bool
  | 0, _ => []
  | k + 1, x => bitOf x k :: bitsMsb k x

/-- The value of bits, most significant first. -/
def natOfMsb (l : List Bool) : Nat := l.foldl (fun n b => 2 * n + b2n b) 0

/-- The bytes of a bit sequence, padded with zero bits to a multiple of eight bytes (R275). -/
def bytesOfBits (l : List Bool) : List Byte :=
  let n := (l.length + 63) / 64 * 64
  let p := l ++ List.replicate (n - l.length) false
  (List.range (n / 8)).map fun i => BitVec.ofNat 8 (natOfMsb ((p.drop (8 * i)).take 8))

/-- The bit sequence of bytes. -/
def bitsOfBytes (l : List Byte) : List Bool := l.flatMap fun b => bitsMsb 8 b.toNat

/-- What the codec works under: the format (FP32 or FP64), whether the bound applies, and e of the bound 2^e. -/
structure CodecMode where
  fmt : FloatFmt
  lossy : Bool
  epsExp : Int
  deriving DecidableEq, Repr

/-- An escape (R276): 31 one bits and the value. -/
def escapeCode (w x : Nat) : List Bool := List.replicate 31 true ++ bitsMsb w x

/-- A code with parameter k (R276). -/
def plainCode (k u : Nat) : List Bool := List.replicate (u / 2 ^ k) true ++ false :: bitsMsb k u

/-- The zigzag of R278, and of R277 back. -/
def zigzag (q : Int) : Nat := if 0 ≤ q then 2 * q.toNat else 2 * q.natAbs - 1
/-- R277. -/
def unzigzag (u : Nat) : Int := if u % 2 = 0 then (u / 2 : Nat) else -((u + 1) / 2 : Nat)

/-- R277, R278: the predictor's value, +0 for a NaN or an infinity. -/
def predictor (f : FloatFmt) (prev : Nat) : Bool × Nat × Int :=
  match decodeFloat f prev with
  | .fin n m e => (n, m, e)
  | _ => (false, 0, 0)

/-- R277: round_to(fmt, p + q * 2 * eps). -/
def reconstruct (c : CodecMode) (prev : Nat) (q : Int) : Nat :=
  let p := predictor c.fmt prev
  let s := addExact p.1 p.2.1 p.2.2 (q < 0) q.natAbs (c.epsExp + 1)
  (roundInt c.fmt nearestEven 0 s.1 s.2 false).1

/-- The magnitude of a difference of two finite codes passes 2^e. -/
def apartBy (f : FloatFmt) (x y : Nat) (e : Int) : Bool :=
  match decodeFloat f x, decodeFloat f y with
  | .fin nx mx ex, .fin ny my ey =>
    let d := addExact nx mx ex (!ny) my ey
    (FVal.fin false 1 e).lt (.fin false d.1.natAbs d.2)
  | _, _ => true

/-- R278: the code of one element of an error-bounded block: its u, or none for an escape that does not depend on k, and
the reconstruction. -/
def lossyCode (c : CodecMode) (prev x : Nat) : Option (Nat × Nat) :=
  match decodeFloat c.fmt x with
  | .fin neg m e =>
    if neg ∧ m = 0 then none
    else
      let p := predictor c.fmt prev
      let r := addExact neg m e (!p.1) p.2.1 p.2.2
      if (FVal.fin false 1 (c.epsExp + 1 + c.fmt.width - 2)).lt (.fin false r.1.natAbs r.2) then none
      else
        let n := (roundWhole nearestEven 0 (r.1 < 0) r.1.natAbs (r.2 - c.epsExp - 1)).1
        let q : Int := if r.1 < 0 then -(n : Int) else n
        let v := reconstruct c prev q
        if apartBy c.fmt v x c.epsExp then none else some (zigzag q, v)
  | _ => none

/-- R278: the codes of the elements with parameter k. -/
def codeElems (c : CodecMode) (k : Nat) : Nat → List Nat → List Bool
  | _, [] => []
  | prev, x :: r =>
    match (if c.lossy then lossyCode c prev x else some (x ^^^ prev, x)) with
    | some (u, v) =>
      if 30 < u / 2 ^ k then escapeCode c.fmt.width x ++ codeElems c k x r else plainCode k u ++ codeElems c k v r
    | none => escapeCode c.fmt.width x ++ codeElems c k x r

/-- The shortest of the codings with parameters below w, the lowest parameter on a tie. -/
def bestCoding (c : CodecMode) (xs : List Nat) : Nat → Nat × List Bool
  | 0 => (0, codeElems c 0 0 xs)
  | k + 1 =>
    let b := bestCoding c xs k
    let n := codeElems c (k + 1) 0 xs
    if n.length < b.2.length then (k + 1, n) else b

/-- R278: a block of source codes encoded. -/
def encodeBlock (c : CodecMode) (xs : List Nat) : List Byte :=
  let w := c.fmt.width
  if xs.all fun x => x == xs.headD 0 then bytesOfBits (true :: true :: bitsMsb w (xs.headD 0))
  else
    let b := bestCoding c xs (w - 1)
    if 2 + xs.length * w ≤ 8 + b.2.length then bytesOfBits (true :: false :: xs.flatMap (bitsMsb w))
    else bytesOfBits (false :: (!c.lossy) :: bitsMsb 6 b.1 ++ b.2)

/-- The count of one bits at the head, at most 31, and the rest after the zero bit or after the 31st one. -/
def takeOnes : Nat → List Bool → Option (Nat × List Bool)
  | 0, r => some (0, r)
  | _ + 1, [] => none
  | _ + 1, false :: r => some (0, r)
  | n + 1, true :: r => (takeOnes n r).map fun x => (x.1 + 1, x.2)

/-- The first n bits as a value, and the rest; none when the block ends before them. -/
def takeBits (n : Nat) (l : List Bool) : Option (Nat × List Bool) :=
  if l.length < n then none else some (natOfMsb (l.take n), l.drop n)

/-- One element of a coded block: its bits and the rest (R276, R277). -/
def decodeElem (c : CodecMode) (k prev : Nat) (l : List Bool) : Option (Nat × List Bool) :=
  match takeOnes 31 l with
  | none => none
  | some (31, r) => takeBits c.fmt.width r
  | some (q, r) =>
    (takeBits k r).map fun x =>
      let u := q * 2 ^ k + x.1
      (if c.lossy then reconstruct c prev (unzigzag u) else (prev ^^^ u) % 2 ^ c.fmt.width, x.2)

/-- R277: the n elements of a coded block. -/
def decodeElems (c : CodecMode) (k : Nat) : Nat → Nat → List Bool → Option (List Nat)
  | 0, _, _ => some []
  | n + 1, prev, l =>
    (decodeElem c k prev l).bind fun x => (decodeElems c k n x.1 x.2).map fun r => x.1 :: r

/-- n values of w bits. -/
def rawElems (w : Nat) : Nat → List Bool → Option (List Nat)
  | 0, _ => some []
  | n + 1, l => (takeBits w l).bind fun x => (rawElems w n x.2).map fun r => x.1 :: r

/-- R276, R277: the n elements of a block; none when the block is uncorrectable data. -/
def decodeBlock (c : CodecMode) (n : Nat) (bs : List Byte) : Option (List Nat) :=
  let w := c.fmt.width
  match bitsOfBytes bs with
  | true :: true :: r => (takeBits w r).map fun x => List.replicate n x.1
  | true :: false :: r => rawElems w n r
  | false :: lossless :: r =>
    (takeBits 6 r).bind fun k =>
      if w - 1 < k.1 then none else decodeElems { c with lossy := !lossless } k.1 n 0 k.2
  | _ => none

/-- Elements of a block. -/
def blockElems : Nat := 256

/-- The codes of n elements encoded block by block. -/
def encodeAll (c : CodecMode) : Nat → List Nat → List (List Byte)
  | 0, _ => []
  | fuel + 1, xs => if xs.isEmpty then [] else encodeBlock c (xs.take blockElems) :: encodeAll c fuel (xs.drop blockElems)

/-- The codes of the n elements of coded blocks; a block that is uncorrectable gives zeros here (no operation of the
machine makes one). -/
def decodeAll (c : CodecMode) : Nat → List (List Byte) → List Nat
  | _, [] => []
  | n, b :: r =>
    let m := min n blockElems
    (decodeBlock c m b).getD (List.replicate m 0) ++ decodeAll c (n - m) r

end Sys2Proof.Machine
end

