-- ==== Sys2Proof/Machine/Objects.lean ====
section
/-!
DEFINITION. Objects: handles (R5), the object tables, storage order (R301), views (R210), absence (R306), tile maps
(R212), drafts, publishes and retained versions (R221, R222, R299, R307, R309).
-/

namespace Sys2Proof.Machine

/-! ## Handles (R5) -/

/-- R5: the home package. -/
def handleHome (h : BitVec 64) : Nat := h.toNat / 2 ^ 54
/-- R5: the object number. -/
def handleNumber (h : BitVec 64) : Nat := fieldOf h.toNat 30 24
/-- R5: the generation. -/
def handleGen (h : BitVec 64) : Nat := fieldOf h.toNat 18 12
/-- R5: the owning partition. -/
def handlePart (h : BitVec 64) : Nat := fieldOf h.toNat 12 6
/-- R5: the reserved field. -/
def handleReserved (h : BitVec 64) : Nat := h.toNat % 2 ^ 12
/-- The object that a handle names, by its place in the tables. -/
def handleKey (h : BitVec 64) : ObjKey := ⟨handleHome h, handleNumber h⟩
/-- R5: a handle from its fields. -/
def mkHandle (k : ObjKey) (gen part : Nat) : BitVec 64 :=
  BitVec.ofNat 64 (k.home * 2 ^ 54 + k.number * 2 ^ 30 + gen * 2 ^ 18 + part * 2 ^ 12)
/-- The handle of an object. -/
def objHandle (o : Obj) : BitVec 64 := mkHandle o.key o.generation o.partition

/-! ## The object tables -/

/-- A present object. -/
def objAt (s : State) (k : ObjKey) : Option Obj := s.objects.find? fun o => o.key == k && o.present

/-- An object changed. -/
def modObj (s : State) (k : ObjKey) (f : Obj → Obj) : State :=
  { s with objects := s.objects.map fun o => if o.key = k then f o else o }

/-- R297: the kind code. -/
def kindCode : Kind → Nat
  | .dense => 0 | .tree => 1 | .byte => 2 | .host => 3 | .queue => 4 | .expert => 5 | .stage => 6 | .forecast => 7

/-- R211: kinds 0 to 3. -/
def isData (k : Kind) : Bool := kindCode k ≤ 3

/-- R296: whether a partition holds a right (1 read, 2 write). -/
def hasRight (o : Obj) (part right : Nat) : Bool := bitOf o.rights.toNat (2 * part + (right - 1))

/-- An extent, 1 past the coordinates in use. -/
def extentAt (o : Obj) (j : Nat) : Nat := o.extent.getD j 1

/-! ## Storage order (R301) -/

/-- R300: the coordinate along which an object is split. -/
def shardCoord (o : Obj) : Nat := o.shard.toNat / 2 ^ 61
/-- R300: the extent along it of each shard. -/
def shardChunk (o : Obj) : Nat := Nat.max 1 (o.shard.toNat % 2 ^ 32)
/-- R300: the count of shards. -/
def shardCount (o : Obj) : Nat := fieldOf o.shard.toNat 51 10 + 1

/-- The shard that holds an element. -/
def shardOf (o : Obj) (q : List Nat) : Nat := if shardCount o = 1 then 0 else q.getD (shardCoord o) 0 / shardChunk o

/-- Storage of shard n stands in a version's store from this address on. -/
def shardBase (n : Nat) : Nat := n * 2 ^ 48

/-- R301: the extents over which a shard's elements are numbered: those of the object, but along the coordinate of the split, for a
shard other than shard 0, that shard's own. -/
def shardExtent (o : Obj) (n j : Nat) : Nat :=
  if j = shardCoord o ∧ n ≠ 0 then Nat.min (shardChunk o) (extentAt o j - n * shardChunk o) else extentAt o j

/-- The linear index of coordinates over extents, from coordinate j on with stride p. -/
def linearFrom (ext : Nat → Nat) : Nat → Nat → List Nat → Nat
  | _, _, [] => 0
  | j, p, q :: r => q * p + linearFrom ext (j + 1) (p * ext j) r

/-- An element's coordinates within its shard. -/
def shardLocal (o : Obj) (q : List Nat) : List Nat :=
  if shardCount o = 1 then q
  else q.modify (shardCoord o) fun x => x - shardOf o q * shardChunk o

/-- R301: the linear index of an element within its shard. -/
def linearIndex (o : Obj) (q : List Nat) : Nat :=
  linearFrom (shardExtent o (shardOf o q)) 0 1 (shardLocal o q)

/-- The blocks of 32 elements of a row. -/
def rowBlocks (n : Nat) : Nat := (n + 31) / 32

/-- The index of the block of 32 elements, along coordinate 0, that holds an element. -/
def blockIndex (o : Obj) (q : List Nat) : Nat :=
  let l := shardLocal o q
  let e0 := Nat.max 1 (shardExtent o (shardOf o q) 0)
  (linearIndex o q - l.headD 0) / e0 * rowBlocks e0 + l.headD 0 / 32

/-- Bytes of one stored element, for formats of eight bits or wider and six-bit formats. -/
def elemSize (code : Nat) : Nat := elemBits code / 8

/-- R301: the address of the byte that holds an element, or of its OX4 block. -/
def elemAddr (o : Obj) (q : List Nat) : Nat :=
  let b := shardBase (shardOf o q)
  let f := o.fmt.toNat
  if f = 0xB then b + 18 * blockIndex o q
  else if elemBits f = 4 then b + linearIndex o q / 2
  else b + elemSize f * linearIndex o q

/-- R301: the first and the last byte of what holds an element: its OX4 block, or a naturally aligned element. -/
def elemEnds (o : Obj) (q : List Nat) : List Nat :=
  if o.fmt = 0xB then [elemAddr o q, elemAddr o q + 17] else [elemAddr o q]

/-- R301: the address of an element's block scale. -/
def scaleAddr (o : Obj) (q : List Nat) : Nat := shardBase (shardOf o q) + o.scalePlane + blockIndex o q

/-- The codec of a compressed object (R274). -/
def codecOf (o : Obj) (lossy : Bool) : CodecMode :=
  ⟨if o.fmt = 0 then f64 else f32, lossy && !o.epsZero, o.epsExp⟩

/-- The elements of an object. -/
def elemCount (o : Obj) : Nat := o.extent.foldl (· * ·) 1

/-- The elements of block b of a compressed object (R275), by their place in storage order. -/
def blockRange (o : Obj) (b : Nat) : List Nat :=
  (List.range (Nat.min blockElems (elemCount o - b * blockElems))).map (b * blockElems + ·)

/-- The coded blocks of a store, with zeros for blocks that nothing has written. -/
def codedBlocks (o : Obj) (st : Store) : List (List Byte) :=
  (List.range ((elemCount o + 255) / 256)).map fun b =>
    st.blocks.getD b (encodeBlock (codecOf o false) (List.replicate (blockRange o b).length 0))

/-- R275: a block padded to its 8-byte words. -/
def paddedBlock (b : List Byte) : List Byte := b ++ List.replicate ((8 - b.length % 8) % 8) 0

/-- R275: the bytes of a compressed version's storage: its directory, then its data area. -/
def codedBytes (bs : List (List Byte)) : Nat := 8 * bs.length + (bs.map fun b => (paddedBlock b).length).sum

/-- R275: the first byte of block b in that storage, and its bytes. -/
def codedPlace (bs : List (List Byte)) (b : Nat) : Nat × Nat :=
  (codedBytes (bs.take b) + 8 * (bs.length - b), (paddedBlock (bs.getD b [])).length)

/-- The addresses at the start of each line of n bytes from a on. -/
def lineStarts (a n : Nat) : List Nat := (List.range ((a + n - 1) / 128 + 1 - a / 128)).map fun i => Nat.max a ((a / 128 + i) * 128)

/-- R275: where the blocks that hold some addresses of the expanded storage lie in coded storage: their directory entries and
their bytes. -/
def codedAddrs (o : Obj) (st : Store) (addrs : List Nat) : List Nat :=
  let coded := codedBlocks o st
  ((addrs.map (· / (elemSize o.fmt.toNat * blockElems))).eraseDups).flatMap fun b =>
    8 * b :: lineStarts (codedPlace coded b).1 (codedPlace coded b).2

/-- R274: where the elements at some addresses of the expanded storage lie in the tiers. -/
def heldAddrs (o : Obj) (st : Store) (addrs : List Nat) : List Nat := if o.compressed then codedAddrs o st addrs else addrs

/-- R274: where they lie in the L2 and the remote-data caches, which hold the coded form from expansion point 1 on. -/
def lineAddrs (o : Obj) (st : Store) (addrs : List Nat) : List Nat := if o.point = 0 then addrs else heldAddrs o st addrs

/-- The bytes of a store as every reader sees them: expanded when the object is compressed (R274). -/
def storeBytes (o : Obj) (st : Store) : Mem :=
  if o.compressed then
    cellsOf 0 ((decodeAll (codecOf o true) (elemCount o) st.blocks).flatMap fun x => bytesOfNat (elemSize o.fmt.toNat) x)
  else st.bytes

/-- The code of an element in expanded storage; for OX4 its four-bit code. -/
def elemCode (o : Obj) (m : Mem) (q : List Nat) : Nat :=
  let f := o.fmt.toNat
  if f = 0xB then
    let e := (shardLocal o q).headD 0 % 32
    fieldOf (readByte m (elemAddr o q + 2 + e / 2)).toNat (4 * (e % 2)) 4
  else if elemBits f = 4 then fieldOf (readByte m (elemAddr o q)).toNat (4 * (linearIndex o q % 2)) 4
  else readNat m (elemAddr o q) (elemSize f) % (if f = 6 ∨ f = 7 then 64 else 2 ^ elemBits f)

/-- R41, R43: the value of an element under its scale, with the flags of reading it. -/
def elemValue (o : Obj) (m : Mem) (q : List Nat) : FVal × Flags :=
  if o.fmt = 0xB then
    let b := decodeOx4 (readBytes m (elemAddr o q) 18)
    (b.1.getD ((shardLocal o q).headD 0 % 32) (.fin false 0 0), b.2)
  else
    let v := elemVal o.fmt.toNat (elemCode o m q)
    if o.scaled then scaleVal v (readByte m (scaleAddr o q)).toNat else (v, 0)

/-- R314: an element written; a narrow element changes only its own bits. -/
def putElem (o : Obj) (m : Mem) (q : List Nat) (x : Nat) : Mem :=
  let f := o.fmt.toNat
  if f = 0xB ∨ elemBits f = 4 then
    let e := (shardLocal o q).headD 0 % 32
    let a := if f = 0xB then elemAddr o q + 2 + e / 2 else elemAddr o q
    let hi := if f = 0xB then e % 2 else linearIndex o q % 2
    let b := (readByte m a).toNat
    writeByte m a (BitVec.ofNat 8 (if hi = 1 then b % 16 + 16 * (x % 16) else b / 16 * 16 + x % 16))
  else writeNat m (elemAddr o q) (elemSize f) (x % (if f = 6 ∨ f = 7 then 64 else 2 ^ elemBits f))

/-! ## The bytes, chunks and pages of storage (R262, R301, R307) -/

/-- The last element of a shard. -/
def lastPoint (o : Obj) (n : Nat) : List Nat :=
  (List.range o.extent.length).map fun j =>
    (if j = shardCoord o ∧ shardCount o ≠ 1 then Nat.min ((n + 1) * shardChunk o) (extentAt o j) else extentAt o j) - 1

/-- R301: the bytes of one shard of a version's storage before any coding, its scale plane included: up to the end of its last
element, block or scale. -/
def shardBytes (o : Obj) (n : Nat) : Nat :=
  let q := lastPoint o n
  let f := o.fmt.toNat
  if o.extent.contains 0 then 0
  else if f = 0xB then 18 * (blockIndex o q + 1)
  else if o.scaled then o.scalePlane + blockIndex o q + 1
  else if elemBits f = 4 then linearIndex o q / 2 + 1
  else elemSize f * (linearIndex o q + 1)

/-- The bytes of one version's storage over all its shards. -/
def allBytes (o : Obj) : Nat := ((List.range (shardCount o)).map (shardBytes o)).sum

/-- R307: the chunk of 8 KiB that holds an address; shards begin at chunks. -/
def chunkAt (a : Nat) : Nat := a / Config.chunkBytes

/-- R307: the version whose draft wrote a chunk of a version; an expert buffer's versions share nothing (R229). -/
def originOf (o : Obj) (v : Version) (chunk : Nat) : Nat :=
  if o.kind = .expert then v.num else ((v.origin.find? fun x => x.1 == chunk).map (·.2)).getD 1

/-- The stores that lie in the tiers: of the current version, and of an open draft. -/
def liveStores (o : Obj) : List Store :=
  ((o.versions.find? fun x => x.num == o.current).map (·.store)).toList ++ (o.draft.map (·.store)).toList

/-- R274: the bytes that a shard takes in the tiers: a compressed object's in its coded form. -/
def tierBytes (o : Obj) (n : Nat) : Nat :=
  if o.compressed then ((liveStores o).map fun st => codedBytes (codedBlocks o st)).foldl Nat.max 0 else shardBytes o n

/-- The pages of n bytes (R262). -/
def pagesOf (n : Nat) : Nat := (n + Config.pageBytes - 1) / Config.pageBytes

/-- The first page of a shard, pages being numbered over all of an object's storage. -/
def shardPage (n : Nat) : Nat := shardBase n / Config.pageBytes

/-- The shard of a page. -/
def pageShard (p : Nat) : Nat := p / shardPage 1

/-- The pages of a shard's storage. -/
def shardPages (o : Obj) (n : Nat) : List Nat := (List.range (pagesOf (tierBytes o n))).map (shardPage n + ·)

/-- The pages of an object's storage. -/
def objPages (o : Obj) : List Nat := (List.range (shardCount o)).flatMap (shardPages o)

/-! ## Where storage is (R300, R306, R351) -/

/-- R300: the package and the die that hold a shard. -/
def shardHome (o : Obj) (n : Nat) : Nat × Nat :=
  if n = 0 then (o.loc.package, o.loc.die) else o.shardMap.getD (n - 1) (o.loc.package, o.loc.die)

/-- The package that holds a shard. -/
def shardPackage (o : Obj) (n : Nat) : Nat := (shardHome o n).1

/-- The die that holds a shard. -/
def shardDie (o : Obj) (n : Nat) : Nat := (shardHome o n).2

/-- The package cannot be reached. -/
def unreachable (s : State) (pkg : Nat) : Bool := pkg != s.package && (s.lostLinks.contains pkg || s.failedPackages.contains pkg)

/-- The clusters of a partition. -/
def clustersOf (s : State) (part : Nat) : List Nat := (partitionBy s part).elim [] (·.clusters)

/-- R379: the clusters of a partition in a group. -/
def groupClusters (s : State) (part g : Nat) : List Nat := (clustersOf s part).filter fun c => c / 6 == g

/-- R379: the name of a group's copy among an object's replicas, past every package's: of a partition, and a group. -/
def groupName (part g : Nat) : Nat := 1024 + 8 * part + g

/-- R379: the clusters of the group that a copy is named after. -/
def copyClusters (s : State) (name : Nat) : List Nat := groupClusters s ((name - 1024) / 8) (name % 8)

/-- R303, R379: a replica or a group copy of a version that serves a reader: a replica on a package that can be reached, or, for
a reader on a cluster of the group, the group's copy. -/
def replicaServes (s : State) (o : Obj) (v : Nat) (reader : Option Nat) : Bool :=
  o.replicas.any fun r => r.1 == v && (if r.2 < 1024 then !unreachable s r.2 else reader.any (copyClusters s r.2).contains)

/-- R351: the object's home or the package of a shard of it cannot be reached. -/
def outOfReach (s : State) (o : Obj) (shard : Nat) : Bool := unreachable s o.key.home || unreachable s (shardPackage o shard)

/-- R365: why the elements of a shard are absent for a reader on a cluster, as the subcause of a missing object; 0 when they are
present. -/
def absentCause (s : State) (o : Obj) (shard : Nat) (version reader : Option Nat) : Nat :=
  if !o.loc.materialised then 1
  else if o.loc.moving then 2
  else if o.loc.spilled.contains shard then 3
  else if o.loc.lent then 4
  else if outOfReach s o shard && !version.any fun v => replicaServes s o v reader then 5 else 0

/-- The element is absent. -/
def absentElem (s : State) (o : Obj) (version reader : Option Nat) (q : List Nat) : Bool :=
  absentCause s o (shardOf o q) version reader != 0

/-- A shard of a list is absent. -/
def absentAny (s : State) (o : Obj) (version reader : Option Nat) (shards : List Nat) : Bool :=
  shards.any fun n => absentCause s o n version reader != 0

/-- Some part of the object is absent. -/
def absentObj (s : State) (o : Obj) : Bool := absentAny s o none none (List.range (shardCount o))

/-! ## Views (R210) -/

/-- The live joined-draft entry of a context. -/
def liveDraft (o : Obj) (c : Ctx) : Bool :=
  o.draft.isSome && c.drafts.any fun d => d.obj == o.key && d.draftNo == o.draftNo

/-- A retained version's store. -/
def versionStore (o : Obj) (v : Nat) : Option Store := (o.versions.find? fun x => x.num == v).map (·.store)

/-- The published version that a context sees without a draft: its pin, else the current one. -/
def viewVersion (o : Obj) (c : Ctx) : Nat :=
  ((c.pins.find? fun p => p.obj == o.key).map (·.version)).getD o.current

/-- R210: the view of a context, with its version when it is a published one. -/
def viewOf (o : Obj) (c : Ctx) : Option Nat × Store :=
  match liveDraft o c, o.draft with
  | true, some d => (none, d.store)
  | _, _ => (some (viewVersion o c), (versionStore o (viewVersion o c)).getD ⟨[], []⟩)

/-! ## Tile maps (R121, R212) -/

/-- R121: the valid bit that the other fields give. -/
def shapeValidOf (g : Nat) : Bool :=
  let r := g % 2 ^ 7
  let b := fieldOf g 8 14
  decide (1 ≤ r) && decide (1 ≤ b) && decide (r * b ≤ 8192) && fieldOf g 32 3 != fieldOf g 36 3

/-- R212: bytes of E elements packed. -/
def packedBytes (f e : Nat) : Nat :=
  if f = 0xB then 18 * rowBlocks e else if elemBits f = 4 then (e + 1) / 2 else elemSize f * e

/-- The largest count of elements at most n whose row, scales included, takes b bytes. -/
def elemsFrom (f b : Nat) (scales : Bool) : Nat → Option Nat
  | 0 => none
  | n + 1 =>
    if packedBytes f (n + 1) + (if scales then rowBlocks (n + 1) else 0) = b then some (n + 1) else elemsFrom f b scales n

/-- R212: the largest element count of a row of b bytes. -/
def elemsPerRow (f b : Nat) (scales : Bool) : Option Nat := elemsFrom f b scales (2 * b)

/-- A tile map: rows, elements of a row, the coordinates of rows and elements, the start, and stored scales. -/
structure TileMap where
  rows : Nat
  elems : Nat
  rowCoord : Nat
  elemCoord : Nat
  start : List Int
  scales : Bool
  deriving DecidableEq, Repr

/-- The start tuple as whole numbers. -/
def tupleInts (q : Vector (BitVec 32) 6) : List Int := q.toList.map (·.toInt)

/-- R212: the map of a shape onto an object, or the status of the error. -/
def tileMap (g : BitVec 65) (q : Vector (BitVec 32) 6) (o : Obj) : Except Nat TileMap :=
  let f := shapeFmt g
  let big := o.fmt.toNat
  let st := tupleInts q
  let ec := shapeElemCoord g
  if !shapeConv g && f != big then .error 0x20
  else if shapeConv g && (f == 0xB || (big == 0xB && decide (elemBits f ≤ 8))) then .error 0x20
  else
    let scales := o.scaled && !shapeConv g && decide (elemBits f ≤ 8) && f != 0xB
    match elemsPerRow f (shapeRowbytes g) scales with
    | none => .error 0x21
    | some e =>
      let x := st.getD ec 0
      if (f == 0xB || scales) && (ec != 0 || ((e % 32 != 0 || x % 32 != 0) && x + e != extentAt o ec)) then .error 0x21
      else .ok ⟨shapeRows g, e, shapeRowCoord g, ec, st, scales⟩

/-- The coordinates of element (i, e) with the start of its row moved by `shift` along the row coordinate. -/
def mapPoint (t : TileMap) (shift : Int) (i e : Nat) : List Int :=
  (t.start.modify t.rowCoord (· + shift + i)).modify t.elemCoord (· + e)

/-- R208, check 3: the first coordinate that lies outside the extents. -/
def outsideFrom (o : Obj) : Nat → List Int → Option Nat
  | _, [] => none
  | j, x :: r => if x < 0 ∨ (extentAt o j : Int) ≤ x then some j else outsideFrom o (j + 1) r

/-- R235: a row past 0 of an internal node of a tree. -/
def treeRowOutside (o : Obj) (q : List Int) : Bool :=
  o.kind == .tree && decide (0 < q.getD 1 0) && decide (2 * q.getD 2 0 + 1 < extentAt o 2)

/-- R208, check 3, of one point. -/
def outsidePoint (o : Obj) (q : List Int) : Option Nat :=
  (outsideFrom o 0 q).orElse fun _ => if treeRowOutside o q then some 1 else none

/-- The first answer of a list of checks. -/
def firstSome {α : Type} : List (Option α) → Option α
  | [] => none
  | none :: r => firstSome r
  | some a :: _ => some a

/-- Check 3 over a rectangle of rows and elements: its corners, and, on a tree, each row. -/
def outsideRect (o : Obj) (t : TileMap) (shift : Int) (rows : Nat) : Option Nat :=
  if rows = 0 then none
  else
    let e := t.elems - 1
    let corners := [(0, 0), (0, e), (rows - 1, 0), (rows - 1, e)]
    let tree := if o.kind == .tree then (List.range (Nat.min rows 64)).flatMap fun i => [(i, 0), (i, e)] else []
    firstSome ((corners ++ tree).map fun p => outsidePoint o (mapPoint t shift p.1 p.2))

/-- Natural coordinates. -/
def natPoint (q : List Int) : List Nat := q.map Int.toNat

/-! ## Pins, retained versions, drafts -/

/-- Every context of every core. -/
def allCtxs (s : State) : List Ctx := (allCores s).flatMap fun c => c.ctxs.toList

/-- Some context pins the version, or a retain holds it. -/
def versionHeld (s : State) (o : Obj) (v : Nat) : Bool :=
  o.retains.contains v || (allCtxs s).any fun c => c.pins.any fun p => p.obj == o.key && p.version == v

/-- R221: a draft opened on the current version; an expert buffer's starts empty (R229). -/
def openDraft (routed : Bool) (o : Obj) : Obj :=
  let st := if o.kind = .expert then ⟨[], []⟩ else (versionStore o o.current).getD ⟨[], []⟩
  { o with
    draft := some ⟨o.current, st, [], none, routed, []⟩
    draftNo := (o.draftNo + 1) % 2 ^ 16
    started := false
    marks := if o.kind = .expert then 0 else o.marks
    bufRows := if o.kind = .expert then 0 else o.bufRows
    bufPages := if o.kind = .expert then 1 else o.bufPages }

end Sys2Proof.Machine
end

