-- ==== Sys2Proof/Machine/Storage.lean ====
section
/-!
DEFINITION. What storage takes in the tiers (R2, R262, R265, R307, R333, R396), the shootdown of translations when storage moves or is
freed (R302, R373), and the end of versions that nothing holds (R222, R223).
-/

namespace Sys2Proof.Machine

/-! ## Pages and their copies (R262, R307) -/

/-- R307: the chunks of a page that a version's draft, or the open draft, has written. -/
def writtenIn (o : Obj) (page : Nat) : List Nat :=
  (((o.versions.flatMap fun v => v.origin.map (·.1)) ++ o.draft.elim [] (·.written)).eraseDups).filter fun c =>
    c * Config.chunkBytes / Config.pageBytes == page

/-- R307: the copies of a chunk: one for each version that a retained version takes it from, and the open draft's own. -/
def chunkCopies (o : Obj) (chunk : Nat) : Nat :=
  ((o.versions.map fun v => originOf o v chunk).eraseDups).length + b2n (o.draft.any fun d => d.written.contains chunk)

/-- R262, R307: the pages of storage that a page of an object takes, as its chunks have copies. -/
def pageCopies (o : Obj) (page : Nat) : Nat := ((writtenIn o page).map (chunkCopies o)).foldl Nat.max 1

/-- The pages of storage that some pages of an object take. -/
def copiesOf (o : Obj) (pages : List Nat) : Nat := (pages.map (pageCopies o)).sum

/-- A shard's storage lies in this package's tiers. -/
def inTiers (s : State) (o : Obj) (n : Nat) : Bool :=
  o.present && !o.loc.spilled.contains n && o.loc.materialised && shardPackage o n == s.package && o.kind != .host

/-- The shards of an object that lie in the tiers of a die of this package. -/
def tierShards (s : State) (o : Obj) (die : Nat) : List Nat :=
  (List.range (shardCount o)).filter fun n => inTiers s o n && shardDie o n == die

/-- A movement of the page towards a tier is pending. -/
def movingTo (s : State) (k : ObjKey) (near : Bool) (p : Nat) : Bool := s.moves.any fun m => m.obj == k && m.page == p && m.near == near

/-- The pages of an object that take room in the near tier of a die, those that are on their way there among them. -/
def nearOf (s : State) (o : Obj) (die : Nat) : List Nat :=
  ((tierShards s o die).flatMap (shardPages o)).filter fun p => !o.farPages.contains p || movingTo s o.key true p

/-- The pages of an object that take room in the far tier of a die, those that are on their way there among them. -/
def farOf (s : State) (o : Obj) (die : Nat) : List Nat :=
  ((tierShards s o die).flatMap (shardPages o)).filter fun p => o.farPages.contains p || movingTo s o.key false p

/-- The dies of the package. -/
def dies : List Nat := [0, 1, 2, 3]

/-- What an object's storage takes on each die. -/
def storageOf (s : State) (k : ObjKey) : List OldStorage :=
  (objAt s k).elim [] fun o => dies.map fun die => ⟨o.partition, die, copiesOf o (nearOf s o die), copiesOf o (farOf s o die)⟩

/-! ## The use of the tiers (R2, R265, R333, R396) -/

/-- R265: the near pages of a partition's objects on a die. -/
def nearPages (s : State) (part die : Nat) : List (ObjKey × Nat) :=
  (s.objects.filter fun o => o.partition == part).flatMap fun o => (nearOf s o die).map fun p => (o.key, p)

/-- R333: the near pages that the saved images of a partition's teams take on a die. -/
def imagePages (s : State) (part die : Nat) : Nat :=
  (((s.launches.filter fun l => l.partition == part).flatMap (·.teams)).map fun t =>
    t.image.elim 0 fun x => if x.die = die ∧ !x.far then x.pages else 0).sum

/-- R265: how much of a partition's near-tier quota on a die is taken: by objects, saved images, and old storage that stands. -/
def nearUse (s : State) (part die : Nat) : Nat :=
  ((s.objects.filter fun o => o.partition == part).map fun o => copiesOf o (nearOf s o die)).sum + imagePages s part die +
    ((s.shoots.flatMap (·.old)).map fun x => if x.partition = part ∧ x.die = die then x.near else 0).sum

/-- R396: the pages that the spill image of a shard takes in the far tier of this package. -/
def spillPages (s : State) (o : Obj) (n : Nat) : Nat :=
  if o.present && o.loc.materialised && shardPackage o n == s.package && o.kind != .host then copiesOf o (shardPages o n) else 0

/-- R396: the shards that have a spill image, those whose copy is under way among them. -/
def imagedShards (o : Obj) : List Nat := (o.loc.spilled ++ o.spilling).eraseDups

/-- R2: the pages taken in the far tier of the package: by objects, saved images, spill images, and old storage that stands. -/
def farUse (s : State) : Nat :=
  (s.objects.map fun o => (dies.map fun d => copiesOf o (farOf s o d)).sum + ((imagedShards o).map (spillPages s o)).sum).sum +
    ((s.launches.flatMap (·.teams)).map fun t => t.image.elim 0 fun x => if x.far then x.pages else 0).sum +
    ((s.shoots.flatMap (·.old)).map (·.far)).sum

/-- R2: n more pages fit in the far tier. -/
def farRoom (s : State) (n : Nat) : Bool := decide (farUse s + n ≤ Config.farTierPages)

/-- R265: the near-tier quota of a partition on a die, in pages. -/
def quotaOf (s : State) (part die : Nat) : Nat := (partitionBy s part).elim 0 fun p => p.quotas.getD die 0

/-! ## Shootdowns (R302, R373) -/

/-- The cluster on which a core lies. -/
def coreCluster (c : CoreRec) : Option Nat := c.place.map (· / 28)

/-- R302, R373: the entries that a shootdown removes. -/
def shotDown (x : Shoot) (e : Xlat) : Bool :=
  e.obj == x.obj && x.tag.all (· == (e.draft, e.tag)) && x.shard.all (· == e.shard) && decide (e.base < x.limit) &&
    (x.base == 0 || decide (x.base < e.limit))

/-- R373: the clusters on the sharer list: whose Handle Resolution Unit, or a core's micro-cache, holds such an entry. -/
def sharerList (s : State) (x : Shoot) : List Nat :=
  (s.xlats.filter (shotDown x)).map (·.cluster) ++
    (allCores s).filterMap fun c => if c.micro.any (shotDown x) then coreCluster c else none

/-- What an object's storage takes in one state beyond what it takes in another. -/
def freedStorage (s t : State) (k : ObjKey) : List OldStorage :=
  let now := storageOf t k
  (storageOf s k).map fun x => (now.find? fun y => y.die == x.die).elim x fun y => { x with near := x.near - y.near, far := x.far - y.far }

/-- R373: a shootdown sent as storage that stood in s moves or goes in t: to the clusters that hold translations of it or whose
commands still read it (`users`, each with its cluster). With `stands`, the old storage stands until the last acknowledgement; with
nothing to remove it goes at once. -/
def sendShoot (s t : State) (x : Shoot) (users : List (Nat × Nat)) (stands : Bool) : State :=
  let clusters := (sharerList t x ++ users.map (·.2)).eraseDups
  if clusters.isEmpty then t
  else
    { t with nextId := t.nextId + 1
             shoots := t.shoots ++
               [{ x with id := t.nextId, old := if stands then freedStorage s t x.obj else [], clusters := clusters, cmds := users.map (·.1) }] }

/-- What a shootdown names, before it is sent. -/
def shootOf (k : ObjKey) (tag : Option (Bool × Nat)) (shard : Option Nat) (base limit : Nat) : Shoot :=
  ⟨0, k, tag, shard, base, limit, [], [], []⟩

/-- R264, R373: a page's tier changed, and its translations shot down. The page that it leaves is not waited for (log entry 57). -/
def putPage (s : State) (k : ObjKey) (p : Nat) (far : Bool) : State :=
  let t := modObj s k fun o => { o with farPages := o.farPages.filter (· != p) ++ if far then [p] else [] }
  let b := (p - shardPage (pageShard p)) * Config.pageBytes
  sendShoot s t (shootOf k none (some (pageShard p)) b (b + Config.pageBytes)) [] false

/-! ## Versions that nothing holds (R222, R223) -/

/-- R222, R229, R262, R373: an older version no longer retained: its cached lines go, its expert-buffer pages return to their pool, and
its translations are shot down before its storage is used again. -/
def dropVersion (k : ObjKey) (s : State) (v : Version) : State :=
  let die := (objAt s k).elim 0 (·.loc.die)
  let t := { modObj s k fun o => { o with versions := o.versions.filter fun x => x.num != v.num } with
    lines := s.lines.filter fun l => l.obj != k || l.version != v.num
    pools := s.pools.modify die (· + v.pages) }
  sendShoot s t (shootOf k (some (false, v.num)) none 0 (shardBase 1)) [] true

/-- R222, R223: the older versions of an object that nothing holds are no longer retained. -/
def pruneVersions (s : State) (k : ObjKey) : State :=
  (objAt s k).elim s fun o =>
    (o.versions.filter fun v => v.num != o.current && !versionHeld s o v.num).foldl (dropVersion k) s

/-! ## The places of shards (R229, R262, R300) -/

/-- The package and the die of a shard changed. -/
def setShardHome (o : Obj) (n : Nat) (p : Nat × Nat) : Obj :=
  if n = 0 then { o with loc := { o.loc with package := p.1, die := p.2 } } else { o with shardMap := o.shardMap.set (n - 1) p }

/-- R229: the pages that an expert buffer has from its pool: its draft's and its retained versions'. -/
def buffersPages (o : Obj) : Nat := if o.kind = .expert then o.bufPages + (o.versions.map (·.pages)).sum else 0

/-- R229: an expert buffer's pages change pools with its home die; none when the new die's pool has too few. -/
def movePools (s : State) (o : Obj) (p : Nat × Nat) : Option State :=
  let n := buffersPages o
  let back := if o.loc.package = s.package then s.pools.modify o.loc.die (· + n) else s.pools
  if p.1 ≠ s.package then some { s with pools := back }
  else if back.getD p.2 0 < n then none
  else some { s with pools := back.modify p.2 (· - n) }

/-- R262: the cached lines of a shard. -/
def lineOf (k : ObjKey) (n : Nat) (l : CacheLine) : Bool := l.obj == k && l.line * 128 / shardBase 1 == n

/-- R229, R262, R300: a shard's storage gets a place: the cached lines of its former one go, and an expert buffer's pages change pools;
none while the new die's pool has too few. -/
def rehome (s : State) (k : ObjKey) (n : Nat) (p : Nat × Nat) : Option State :=
  (objAt s k).bind fun o =>
    if shardHome o n = p then some s
    else
      (if n = 0 then movePools s o p else some s).map fun t =>
        { modObj t k fun o => setShardHome o n p with lines := t.lines.filter fun l => !lineOf k n l }

end Sys2Proof.Machine
end

