-- ==== Sys2Proof/Machine/Integrity.lean ====
section
/-!
DEFINITION. The addresses of what readers of an object meet (R301), the bytes of an object in storage order (R232), and uncorrectable data
on the way of a reader (R277, R307, R371).
-/

namespace Sys2Proof.Machine

/-- The addresses of what holds an element, first and last, and of its scale. -/
def pointAddrs (o : Obj) (q : List Nat) : List Nat := elemEnds o q ++ if o.scaled then [scaleAddr o q] else []

/-- R307, R371: the location in the tiers of a chunk of a published version: the version whose draft wrote it. -/
def versionLoc (o : Obj) (v chunk : Nat) : BadLoc :=
  .tier o.key ((o.versions.find? fun x => x.num == v).elim v fun x => originOf o x chunk) chunk

/-- R307, R371: the location of a chunk of a view: an open draft's own, or that of the version which it aliases. -/
def viewLoc (o : Obj) (version : Option Nat) (chunk : Nat) : BadLoc :=
  match version, o.draft with
  | some v, _ => versionLoc o v chunk
  | none, some d => if d.written.contains chunk then .draftChunk o.key chunk else versionLoc o d.base chunk
  | none, none => versionLoc o o.current chunk

/-- R277: a coded block that holds an address of the expanded storage and is no code of its elements. -/
def badBlock (o : Obj) (st : Store) (a : Nat) : Bool :=
  let b := a / (elemSize o.fmt.toNat * blockElems)
  match st.blocks[b]? with
  | none => false
  | some x => (decodeBlock (codecOf o true) (blockRange o b).length x).isNone

/-- The store of a view. -/
def viewStore (o : Obj) (version : Option Nat) : Store :=
  match version, o.draft with
  | some v, _ => (versionStore o v).getD ⟨[], []⟩
  | none, some d => d.store
  | none, none => ⟨[], []⟩

/-- R307: the chunks of a view's storage that hold the elements at some addresses. -/
def viewChunks (o : Obj) (version : Option Nat) (addrs : List Nat) : List Nat :=
  ((heldAddrs o (viewStore o version) addrs).map chunkAt).eraseDups

/-- R262, R274: the lines of a view that hold the elements at some addresses. -/
def viewLines (o : Obj) (version : Option Nat) (addrs : List Nat) : List Nat :=
  ((lineAddrs o (viewStore o version) addrs).map (· / 128)).eraseDups

/-- R277, R371: an uncorrectable error at one of the addresses that a reader of a view meets: the subcause. -/
def badView (s : State) (o : Obj) (version : Option Nat) (addrs : List Nat) : Option Nat :=
  if !s.bad.isEmpty && (viewChunks o version addrs).any fun x => s.bad.contains (viewLoc o version x) then some 1
  else if !s.bad.isEmpty && version.isNone && (viewLines o version addrs).any fun a => s.bad.contains (.dirtyLine o.key a) then some 2
  else if o.compressed && addrs.any (badBlock o (viewStore o version)) then some 1
  else none

/-- Addresses of the expanded storage that meet all of an object's: the start of every chunk, or of every coded block. -/
def wholeAddrs (o : Obj) : List Nat :=
  if o.compressed then (List.range ((elemCount o + blockElems - 1) / blockElems)).map (· * (elemSize o.fmt.toNat * blockElems))
  else (List.range (shardCount o)).flatMap fun n =>
    (List.range ((shardBytes o n + Config.chunkBytes - 1) / Config.chunkBytes)).map fun i => shardBase n + i * Config.chunkBytes

/-! ## Bytes in storage order (R232) -/

/-- The address, in the storage of an object, of the byte at an offset: the shards' storage one after the other. -/
def netAddr (o : Obj) (off : Nat) : Nat → Nat → Option Nat
  | 0, _ => none
  | left + 1, n =>
    if off < shardBytes o n then some (shardBase n + off) else netAddr o (off - shardBytes o n) left (n + 1)

/-- The bytes that an offset may reach. -/
def netExtent (o : Obj) : Nat := ((List.range (shardCount o)).map (shardBytes o)).foldl (· + ·) 0

/-- R232: the addresses of n bytes placed from an offset upward. -/
def placedAddrs (o : Obj) (off n : Nat) : List Nat := (List.range n).filterMap fun i => netAddr o (off + i) (shardCount o) 0

/-- The first n bytes of a store, shard by shard. -/
def firstBytes (o : Obj) (st : Store) (n : Nat) : List Byte :=
  let m := storeBytes o st
  if shardCount o = 1 then readBytes m 0 n else (placedAddrs o 0 n).map (readByte m)

end Sys2Proof.Machine
end

