-- ==== Sys2Proof/Machine/Commands.lean ====
section
/-!
DEFINITION. The life of an engine command (R206): its kind (R194), its issue with reservation (R213), adoption (R198) and
withholding (R195), the delivery of its completion word (R190, R191, R197), and the atomic update that tiles and objects
share (R180, R226).
-/

namespace Sys2Proof.Machine

/-! ## Kinds and registers -/

/-- R208: the operations that name no handle for resolution: nothing of theirs is checked. -/
def namesNoHandle : Instr → Bool
  | .xref .. | .csnap .. | .cread .. | .fcbindUn .. | .fcstat .. | .svc .. => true
  | .txfer .. | .txferRow .. | .txferAll .. => true
  | _ => false

/-- R191: the completion word. -/
def completionWord (r : Result) : BitVec 64 :=
  BitVec.ofNat 64 (r.status % 256 * 2 ^ 56 + r.detail % 2 ^ 24 * 2 ^ 32 + r.count % 2 ^ 32)

/-- A result with a status, detail and count alone. -/
def plainResult (status detail count : Nat) : Result := ⟨status, detail, count, [], none, none, 0⟩

/-- The command's writes into one copy of the registers, which end its registers' pending state. -/
def writeResult (c : Cmd) (x : Result) (r : Regs) : Regs :=
  let s0 := r.s.setIfInBounds c.token (completionWord x)
  let s1 := (x.follow.zipIdx (c.token + 1)).foldl (fun v p => v.setIfInBounds p.2 p.1) s0
  let m1 := c.writes.foldl (fun v w => match w, x.mask with | .m k, some b => v.setIfInBounds k b | _, _ => v) r.m
  let y1 := c.writes.foldl (fun v w => match w, x.trace with | .y k, some b => v.setIfInBounds k b | _, _ => v) r.y
  { r with s := s1, m := m1, y := y1, fflags := r.fflags ||| x.flags,
           pending := r.pending.filter fun w => !c.writes.contains w }

/-- R98, R190, R197, R198: a command's completion: discarded for an exited context, kept by an orphan, and otherwise
written into the live registers and, when the command was issued in or before the last checkpoint, the shadow. -/
def deliver (s : State) (c : Cmd) (x : Result) : State :=
  if c.discarded then dropCmd s c.id
  else if c.orphan && !c.adopted then modCmd s c.id fun d => { d with result := some x, done := true }
  else
    let s1 := modCtxOf s c.core c.ctx fun k =>
      { k with live := writeResult c x k.live, shadow := if c.inRegion then k.shadow else writeResult c x k.shadow,
               silence := 0 }
    if c.inRegion && c.kind == .free then modCmd s1 c.id fun d => { d with result := some x, done := true }
    else dropCmd s1 c.id

/-- The result of a performed command, its completion word not yet written. -/
def setResult (s : State) (id : Nat) (x : Result) : State := modCmd s id fun c => { c with result := some x }

/-- R194, R196: the scratchpad atomics that a core's contexts withhold; each draws on the core's commands in flight. -/
def heldAtoms (c : CoreRec) : Nat :=
  (c.ctxs.toList.map fun x => (x.withheld.filter fun h => match h with | .atom .. => true | _ => false).length).sum

/-- R181, R193: the commands of a core whose slots wait: each counts from its issue. -/
def waitingCmds (c : CoreRec) : Nat :=
  (c.ctxs.toList.map fun x => (x.waiting.filter fun w => (tokenOf w.op).isSome).length).sum

/-- R193, R196: commands in flight of a core. -/
def inFlight (s : State) (core : Nat) : Nat :=
  (s.cmds.filter fun c => c.core == core && !c.done).length + (coreOf s core).elim 0 fun c => heldAtoms c + waitingCmds c

/-! ## Issue -/

/-- The values that every capture takes: `m0`, the seed and `ckcount`. -/
def capture0 (s : State) : Capture :=
  ⟨0, 0, 0, Vector.replicate 6 0, (regs s).m[0], [], [], [], 0, 0, 0, false, Reset.regs.y[0], (regs s).srseed,
    (regs s).ckcount, []⟩

/-- A capture of the acting context: `m0` and the seed only where the operation reads them. -/
def captureWith (s : State) (mask seed : Bool) : Capture :=
  let c := capture0 s
  { c with mask := if mask then c.mask else 0, seed := if seed then c.seed else 0 }

/-- A tile captured with its header (R195), its bytes those of the tile now. -/
def captureTile (s : State) (t : Nat) (c : Capture) : Capture :=
  let x := tileOf (frame s) t
  { c with tile := tileMem (frame s) t, rows := x.rows.toNat, rowbytes := x.rowbytes.toNat, fmt := x.fmt, scaled := x.scaled }

/-- R198: equal captured register values. -/
def sameRegs (a b : Capture) : Bool :=
  a.handle == b.handle && a.source == b.source && a.shape == b.shape && a.tuple == b.tuple && a.mask == b.mask &&
    a.args == b.args && a.seed == b.seed

/-- R198: the earliest orphan of the acting context that the command may adopt. -/
def adoptable (s : State) (op : Instr) (cap : Capture) : Option Cmd :=
  s.cmds.find? fun c =>
    c.of s.core.id (localNo s) && c.kind == .free && c.orphan && !c.adopted && !c.discarded && c.op == op && sameRegs c.cap cap

/-- Registers made pending in the acting context. -/
def addPending (s : State) (ws : List RegName) : State := modLive s fun r => { r with pending := r.pending ++ ws }

/-- R198: an orphan adopted; its word is taken at once when it has completed. -/
def adopt (s : State) (c : Cmd) : State :=
  let d := { c with adopted := true, index := BitVec.ofNat 32 (ownIndex s), inRegion := true }
  let s1 := addPending (modCmd s c.id fun _ => d) c.writes
  match c.done, c.result with
  | true, some x => deliver s1 d x
  | _, _ => s1

/-- A new command of the acting context. -/
def newCmd (s : State) (op : Instr) (token : Nat) (cap : Capture) (writes : List RegName) : Cmd where
  id := s.nextId
  core := s.core.id
  ctx := localNo s
  op := op
  kind := kindOf op
  index := BitVec.ofNat 32 (ownIndex s)
  token := token
  writes := writes
  cap := cap
  resolved := namesNoHandle op
  released := kindOf op == .free || kindOf op == .transfer
  order := s.nextId
  reserved := false
  result := none
  inRegion := true
  orphan := false
  adopted := false
  done := false
  discarded := false

/-- A command of the acting context put on record, its registers pending. -/
def putCmd (s : State) (c : Cmd) : State := addPending { s with nextId := s.nextId + 1, cmds := s.cmds ++ [c] } c.writes

/-- R195, R100: entries of the withholding buffer in use. -/
def heldEntries (c : Ctx) : Nat :=
  (c.withheld.filter fun h => match h with | .cmd _ e => e | .atom _ _ _ _ _ _ e => e | .fullBit _ _ => false).length

/-- An effect withheld by the acting context. -/
def withhold (s : State) (h : Held) : State := modCtx s fun c => { c with withheld := c.withheld ++ [h] }

/-- R187: the destination tile of a command has been read in the region: before its bundle, or, by a slot that waited, before it
retires (log entry 133). -/
def destViolation (s : State) (op : Instr) : Option Nat :=
  (destTile op).filter fun t => (tileOf (frame s) t).readBits &&& ctxBit (localNo s) != 0

/-- R206, R213: a command refused at issue: it completes at once, and stays on record until the next checkpoint (R198). -/
def refuseAtIssue (s : State) (c : Cmd) (x : Result) : State :=
  modCtx (putCmd s { c with resolved := true, result := some x, done := true }) fun k =>
    { k with live := writeResult c x k.live, silence := 0 }

/-- R206, R213: a free command issued: its tile reserved, or refused with 0x10 at once when it is not to be had. -/
def issueFree (s : State) (c : Cmd) : State :=
  match destTile c.op with
  | none => putCmd s c
  | some t =>
    if (tileOf (frame s) t).full || (tileOf (frame s) t).reserved then refuseAtIssue s c (plainResult 0x10 0 0)
    else modTile (putCmd s { c with reserved := true }) t fun x => { x with reserved := true }

/-- R206: an ENG command issued by the acting context: adoption first (R198), then the region rule (R187), then the
withholding buffer, whose 65th entry is a region overflow (R100), or the engines. With 64 commands of the core in flight
the slot waits (R193). -/
def issueCmd (s : State) (op : Instr) (token : Nat) (cap : Capture) : Out :=
  let c := newCmd s op token cap (writesOf op token cap.shape)
  let k := kindOf op
  match adoptable s op cap with
  | some d => .next (adopt s d)
  | none =>
    match destViolation s op with
    | some t => trapRegion s 7 0x01 t
    | none =>
      if k = .withheld ∧ !inCheckpoint s ∧ Config.withholding ≤ heldEntries (curCtx s) then trapOverflow s 7 0x02
      else if Config.inFlight ≤ inFlight s s.core.id then .next (addWait s 7 op)
      else if k = .free then .next (issueFree s c)
      else .next (withhold (putCmd s c) (.cmd s.nextId (k == .withheld && !inCheckpoint s)))

/-! ## The atomic update (R180, R226) -/

/-- Minimum or maximum of two codes of an integer format. -/
def minMaxInt (signed max : Bool) (w x y : Nat) : Nat :=
  if (intVal signed w x < intVal signed w y) == max then y else x

/-- R180, R226: the new element and the flags of an atomic of a format: 0 add, 1 min, 2 max, 3 and, 4 or, 5 xor, 6 swap,
7 compare-and-swap. -/
def atomicNew (code op old operand expected : Nat) : Nat × Flags :=
  let w := elemBits code
  let a := old % 2 ^ w
  let b := operand % 2 ^ w
  match op, floatFmt code with
  | 0, some f => addRound f nearestEven 0 (decodeFloat f a) (decodeFloat f b)
  | 1, some f => minMaxCode f false a b
  | 2, some f => minMaxCode f true a b
  | 0, none => ((a + b) % 2 ^ w, 0)
  | 1, none => (minMaxInt (intFmt code).1 false w a b, 0)
  | 2, none => (minMaxInt (intFmt code).1 true w a b, 0)
  | 3, _ => (a &&& b, 0)
  | 4, _ => (a ||| b, 0)
  | 5, _ => (a ^^^ b, 0)
  | 6, _ => (b, 0)
  | _, _ => (if a = expected % 2 ^ w then b else a, 0)

/-- R76: the format of a tile atomic's type. -/
def tatomCode (y : Nat) : Nat := [0xC, 0xD, 0x1, 0x0].getD y 0xC

/-- R180: a released tile atomic performed on the acting core. It reads the newest value of its element, and every context
that passes a later barrier sees it (R204). -/
def performAtom (s : State) (tile op ty : Nat) (operand index expected : Nat) : State :=
  let code := tatomCode ty
  let n := elemBits code / 8
  let a := Config.tileBytes * tile + n * index
  let x := atomicNew code op (readNat s.core.scratch a n) operand expected
  raise (modCore s (slotWrite (localNo s) 0 0 a (bytesOfNat n x.1))) x.2

end Sys2Proof.Machine
end

