-- ==== Sys2Proof/Machine/NetOps.lean ====
section
/-!
DEFINITION. The start of a network send (R231, R352 to R355) and of a service call (R233, R377).
-/

namespace Sys2Proof.Machine

/-- The context of a command. -/
def cmdCtx (s : State) (c : Cmd) : Ctx := (ctxOf s c.core c.ctx).getD Reset.ctx
/-- The launch of a command. -/
def cmdLaunch (s : State) (c : Cmd) : Option Launch := (coreOf s c.core).bind fun d => launchBy s d.launch
/-- The partition of a command. -/
def cmdPart (s : State) (c : Cmd) : Nat := (cmdLaunch s c).elim 0 (·.partition)
/-- The team of a command. -/
def cmdTeam (s : State) (c : Cmd) : Option Team := (coreOf s c.core).bind fun d => teamBy s d.launch d.team
/-- The cluster on which a command's team is placed. -/
def cmdCluster (s : State) (c : Cmd) : Option Nat := ((cmdTeam s c).bind (·.place)).map (·.cluster)
/-- R373, R396: the command resolved before a shootdown of the object and reads its old storage. -/
def readsOld (s : State) (c : Cmd) (k : ObjKey) : Bool := s.shoots.any fun x => x.obj == k && x.cmds.contains c.id

/-- R396: the shards of an object whose old storage a command reads, none for the whole object. -/
def oldShards (s : State) (c : Cmd) (k : ObjKey) : List (Option Nat) :=
  (s.shoots.filter fun x => x.obj == k && x.cmds.contains c.id).map (·.shard)

/-- An object as a command finds it when it is performed: with the old storage, when it resolved before that was shot down; of a spill,
the old storage of the shard that was switched. -/
def objFor (s : State) (c : Cmd) (k : ObjKey) : Option Obj :=
  if readsOld s c k then
    (s.objects.find? fun o => o.key == k).map fun o =>
      let old := oldShards s c k
      let whole := old.contains none
      { o with loc := { o.loc with spilled := o.loc.spilled.filter fun n => !(whole || old.contains (some n))
                                   moving := o.loc.moving && !whole, lent := o.loc.lent && !whole } }
  else objAt s k

/-- The object of a command's handle. -/
def cmdObj (s : State) (c : Cmd) : Option Obj := objFor s c (handleKey c.cap.handle)

/-! ## Sends -/

/-- R353: bytes of the endpoint record. -/
def endpointBytes : Nat := 48

/-- R353: the endpoint record as the command's context sees it. -/
def endpointRecord (s : State) (c : Cmd) (o : Obj) : List Byte := firstBytes o (viewOf o (cmdCtx s c)).2 endpointBytes

/-- R208, R371: the endpoint record cannot be read: a shard of it is absent, or its bytes are uncorrectable. -/
def recordWaits (s : State) (c : Cmd) (o : Obj) : Bool :=
  let v := (viewOf o (cmdCtx s c)).1
  let addrs := placedAddrs o 0 endpointBytes
  absentAny s o v (cmdCluster s c) ((addrs.map (· / shardBase 1)).eraseDups) || (badView s o v addrs).isSome

/-- A little-endian field of a record. -/
def recordField (bs : List Byte) (off n : Nat) : Nat := natOfBytes ((bs.drop off).take n)

/-- R352: the payload of a packet. -/
def packetBytes : Nat := 4096

/-- R354: the ports that send and receive. -/
def enabledPorts (s : State) : List Nat := (List.range 4).filter fun p => (s.ports[p]?).elim false (·.enabled)

/-- R355: the enabled port after another, in round-robin order. -/
def portAfter (enabled : List Nat) (p : Nat) : Nat := (enabled.find? fun q => decide (p < q)).getD (enabled.headD 0)

/-- A connection's record; one that nothing has used starts so that port 0 and entropy value 0 come first. -/
def connBy (s : State) (id : Nat) : Conn := (s.conns.find? fun c => c.id == id).getD ⟨id, 3, 255, [], 0, 0⟩

/-- A connection changed. -/
def modConn (s : State) (id : Nat) (f : Conn → Conn) : State :=
  { s with conns := (s.conns.filter fun c => c.id != id) ++ [f (connBy s id)] }

/-- R354, R355: one packet of a send put on the next port, with the next entropy value. -/
def sendPacket (s : State) (x : Send) (num : Nat) : State :=
  let k := connBy s x.conn
  let port := portAfter (enabledPorts s) k.lastPort
  let ent := (k.lastEntropy + 1) % 256
  let off := num * packetBytes
  let bytes := readBytes x.payload off (Nat.min packetBytes (x.length - off))
  let s1 := modConn s x.conn fun c => { c with lastPort := port, lastEntropy := ent }
  { s1 with portCounts := s1.portCounts.modify port fun n => (n.1 + 1, n.2), wire := s1.wire ++ [⟨port, ent, x.conn, x.job, x.resource, x.offset + off, bytes⟩] }

/-- R231, R355: a send started: its packets sprayed in offset order, or the command's result when nothing is sent. -/
def startSend (s : State) (c : Cmd) : State :=
  let off := (c.cap.args.headD 0).toNat
  let len := c.cap.rows * c.cap.rowbytes
  match cmdObj s c with
  | none => setResult s c.id (plainResult 0x13 0 0)
  | some o =>
    if (enabledPorts s).isEmpty then setResult s c.id (plainResult 0x22 0 0)
    else if recordWaits s c o then s
    else if 2 ^ 48 ≤ off then setResult s c.id (plainResult 0x21 0 0)
    else if len = 0 then setResult s c.id (plainResult 0x00 0 0)
    else
      let r := endpointRecord s c o
      let nums := List.range ((len + packetBytes - 1) / packetBytes)
      let x : Send := ⟨c.id, recordField r 0x00 16, recordField r 0x10 3, recordField r 0x14 3, off, recordField r 0x18 1,
        c.cap.tile, len, nums.map fun n => ⟨n, false, 0⟩⟩
      pulse (nums.foldl (fun t n => sendPacket t x n) { s with sends := s.sends ++ [x] }) c.core c.ctx

/-! ## Service calls -/

/-- R377: the services that Rilsia offers. -/
def serviceNumbers : List Nat := [0, 16, 17, 18, 19, 20, 32, 48, 49, 50, 64, 65, 66, 67, 68, 80, 96]

/-- R233, R381, R382: a released `svc` put into its partition's queue with its call id; an unknown service answers 0x24. -/
def callService (s : State) (c : Cmd) (n : Nat) : State :=
  if serviceNumbers.contains n then
    match coreOf s c.core, cmdLaunch s c with
    | some d, some l =>
      let ix := (cmdCtx s c).index
      let id := (l.id, d.team, ix, c.cap.ckcount.toNat + 1)
      { s with nextId := s.nextId + 1
               calls := s.calls ++ [⟨s.nextId, l.partition, l.cls, n, c.cap.args, .command c.id, some id⟩] }
    | _, _ => s
  else setResult s c.id (plainResult 0x24 n 0)

end Sys2Proof.Machine
end

