-- ==== Sys2Proof/Machine/Release.lean ====
section
/-!
DEFINITION. What step 2 of R98 does with the withheld effects of a region: routing counters (R227, R230), reservations at
release (R213), sends (R231), service calls (R233), tile atomics (R180) and full bits (R177).
-/

namespace Sys2Proof.Machine

/-- R230: the value of a routing counter. -/
def counterGet (t : Team) (j : Nat) : Nat := ((t.counters.find? fun c => c.1 == j).elim 0 fun c => c.2.toNat)

/-- R230: k added to a routing counter as one step, with saturation. -/
def counterAdd (j k : Nat) (t : Team) : Team :=
  let n := counterGet t j + k
  let x : BitVec 32 := if n ≤ 0xFFFFFFFF then BitVec.ofNat 32 n else 0xFFFFFFFF
  { t with
    counters := if n = 0 then t.counters else (t.counters.filter fun c => c.1 != j) ++ [(j, x)]
    sticky := if n ≤ 0xFFFFFFFF ∨ t.sticky.contains j then t.sticky else t.sticky ++ [j] }

/-- R230: the 1,056 bytes of the counters and the sticky bits. -/
def counterBytes (t : Team) : List Byte :=
  ((List.range 256).flatMap fun j => bytesOfNat 4 (counterGet t j)) ++
    (List.range 32).map fun b => BitVec.ofNat 8 (packLanes 1 ((List.range 8).map fun i => b2n (t.sticky.contains (8 * b + i))))

/-- The rows of a capture that its mask selects (R227). -/
def maskedRows (c : Capture) : List Nat := (List.range c.rows).filter fun i => bitOf c.mask.toNat i

/-- R227: the routing counter that a buffer names. -/
def bufferCounter (o : Obj) : Nat := fieldOf o.geometry.toNat 8 8

/-- R213, R230, R257: a tile reserved at release, or the command refused with 0x10. -/
def reserveAtRelease (s : State) (c : Cmd) (t : Nat) : State :=
  if (tileOf s.core t).full || (tileOf s.core t).reserved then setResult s c.id (plainResult 0x10 0 0)
  else modCmd (modTile s t fun x => { x with reserved := true }) c.id fun d => { d with reserved := true }

/-- R230: the snapshot of `csnap`, taken with the clearing of the counters in one step. -/
def snapshotCounters (s : State) (c : Cmd) : State :=
  match cmdBy s c.id, teamOf s with
  | some d, some t =>
    if d.reserved then
      modTeam (modCmd s c.id fun e => { e with cap := { e.cap with next := cellsOf 0 (counterBytes t) } })
        fun t => { t with counters := [], sticky := [] }
    else s
  | _, _ => s

/-- What the release of a command does at once, before its engine works. -/
def releaseEffect (s : State) (c : Cmd) : State :=
  match c.op with
  | .xsend .. | .xsendLast .. =>
    match objAt s (handleKey c.cap.handle) with
    | some o => modTeam s (counterAdd (bufferCounter o) (maskedRows c.cap).length)
    | none => s
  | .csnap _ t _ => snapshotCounters (reserveAtRelease s c t.toNat) c
  | .rtake _ t _ _ _ => reserveAtRelease s c t.toNat
  | .nsend .. => startSend s c
  | .svc _ _ n => callService s c n.toNat
  | _ => s

/-- One withheld effect of the acting context released to its engine. -/
def releaseHeld (s : State) (h : Held) : State :=
  match h with
  | .cmd id _ =>
    match cmdBy s id with
    | some c =>
      releaseEffect { modCmd s id fun d => { d with released := true, order := s.nextId } with nextId := s.nextId + 1 } c
    | none => s
  | .atom t op ty o i e _ => performAtom s t op.toNat ty.toNat o.toNat i.toNat e.toNat
  | .fullBit t set => if set then setFull s t else clearFull s t

end Sys2Proof.Machine
end

