-- ==== Sys2Proof/Machine/Checkpoint.lean ====
section
/-!
DEFINITION. The sequencer's shared operations: control transfer and the ends of loop bodies (R90, R94 to R96), closing a
checkpoint region (R98), arrival at barriers (R103 to R105) and the end of a context (R107, R210, R260).
-/

namespace Sys2Proof.Machine

/-! ## The program counter -/

/-- The loop counter of a level. -/
def counterOf (r : Regs) (l : Nat) : BitVec 32 := r.n.getD l 0
/-- The loop-table entry of a level. -/
def loopOf (r : Regs) (l : Nat) : Loop := r.loops.getD l ⟨false, 0, 0⟩
/-- A loop-table entry made inactive. -/
def endLoop (r : Regs) (l : Nat) : Regs := { r with loops := r.loops.setIfInBounds l { loopOf r l with active := false } }

/-- R94: the innermost active body that ends at a bundle: the greatest first index among levels below n. -/
def innermostEnding (r : Regs) (idx : Nat) : Nat → Option Nat
  | 0 => none
  | l + 1 =>
    let best := innermostEnding r idx l
    let x := loopOf r l
    if x.active && x.last.toNat == idx then
      match best with
      | none => some l
      | some m => if (loopOf r m).first.toNat < x.first.toNat then some l else some m
    else best

/-- R94: the bodies that end at a bundle, evaluated innermost first: the registers after, and the jump back, if any. -/
def retireBodies (idx : Nat) : Nat → Regs → Regs × Option Nat
  | 0, r => (r, none)
  | fuel + 1, r =>
    match innermostEnding r idx 6 with
    | none => (r, none)
    | some l =>
      let n := counterOf r l
      let n' := if n = 0 then 0 else n - 1
      let r' := { r with n := r.n.setIfInBounds l n' }
      if n' = 0 then retireBodies idx fuel (endLoop r' l) else (r', some (loopOf r l).first.toNat)

/-- The bundle's SEQ slot has set the program counter. -/
def markPcSet (s : State) : State := { s with issue := s.issue.map fun i => { i with pcSet := true } }

/-- The acting context's next bundle is `next`; an index past the code section is the bounds trap "branch target" (R90). -/
def goTo (s : State) (next : Nat) : State :=
  if codeBundles s ≤ next then takeTrap s 0x06 0 0x02 (BitVec.ofNat 64 next)
  else markPcSet (modLive s fun r => { r with pc := BitVec.ofNat 32 next })

/-- The end of the acting bundle with `fall` as the index that follows it unless a body jumps back (R94). -/
def retireTo (s : State) (fall : Nat) : State :=
  let x := retireBodies (ownIndex s) 6 (curCtx s).live
  goTo (modLive s fun _ => x.1) (x.2.getD fall)

/-- The acting bundle retires without a transfer. -/
def advance (s : State) : State := retireTo s (ownIndex s + 1)

/-- R90: bodies that a jump to the target leaves. -/
def leaveBodies (target : Nat) (r : Regs) : Regs :=
  { r with loops := r.loops.map fun x =>
      if x.active && (decide (target < x.first.toNat) || decide (x.last.toNat < target)) then { x with active := false } else x }

/-- R95: bodies that a taken `call` or `ret` in their last bundle ends. -/
def endBodiesAt (idx : Nat) (r : Regs) : Regs :=
  { r with loops := r.loops.map fun x => if x.active && x.last.toNat == idx then { x with active := false } else x }

/-- R90: a taken transfer, with what it does to the loop table. -/
def transfer (s : State) (target : Int) (loops : Nat → Regs → Regs) : State :=
  if target < 0 ∨ (codeBundles s : Int) ≤ target then takeTrap s 0x06 0 0x02 (BitVec.ofInt 64 target)
  else goTo (modLive s (loops target.toNat)) target.toNat

/-- R90: a jump. -/
def jump (s : State) (target : Int) : State := transfer s target leaveBodies

/-- R90, R95: the transfer of `call` and `ret`. -/
def jumpCall (s : State) (target : Int) : State := transfer s target fun _ => endBodiesAt (ownIndex s)

/-! ## Closing a region (R98) -/

/-- The commands whose resolution a checkpoint waits for (R208): those of the region, adopted orphans among them. -/
def regionResolved (s : State) : Bool :=
  s.cmds.all fun c => !(c.of s.core.id (localNo s) && c.inRegion && (!c.orphan || c.adopted)) || c.resolved

/-- R177: no full-bit change of the bundle waits for a landing. -/
def fullBitsReady (s : State) : Bool :=
  (curCtx s).withheld.all fun h => match h with | .fullBit t _ => !(tileOf s.core t).reserved | _ => true

/-- R98, R208: steps 2 to 5 may begin. -/
def closable (s : State) : Bool := (curCtx s).waiting.isEmpty && regionResolved s && fullBitsReady s

/-- Step 2 of R98: the withheld effects released in issue order; marked refusals removed (R228). -/
def releaseRegion (s : State) : State :=
  let s1 := (curCtx s).withheld.foldl releaseHeld (modCtx s fun c => { c with withheld := [] })
  modCtx s1 fun c =>
    { c with refusals := c.refusals.filter fun r => !r.marked
             overflow := c.overflow && !c.overflowMarked, overflowMarked := false }

/-- R198: at a checkpoint the region's commands are of the past; orphans not adopted lapse. -/
def lapseCmd (core ctx : Nat) (c : Cmd) : Option Cmd :=
  if !c.of core ctx then some c
  else if c.done then none
  else if c.orphan && !c.adopted then some { c with orphan := false, discarded := true, inRegion := false }
  else some { c with orphan := false, adopted := false, inRegion := false }

/-- R382: the journal entries of the acting context whose replies have been written go. -/
def pruneJournal (s : State) : State :=
  let waiting := s.calls.filterMap (·.callId)
  modPartition s (actingPartition s) fun p =>
    { p with journal := p.journal.filter fun j =>
        !(j.callId.1 == s.core.launch && j.callId.2.1 == s.core.team && j.callId.2.2.1 == (curCtx s).index) ||
          waiting.contains j.callId }

/-- Step 3 of R98: read and written bits, with the plane bits of R154. -/
def clearCheckpointBits (c : CoreRec) (x : Nat) : CoreRec :=
  { clearRegionBits c x with preSwap := c.preSwap &&& ~~~ctxBit x, shadowRegion := c.shadowRegion &&& ~~~ctxBit x }

/-- Steps 4 and 5 of R98, with what the checkpoint operation sets first; the bundle retires (R372). -/
def takeShadow (f : Regs → Regs) (c : Ctx) : Ctx :=
  let r := f { c.live with ckcount := c.live.ckcount + 1 }
  { c with live := r, shadow := r, region := 0, closing := none, atCheckpoint := true, silence := 0 }

/-- R105: what `wait` adds to the state that the shadow takes. -/
def closeRegs (k : CloseKind) (r : Regs) : Regs :=
  match k with
  | .wait t => if r.pending.contains (.s t.toNat) then { r with pendingWait := some k } else { r with pc := r.waitNext }
  | _ => r

/-- R103, R104: an arrival at a barrier or a superstep. -/
def arriveRegs (k : CloseKind) (r : Regs) : Regs :=
  match k with
  | .bar => { r with barCount := r.barCount + 1, pendingWait := some k }
  | .sstep => { r with stepCount := r.stepCount + 1, pendingWait := some k }
  | _ => r

/-! ## The end of a context -/

/-- R247, R260: the held record put back at the head of its stage's queue. -/
def returnHeld (s : State) (c : Ctx) : State :=
  match c.held with
  | none => s
  | some (k, st, r) =>
    { s with sets := s.sets.map fun x =>
        if x.obj = k then { x with queues := x.queues.setIfInBounds st (r :: x.queues.getD st []) } else x }

/-- R210, R260: the context's subscriptions and waiting `rtake` commands withdrawn. -/
def withdraw (s : State) (core ctx : Nat) : State :=
  let mine := (s.cmds.filter fun c => c.of core ctx).map (·.id)
  { s with
    objects := s.objects.map fun o => { o with subs := o.subs.filter fun x => !(x.core == core && x.ctx == ctx) }
    sets := s.sets.map fun x => { x with waiters := x.waiters.filter fun w => !mine.contains w } }

/-- Commands that only wait, so that their end withdraws them. -/
def waitsOnly : Instr → Bool
  | .hsub .. | .hsubV .. | .rtake .. => true
  | _ => false

/-- R107: the commands of an ended context: those that only wait are gone, with their reservations, and the completion
words of the others are discarded. -/
def discardCmds (s : State) (core ctx : Nat) : State :=
  let gone := s.cmds.filter fun c => c.of core ctx && (c.done || (waitsOnly c.op && c.result.isNone))
  let s1 := gone.foldl (fun x c => dropCmd (dropReservation x c) c.id) s
  { s1 with cmds := s1.cmds.map fun c => if c.of core ctx then { c with discarded := true, inRegion := false, orphan := false } else c }

/-- The commands that report on the record that a context holds, or change its binding (R255, R256, R258). -/
def reportsRecord : Instr → Bool
  | .rbind .. | .rputUpd .. | .rdone .. | .rdoneFail .. => true
  | _ => false

/-- R258, R260: such a command of a context has been released and has not had its routing step. -/
def reportDue (s : State) (core ctx : Nat) : Bool :=
  s.cmds.any fun c => c.of core ctx && reportsRecord c.op && c.released && c.result.isNone && !c.done

/-- R260: what an ended context leaves the router: nothing while a released command has still to report on its record; then the
record goes back to its queue, and the binding is dropped. -/
def leaveRouter (s : State) : State :=
  if reportDue s s.core.id (localNo s) then s
  else modCtx (returnHeld s (curCtx s)) fun c => { c with binding := none, held := none }

/-- The acting context's object and router state dropped (R210, R260). -/
def dropContextState (s : State) : State :=
  let c := curCtx s
  let s1 := withdraw (leaveRouter s) s.core.id (localNo s)
  let s2 := discardCmds s1 s.core.id (localNo s)
  let s3 := modCtx s2 fun c => { c with drafts := [], pins := [], refusals := [], overflow := false, overflowMarked := false }
  c.pins.foldl (fun x p => pruneVersions x p.obj) s3

/-- Every context of every core of a team satisfies a condition. -/
def teamAll (s : State) (launch team : Nat) (f : Ctx → Bool) : Bool :=
  (allCores s).all fun c => !(c.launch == launch && c.team == team) || c.ctxs.toList.all f

/-- A context that has exited or never ran. -/
def Ctx.ended (c : Ctx) : Bool := c.status == .exited || c.status == .idle

/-- R107: when the last context of the acting team has exited, its cores are free. -/
def freeTeam (s : State) : State :=
  if teamAll s s.core.launch s.core.team Ctx.ended then
    let s1 := modAllCores s fun c => if c.launch = s.core.launch ∧ c.team = s.core.team then { c with place := none } else c
    modTeam s1 fun t => { t with status := .exited, place := none }
  else s

/-- R107: the acting context ends: it holds no register state from here on. -/
def exitCtx (s : State) : State :=
  let s1 := dropContextState s
  freeTeam (modCtx s1 fun c =>
    { c with status := .exited, live := Reset.regs, shadow := Reset.regs, region := 0, closing := none, waiting := [],
             withheld := [], silence := 0 })

/-- R372: an arrival pulses the contexts that wait at the same barrier of the team, or superstep of the launch. -/
def pulseWaiters (s : State) (k : CloseKind) : State :=
  if k = .bar ∨ k = .sstep then
    modAllCores s fun c =>
      if c.launch = s.core.launch ∧ (k = .sstep ∨ c.team = s.core.team) then
        { c with ctxs := c.ctxs.map fun x => if x.live.pendingWait = some k then { x with silence := 0 } else x }
      else c
  else s

/-- R103: the arrival of the acting context, as soon as the other slots of its bundle have retired. -/
def arriveNow (s : State) : State :=
  match (curCtx s).closing with
  | none => s
  | some (k, _) =>
    if (curCtx s).waiting.isEmpty && (curCtx s).live.pendingWait.isNone && (k == .bar || k == .sstep) then
      pulseWaiters (modLive s (arriveRegs k)) k
    else s

/-- Steps 2 to 5 of R98 for the acting context, its late loads performed, and the end of a context at `exit` (R107). -/
def closeRegion (k : CloseKind) (s : State) : State :=
  let s1 := pruneJournal (releaseRegion (modCore s (performLoads (localNo s) fun _ => true)))
  let s2 := { s1 with cmds := s1.cmds.filterMap (lapseCmd s1.core.id (localNo s1)) }
  let s3 := modCore s2 fun c => clearCheckpointBits c (localNo s2)
  match k with
  | .exit => exitCtx s3
  | k => modCtx s3 (takeShadow (closeRegs k))

/-- R180, R370: the first bad tile that an atomic withheld by the acting context names. -/
def badAtomic (s : State) : Option Nat :=
  (curCtx s).withheld.findSome? fun h => match h with | .atom t .. => if badTile s t then some t else none | _ => none

/-- R98, R103, R107: the acting context arrives when it may, and its checkpoint is carried out when that may be; otherwise it
stays closing. A withheld atomic that reads a bad tile (R370) traps its context before anything is released (log entry 125). -/
def tryClose (s : State) : State :=
  let t := arriveNow s
  match (curCtx t).closing with
  | none => t
  | some (k, index) =>
    if !closable t then t
    else (badAtomic t).elim (closeRegion k t) fun tile => takeTrapAt t 0x09 0xFF index.toNat (0x03 + 256 * tile) 0

/-- The SEQ slot of the checkpoint bundle of that index: the region closes now, or as soon as its slots and resolutions
allow. -/
def closeWith (s : State) (index : Nat) (k : CloseKind) : State :=
  tryClose (modCtx s fun c => { c with closing := some (k, BitVec.ofNat 32 index) })

/-- `chkpt`: the program counter names the next bundle in the shadow (R98). -/
def closeAdvance (s : State) : State :=
  let s1 := advance s
  if (curCtx s1).trap.isSome then s1 else closeWith s1 (ownIndex s) .chkpt

/-- `bar`, `sstep` and `wait`: the program counter stays at the bundle; where issue goes on is kept (R103). -/
def closeWaiting (s : State) (k : CloseKind) : State :=
  let s1 := advance s
  if (curCtx s1).trap.isSome then s1
  else
    closeWith (modLive s1 fun r => { r with waitNext := r.pc, pc := BitVec.ofNat 32 (ownIndex s) }) (ownIndex s) k

/-- R103: the wait of the acting context ends, in the live state and in the shadow alike. -/
def endWait (s : State) : State :=
  let f := fun (r : Regs) => { r with pendingWait := none, pc := r.waitNext }
  modCtx s fun c => { c with live := f c.live, shadow := f c.shadow, silence := 0 }

/-- R103, R204: the acting context passes a barrier, and sees what was written before the arrivals at it. -/
def passBarrier (s : State) : State :=
  endWait (modCore s (seesBarrier (localNo s) (curCtx s).live.barCount.toNat))

/-- R104, R204: the acting context passes a superstep. -/
def passSuperstep (s : State) : State :=
  endWait (modCore s (seesSuperstep (localNo s) (curCtx s).live.stepCount.toNat))

/-! ## The retirement of a bundle whose slots wait (R29, R100) -/

/-- R100: the region count of a retired bundle that is no checkpoint bundle, and the overflow. -/
def countRegion (s : State) (index : Nat) : State :=
  let s1 := modCtx s fun c => { c with region := c.region + 1 }
  if (launchOf s).elim 4096 (·.maxregion) ≤ (curCtx s1).region then takeTrapAt s1 0x03 0xFF index 0x01 0 else s1

/-- A waiting slot taken from the acting context's list, with what it held pending. -/
def removeWait (s : State) (w : WaitSlot) : State :=
  modCtx s fun c =>
    { c with
      waiting := c.waiting.filter fun v => v.slot != w.slot
      live := { c.live with pending := c.live.pending.filter fun r => !(waitPending w.pre w.op).contains r } }

/-- A waiting slot of the acting context has retired: with the last of them its bundle has (R100), and its checkpoint may be
taken (R98). -/
def slotRetired (w : WaitSlot) (s : State) : State :=
  let s1 := pulseActing s
  if w.ckpt then tryClose s1
  else if (curCtx s1).waiting.isEmpty && (curCtx s1).trap.isNone then countRegion s1 w.index.toNat
  else s1

/-! ## Loop tables, buckets -/

/-- R93: a body that another active level does not contain. -/
def crossesBody (r : Regs) (l first last : Nat) : Bool :=
  (List.range 6).any fun m =>
    m != l && (loopOf r m).active &&
      (decide (first < (loopOf r m).first.toNat) || decide ((loopOf r m).last.toNat < last))

/-- R96: level l and the active bodies nested in it ended. -/
def breakBodies (l : Nat) (r : Regs) : Regs :=
  let b := loopOf r l
  { r with loops := r.loops.mapIdx fun m x =>
      if m = l ∨ (x.active ∧ b.first.toNat ≤ x.first.toNat ∧ x.last.toNat ≤ b.last.toNat) then { x with active := false } else x }

/-- R110: the first bucket whose limit holds the count. -/
def bucketFor (r : Regs) (n : Nat) : Option Bucket := r.b.toList.find? fun b => b.target.isSome && decide (n ≤ b.limit.toNat)

end Sys2Proof.Machine
end

