-- ==== Sys2Proof/Machine/Tile.lean ====
section
/-!
DEFINITION. The meanings of the tile operations (R173 to R183), and of a cluster transfer's completion (R182).
-/

namespace Sys2Proof.Machine

/-! ## Access (R175, R176) -/

/-- R201: a load of the acting context performed now, or late when its loads are. -/
def loadTile (s : State) (l : LateLoad) (now : State) : State :=
  if (curCtx s).defers then modCtx s fun c => { c with loads := c.loads ++ [l] } else now

/-- R175: `tld`. -/
def execTld (g : BitVec 5) (v : BitVec 6) (t : BitVec 7) (r : BitVec 5) (s : State) : Out :=
  guarded g s fun _ =>
    needTiles s 6 (.tld g v t r) [t.toNat] fun s =>
      .next (loadTile s ⟨.v (physV (regs s) v.toNat), t.toNat, 256 * r.toNat, 256⟩
        (setV s v (BitVec.ofNat 2048 (natOfBytes (tileBytesAt (frame s) t.toNat (256 * r.toNat) 256)))))

/-- R175: `tst`. -/
def execTst (g : BitVec 5) (v : BitVec 6) (t : BitVec 7) (r : BitVec 5) (s : State) : Out :=
  guarded g s fun _ =>
    writingTile s 6 t.toNat fun _ => .next (putTile s t.toNat (256 * r.toNat) (bytesOfNat 256 (getV s v).toNat))

/-- R176: the bytes of an element. -/
def elementSize (z : BitVec 2) : Nat := if z = 1 then 8 else 4

/-- R176, R180: an element at an index lies in the tile, or the bounds trap "tile element" with its byte offset. -/
def tileElement (s : State) (size : Nat) (ix : BitVec 64) (k : Unit → Out) : Out :=
  if 8192 < size * ix.toNat + size then trapBounds s 6 0x0A (BitVec.ofNat 64 (size * ix.toNat)) else k ()

/-- R176: `tlds`. -/
def execTlds (g : BitVec 5) (r : BitVec 6) (t : BitVec 7) (i : BitVec 6) (z : BitVec 2) (s : State) : Out :=
  guarded g s fun _ =>
    let n := elementSize z
    tileElement s n (getS s i) fun _ =>
      needTiles s 6 (.tlds g r t i z) [t.toNat] fun s =>
        .next (loadTile s ⟨.s r.toNat, t.toNat, n * (getS s i).toNat, n⟩
          (setS s r (BitVec.ofNat 64 (natOfBytes (tileBytesAt (frame s) t.toNat (n * (getS s i).toNat) n)))))

/-- R176: `tsts`. -/
def execTsts (g : BitVec 5) (r : BitVec 6) (t : BitVec 7) (i : BitVec 6) (z : BitVec 2) (s : State) : Out :=
  guarded g s fun _ =>
    let n := elementSize z
    tileElement s n (getS s i) fun _ =>
      writingTile s 6 t.toNat fun _ =>
        .next (putTile s t.toNat (n * (getS s i).toNat) (bytesOfNat n (getS s r).toNat))

/-! ## Control (R177) -/

/-- R187: the acting context has written every byte of the tile. -/
def markWritten (s : State) (t : Nat) : State :=
  modTile s t fun x => { x with writtenBits := x.writtenBits ||| ctxBit (localNo s) }

/-- A run of bytes repeated n times. -/
def repeatBytes (bs : List Byte) : Nat → List Byte
  | 0 => []
  | n + 1 => bs ++ repeatBytes bs n

/-- R177: `tfill`; f asks for the full bit and w is the width. It waits for no reservation and leaves one standing, which is the
model's choice (log entry 117). -/
def execTfill (g : BitVec 5) (t : BitVec 7) (r : BitVec 6) (f : BitVec 1) (w : BitVec 2) (s : State) : Out :=
  guarded g s fun _ =>
    writingTile s 6 t.toNat fun _ =>
      let n := 2 ^ w.toNat
      let s1 := putTile s t.toNat 0 (repeatBytes (bytesOfNat n (getS s r).toNat) (8192 / n))
      let s2 := markWritten s1 t.toNat
      .next (if f = 1 then setFull s2 t.toNat else s2)

/-- R177: a full bit changed: withheld in a checkpoint bundle; otherwise a write, waiting while the tile is reserved. -/
def changeFull (s : State) (op : Instr) (t : Nat) (set : Bool) : Out :=
  if inCheckpoint s then .next (withhold s (.fullBit t set))
  else if (tileOf (frame s) t).reserved then .next (addWait s 6 op)
  else writingTile s 6 t fun _ => .next (if set then setFull s t else clearFull s t)

/-- R177: `tfree`. -/
def execTfree (g : BitVec 5) (t : BitVec 7) (s : State) : Out :=
  guarded g s fun _ => changeFull s (.tfree g t) t.toNat false

/-- R177: `tsetf`. -/
def execTsetf (g : BitVec 5) (t : BitVec 7) (s : State) : Out :=
  guarded g s fun _ => changeFull s (.tsetf g t) t.toNat true

/-- R177: the full bit that a slot waiting on a reserved tile will leave, when it is a `tfree` or a `tsetf` of that tile
outside a checkpoint bundle. -/
def waitingFull (t : Nat) (w : WaitSlot) : Option Bool :=
  match w.op with
  | .tfree _ u => if u.toNat = t ∧ !w.ckpt then some false else none
  | .tsetf _ u => if u.toNat = t ∧ !w.ckpt then some true else none
  | _ => none

/-- R187: a write to tile t by a slot that waited is a region violation: the context has read it in its region, or another
slot of its bundle reads it. -/
def lateViolation (s : State) (w : WaitSlot) (t : Nat) : Bool :=
  (tileOf s.core t).readBits &&& ctxBit (localNo s) != 0 || w.reads.any fun r => r.1 != w.slot && r.2 == t

/-- R177: right after a landing in tile t, a full-bit change of the acting context that waited for it. -/
def retireFull (t : Nat) (s : State) : State :=
  match (curCtx s).waiting.find? fun w => (waitingFull t w).isSome with
  | none => s
  | some w =>
    let s1 := removeWait s w
    if lateViolation s1 w t then takeTrapAt s1 0x02 w.slot w.index.toNat (0x01 + 256 * t) 0
    else slotRetired w (if waitingFull t w = some true then setFull s1 t else clearFull s1 t)

/-- R173: the header word. -/
def headerWord (x : Tile) : Nat :=
  x.rows.toNat + x.rowbytes.toNat * 2 ^ 7 + x.fmt.toNat * 2 ^ 22 + b2n x.scaled * 2 ^ 26 +
    b2n (x.full && !x.reserved) * 2 ^ 31 + x.owner.toNat * 2 ^ 32 + x.readBits.toNat * 2 ^ 34

/-- R177: `thdr`, read at once. -/
def execThdr (g : BitVec 5) (t : BitVec 7) (r : BitVec 6) (s : State) : Out :=
  guarded g s fun _ => .next (setS s r (BitVec.ofNat 64 (headerWord (tileOf (frame s) t.toNat))))

/-- R177: `tfmt`; c is the scaled bit. -/
def execTfmt (g : BitVec 5) (t : BitVec 7) (r : BitVec 6) (c : BitVec 1) (f : BitVec 4) (s : State) : Out :=
  guarded g s fun _ =>
    let rows := (getS s r).toNat % 2 ^ 7
    let rb := fieldOf (getS s r).toNat 7 14
    if rows < 1 ∨ 64 < rows ∨ rb < 1 ∨ 8192 < rb ∨ 8192 < rows * rb then trapBounds s 6 0x0B (getS s r)
    else
      writingTile s 6 t.toNat fun _ =>
        .next (modTile s t.toNat fun x =>
          { x with rows := BitVec.ofNat 7 rows, rowbytes := BitVec.ofNat 14 rb, fmt := f, scaled := c == 1 })

/-! ## Copying (R178, R179) -/

/-- A tile's header fields taken from another's. -/
def takeHeader (src x : Tile) : Tile :=
  { x with rows := src.rows, rowbytes := src.rowbytes, fmt := src.fmt, scaled := src.scaled }

/-- R178: `tcopy`. -/
def execTcopy (g : BitVec 5) (d c : BitVec 7) (n : BitVec 6) (s : State) : Out :=
  guarded g s fun _ =>
    let op : Instr := .tcopy g d c n
    let len := (getS s n).toNat
    if 8192 < len then trapBounds s 6 0x0C (getS s n)
    else if d = c then
      if tileFull (frame s) c.toNat && tileViolation s 6 d.toNat then trapRegion s 6 0x01 d.toNat
      else needTiles s 6 op [c.toNat] fun s => .next s
    else
      needTiles s 6 op [c.toNat] fun s =>
        writingTile s 6 d.toNat fun _ =>
          let s1 := putTile s d.toNat 0 (tileBytesAt (frame s) c.toNat 0 len)
          let s2 := modTile s1 d.toNat (takeHeader (tileOf (frame s) c.toNat))
          .next (if len = 8192 then markWritten s2 d.toNat else s2)

/-- R179: `tpack`: the rows whose bit of `m0` is set, in order, and their count. -/
def execTpack (g : BitVec 5) (d c : BitVec 7) (n : BitVec 6) (s : State) : Out :=
  guarded g s fun _ =>
    needTiles s 6 (.tpack g d c n) [c.toNat] fun s =>
      writingTile s 6 d.toNat fun _ =>
        let h := tileOf (frame s) c.toNat
        let picked := (List.range h.rows.toNat).filter fun i => bitOf (getM s 0).toNat i
        let bytes := picked.flatMap fun i => tileBytesAt (frame s) c.toNat (i * h.rowbytes.toNat) h.rowbytes.toNat
        let s1 := putTile s d.toNat 0 bytes
        let s2 := modTile s1 d.toNat fun x => { takeHeader h x with rows := BitVec.ofNat 7 picked.length }
        .next (setS s2 n (BitVec.ofNat 64 picked.length))

/-! ## Scratchpad atomics (R180) -/

/-- R180: `tatom`: captured and withheld. -/
def execTatom (g : BitVec 5) (r : BitVec 6) (t : BitVec 7) (o : BitVec 3) (y : BitVec 2) (s : State) : Out :=
  guarded g s fun _ =>
    if isRepro s && decide (2 ≤ y.toNat) then trapIllegal s 6 0x0D 0
    else
      tileElement s (elemBits (tatomCode y.toNat) / 8) (getSAt s (r.toNat + 1)) fun _ =>
        if !inCheckpoint s && decide (Config.withholding ≤ heldEntries (curCtx s)) then trapOverflow s 6 0x02
        else
          .next (withhold s (.atom t.toNat o y (getS s r) (getSAt s (r.toNat + 1)) (getSAt s (r.toNat + 2))
            (!inCheckpoint s)))

/-! ## Cluster transfer (R181, R182) -/

/-- The placement of the acting team. -/
def placementOf (s : State) : Placement := ((teamOf s).bind (·.place)).getD ⟨0, [], []⟩

/-- R79: the relative row placed on a physical row. -/
def relRow (p : Placement) (r : Nat) : Option Nat := p.rows.findIdx? (· == r)

/-- R79: the relative index of the team's core at a physical coordinate. -/
def relCore (p : Placement) (cols r c : Nat) : Option Nat :=
  (relRow p r).bind fun i => ((p.cols.getD i []).findIdx? (· == c)).map (i * cols + ·)

/-- R374: the physical core is marked failed or gated. -/
def coreDefective (s : State) (phys : Nat) : Bool := bitOf (s.defects.getD (phys / 28) 0).toNat (phys % 28)

/-- A core of the acting team by its relative index. -/
def teamCore (s : State) (rel : Nat) : Option CoreRec :=
  (allCores s).find? fun c => c.launch == s.core.launch && c.team == s.core.team && c.rel == rel

/-- R182: a destination of the acting team is unavailable. -/
def destUnavailable (s : State) (rel : Nat) : Bool :=
  match teamCore s rel with
  | some c => c.place.elim false (coreDefective s)
  | none => true

/-- R182: a destination's tile is full or reserved, or the destination is the sender. -/
def destFull (s : State) (t rel : Nat) : Bool :=
  rel == s.core.rel ||
    match teamCore s rel with
    | some c => (tileOf c t).full || (tileOf c t).reserved
    | none => false

/-- The mask of relative cores. -/
def relMask (l : List Nat) : Nat := l.foldl (fun m j => m + 2 ^ j) 0

/-- R182: what a transfer to these destinations meets when its slot retires; `outside` when one is no core of the team. -/
def transferRefusal (s : State) (t : Nat) (dests : List Nat) (outside : Bool) : Option Result :=
  let gone := dests.filter (destUnavailable s)
  if outside || !gone.isEmpty then some (plainResult 0x11 (relMask gone) 0)
  else
    let full := dests.filter (destFull s t)
    if full.isEmpty then none else some (plainResult 0x10 (relMask full) 0)

/-- R182: the tile reserved at each destination. -/
def reserveDests (s : State) (t : Nat) (dests : List Nat) : State :=
  dests.foldl (fun x j =>
    match teamCore x j with
    | some c => modCoreId x c.id fun d => setTileIn d t fun y => { y with reserved := true }
    | none => x) s

/-- R181, R182: a transfer issued: the snapshot taken, the token pending, the destinations reserved. -/
def sendTile (s : State) (op : Instr) (t : Nat) (token : Nat) (dests : List Nat) (outside : Bool) : Out :=
  if Config.inFlight ≤ inFlight s s.core.id then .next (addWait s 6 op)
  else if dests.contains s.core.rel && ((tileOf (frame s) t).readBits &&& ctxBit (localNo s) != 0) then
    trapRegion s 6 0x01 t
  else
    needTiles s 6 op [t] fun s =>
      let cap := { captureTile s t (captureWith s false false) with dests := dests }
      let c := newCmd s op token cap [.s token]
      match transferRefusal s t dests outside with
      | some x => .next (putCmd s { c with result := some x })
      | none => .next (reserveDests (putCmd s { c with reserved := true }) t dests)

/-- R181: `txfer` to one core. -/
def execTxfer (g : BitVec 5) (t : BitVec 7) (k : BitVec 6) (r : BitVec 2) (c : BitVec 3) (s : State) : Out :=
  guarded g s fun _ =>
    let d := relCore (placementOf s) (teamCols s) r.toNat c.toNat
    sendTile s (.txfer g t k r c) t.toNat k.toNat d.toList d.isNone

/-- R181: `txfer` to the team's other cores of a row. -/
def execTxferRow (g : BitVec 5) (t : BitVec 7) (k : BitVec 6) (r : BitVec 2) (s : State) : Out :=
  guarded g s fun _ =>
    let row := relRow (placementOf s) r.toNat
    let all := row.elim [] fun i => (List.range (teamCols s)).map (i * teamCols s + ·)
    sendTile s (.txferRow g t k r) t.toNat k.toNat (all.filter (· != s.core.rel)) row.isNone

/-- R181: `txfer` to every other core of the team. -/
def execTxferAll (g : BitVec 5) (t : BitVec 7) (k : BitVec 6) (s : State) : Out :=
  guarded g s fun _ =>
    let all := (List.range (teamRows s * teamCols s)).filter (· != s.core.rel)
    sendTile s (.txferAll g t k) t.toNat k.toNat all false

/-- The tile that a transfer carries. -/
def transferTile : Instr → Option Nat
  | .txfer _ t _ _ _ => some t.toNat
  | .txferRow _ t _ _ => some t.toNat
  | .txferAll _ t _ => some t.toNat
  | _ => none

/-- R182: a captured tile landed in a tile of a core, with its header. -/
def landTile (owner t : Nat) (cap : Capture) (c : CoreRec) : CoreRec :=
  setTileIn (setTileMem c t cap.tile) t (landHeader owner cap.rows cap.rowbytes cap.fmt cap.scaled)

/-- The contexts of a core whose checkpoints wait, tried again. -/
def settleCore (s : State) (core : Nat) : State :=
  [0, 1, 2, 3].foldl (fun x (k : Fin 4) => withActing x core k tryClose) s

/-- R177: after a landing in a tile of a core: the full-bit changes that waited for it, and then the contexts whose checkpoints
wait. -/
def landed (s : State) (core t : Nat) : State :=
  settleCore ([0, 1, 2, 3].foldl (fun x (k : Fin 4) => withActing x core k (retireFull t)) s) core

/-- R182: the destination cores of a transfer. -/
def destCores (s : State) (c : Cmd) : List Nat :=
  match coreOf s c.core with
  | some d =>
    ((allCores s).filter fun e => e.launch == d.launch && e.team == d.team && c.cap.dests.contains e.rel).map (·.id)
  | none => []

/-- R182: the landings of a transfer, and its completion word. -/
def landTransfer (s : State) (c : Cmd) (t : Nat) : State :=
  deliver ((destCores s c).foldl (fun x id => modCoreId x id (landTile c.ctx t c.cap)) s) c
    (plainResult 0x00 0 c.cap.dests.length)

end Sys2Proof.Machine
end

