-- ==== Sys2Proof/Machine/Engine.lean ====
section
/-!
DEFINITION. The meanings of the engine-command operations at issue (R206, R214 to R233, R238, R242, R254, R267, R272):
what each captures, and the traps that its slot may take. What the engines then do is in Resolve.lean, Perform.lean and
the files of the units.
-/

namespace Sys2Proof.Machine

/-- R122: a command that names a shape entry issues only when the entry is valid. -/
def withShape (s : State) (e : BitVec 3) (k : Unit → Out) : Out :=
  if shapeValid (getG s e) then k () else trapIllegal s 7 0x0C e.toNat

/-- R195, R212: the capture of a command with a handle and a shape: the shape, its start tuple, and the seed where the
conversion is stochastic. -/
def shapeCap (s : State) (mask : Bool) (h : BitVec 5) (e : BitVec 3) : Capture :=
  let g := getG s e
  { captureWith s mask (shapeConv g && shapeConvMode g == 5) with
    handle := getH s h, shape := g, tuple := getQ s (BitVec.ofNat 4 (shapeIndex g)) }

/-- The capture of a command with a handle alone. -/
def handleCap (s : State) (h : BitVec 5) : Capture := { captureWith s false false with handle := getH s h }

/-- The registers after the token, n of them (R207). -/
def followers (s : State) (r : BitVec 6) (n : Nat) : List (BitVec 64) := (List.range n).map fun i => getSAt s (r.toNat + 1 + i)

/-- R198: the register values that a free command captures, which an orphan's must equal. -/
def regCapture (s : State) : Instr → Capture
  | .hfet _ _ _ h e | .hprobe _ _ h e => shapeCap s false h e
  | .hgat _ _ _ h e => shapeCap s true h e
  | .hpfl2 _ r h e | .hres _ r h e => { shapeCap s false h e with args := followers s r 1 }
  | .hver _ _ h | .ncnt _ _ h | .rstat _ _ _ h | .tdesc _ _ _ h _ => handleCap s h
  | _ => captureWith s false false

/-- The tile after a command's tile, captured with it. -/
def captureNext (s : State) (t : Nat) (c : Capture) : Capture := { c with next := tileMem (frame s) (t + 1) }

/-- R226: a floating type in a reproducible launch. -/
def reproducibleAtomic (s : State) (y : BitVec 3) (k : Unit → Out) : Out :=
  if isRepro s && decide (4 ≤ y.toNat) then trapIllegal s 7 0x0D 0 else k ()

/-- R259, R272: statistics in a reproducible launch. -/
def reproducibleStats (s : State) (k : Unit → Out) : Out := if isRepro s then trapIllegal s 7 0x0E 0 else k ()

/-- A command that names a handle and nothing else. -/
def issueHandle (g : BitVec 5) (r : BitVec 6) (h : BitVec 5) (op : Instr) (s : State) : Out :=
  guarded g s fun _ => issueCmd s op r.toNat (handleCap s h)

/-- A command that names nothing but its token. -/
def issueBare (g : BitVec 5) (r : BitVec 6) (op : Instr) (s : State) : Out :=
  guarded g s fun _ => issueCmd s op r.toNat (captureWith s false false)

/-- A command that reads a tile, captured with its header (R195). -/
def issueTile (g : BitVec 5) (t : BitVec 7) (r : BitVec 6) (h : BitVec 5) (mask : Bool) (args : State → List (BitVec 64))
    (op : Instr) (s : State) : Out :=
  guarded g s fun _ => needTiles s 7 op [t.toNat] fun s =>
    issueCmd s op r.toNat
      (captureTile s t.toNat { captureWith s mask false with handle := getH s h, args := args s })

/-! ## Tiles and objects (R215 to R219) -/

/-- R215: `hfet`. -/
def execHfet (g : BitVec 5) (t : BitVec 7) (r : BitVec 6) (h : BitVec 5) (e : BitVec 3) (s : State) : Out :=
  guarded g s fun _ => withShape s e fun _ => issueCmd s (.hfet g t r h e) r.toNat (shapeCap s false h e)

/-- R217: `hput`. -/
def execHput (g : BitVec 5) (t : BitVec 7) (r : BitVec 6) (h : BitVec 5) (e : BitVec 3) (s : State) : Out :=
  guarded g s fun _ => withShape s e fun _ => needTiles s 7 (.hput g t r h e) [t.toNat] fun s =>
    issueCmd s (.hput g t r h e) r.toNat (captureTile s t.toNat (shapeCap s false h e))

/-- R216: `hgat`, its indices read from the tile after. -/
def execHgat (g : BitVec 5) (t : BitVec 7) (r : BitVec 6) (h : BitVec 5) (e : BitVec 3) (s : State) : Out :=
  guarded g s fun _ => withShape s e fun _ => needTiles s 7 (.hgat g t r h e) [t.toNat + 1] fun s =>
    issueCmd s (.hgat g t r h e) r.toNat (captureNext s t.toNat (shapeCap s true h e))

/-- R217: `hsca`. -/
def execHsca (g : BitVec 5) (t : BitVec 7) (r : BitVec 6) (h : BitVec 5) (e : BitVec 3) (s : State) : Out :=
  guarded g s fun _ => withShape s e fun _ => needTiles s 7 (.hsca g t r h e) [t.toNat, t.toNat + 1] fun s =>
    issueCmd s (.hsca g t r h e) r.toNat (captureNext s t.toNat (captureTile s t.toNat (shapeCap s true h e)))

/-- R218: `hcopy`. -/
def execHcopy (g : BitVec 5) (d c : BitVec 5) (r : BitVec 6) (e : BitVec 3) (m : BitVec 2) (s : State) : Out :=
  guarded g s fun _ => withShape s e fun _ =>
    issueCmd s (.hcopy g d c r e m) r.toNat
      { shapeCap s false d e with source := getH s c, args := followers s r 1 }

/-- R219: `hpfl2`. -/
def execHpfl2 (g : BitVec 5) (r : BitVec 6) (h : BitVec 5) (e : BitVec 3) (s : State) : Out :=
  guarded g s fun _ => withShape s e fun _ =>
    issueCmd s (.hpfl2 g r h e) r.toNat { shapeCap s false h e with args := followers s r 1 }

/-- R219: `hres`. -/
def execHres (g : BitVec 5) (r : BitVec 6) (h : BitVec 5) (e : BitVec 3) (s : State) : Out :=
  guarded g s fun _ => withShape s e fun _ =>
    issueCmd s (.hres g r h e) r.toNat { shapeCap s false h e with args := followers s r 1 }

/-- R219: `hprobe`. -/
def execHprobe (g : BitVec 5) (r : BitVec 6) (h : BitVec 5) (e : BitVec 3) (s : State) : Out :=
  guarded g s fun _ => withShape s e fun _ => issueCmd s (.hprobe g r h e) r.toNat (shapeCap s false h e)

/-! ## Drafts, versions and subscriptions (R221 to R225) -/

/-- R221: `hopen`. -/
def execHopen (g : BitVec 5) (r : BitVec 6) (h : BitVec 5) (s : State) : Out := issueHandle g r h (.hopen g r h) s
/-- R222: `hpub`. -/
def execHpub (g : BitVec 5) (r : BitVec 6) (h : BitVec 5) (s : State) : Out := issueHandle g r h (.hpub g r h) s
/-- R222: `hdisc`. -/
def execHdisc (g : BitVec 5) (r : BitVec 6) (h : BitVec 5) (s : State) : Out := issueHandle g r h (.hdisc g r h) s
/-- R223: `hpin`. -/
def execHpin (g : BitVec 5) (r : BitVec 6) (h : BitVec 5) (s : State) : Out := issueHandle g r h (.hpin g r h) s
/-- R223: `hpin.v`. -/
def execHpinV (g : BitVec 5) (r : BitVec 6) (h : BitVec 5) (s : State) : Out := issueHandle g r h (.hpinV g r h) s
/-- R223: `hunpin`. -/
def execHunpin (g : BitVec 5) (r : BitVec 6) (h : BitVec 5) (s : State) : Out := issueHandle g r h (.hunpin g r h) s
/-- R224: `hsub`; u asks for the current version (`.cu`). -/
def execHsub (g : BitVec 5) (r : BitVec 6) (h : BitVec 5) (u : BitVec 1) (s : State) : Out :=
  issueHandle g r h (.hsub g r h u) s
/-- R224: `hsub.v`. -/
def execHsubV (g : BitVec 5) (r : BitVec 6) (h : BitVec 5) (u : BitVec 1) (s : State) : Out :=
  issueHandle g r h (.hsubV g r h u) s
/-- R224: `hunsub`. -/
def execHunsub (g : BitVec 5) (r : BitVec 6) (h : BitVec 5) (s : State) : Out := issueHandle g r h (.hunsub g r h) s
/-- R225: `hver`. -/
def execHver (g : BitVec 5) (r : BitVec 6) (h : BitVec 5) (s : State) : Out := issueHandle g r h (.hver g r h) s

/-! ## Element atomics (R226) -/

/-- The capture of an atomic: its handle, its tuple and the n registers after the token. -/
def atomicCap (s : State) (r : BitVec 6) (h : BitVec 5) (q : BitVec 4) (n : Nat) : Capture :=
  { handleCap s h with tuple := getQ s q, args := followers s r n }

/-- R226: `hatom`. -/
def execHatom (g : BitVec 5) (r : BitVec 6) (h : BitVec 5) (q : BitVec 4) (o y : BitVec 3) (s : State) : Out :=
  guarded g s fun _ => reproducibleAtomic s y fun _ => issueCmd s (.hatom g r h q o y) r.toNat (atomicCap s r h q 1)

/-- R226: `hatomr`. -/
def execHatomr (g : BitVec 5) (r : BitVec 6) (h : BitVec 5) (q : BitVec 4) (o y : BitVec 3) (s : State) : Out :=
  guarded g s fun _ => reproducibleAtomic s y fun _ => issueCmd s (.hatomr g r h q o y) r.toNat (atomicCap s r h q 1)

/-- R226: `hcas`. -/
def execHcas (g : BitVec 5) (r : BitVec 6) (h : BitVec 5) (q : BitVec 4) (y : BitVec 3) (s : State) : Out :=
  guarded g s fun _ => reproducibleAtomic s y fun _ => issueCmd s (.hcas g r h q y) r.toNat (atomicCap s r h q 2)

/-! ## Trees (R238, R242) -/

/-- R238: `tdesc`, its batch read from tile t. -/
def execTdesc (g : BitVec 5) (t : BitVec 7) (r : BitVec 6) (h : BitVec 5) (y : BitVec 3) (s : State) : Out :=
  issueTile g t r h false (fun _ => []) (.tdesc g t r h y) s

/-- R242: `tgrad`, with the coefficient tile and the path-trace register. -/
def execTgrad (g : BitVec 5) (t : BitVec 7) (r : BitVec 6) (h : BitVec 5) (y : BitVec 3) (s : State) : Out :=
  guarded g s fun _ => needTiles s 7 (.tgrad g t r h y) [t.toNat, t.toNat + 1] fun s =>
    issueCmd s (.tgrad g t r h y) r.toNat
      { captureNext s t.toNat (captureTile s t.toNat (handleCap s h)) with trace := (regs s).y.getD y.toNat Reset.regs.y[0] }

/-! ## Stage routing (R255 to R259) -/

/-- R255: `rbind`. -/
def execRbind (g : BitVec 5) (r : BitVec 6) (h : BitVec 5) (x : BitVec 3) (s : State) : Out := issueHandle g r h (.rbind g r h x) s
/-- R256: `rput`. -/
def execRput (g : BitVec 5) (t : BitVec 7) (r : BitVec 6) (h : BitVec 5) (s : State) : Out :=
  issueTile g t r h false (fun _ => []) (.rput g t r h) s
/-- R256: `rput.last`. -/
def execRputLast (g : BitVec 5) (t : BitVec 7) (r : BitVec 6) (h : BitVec 5) (s : State) : Out :=
  issueTile g t r h false (fun _ => []) (.rputLast g t r h) s
/-- R256: `rput.upd`. -/
def execRputUpd (g : BitVec 5) (t : BitVec 7) (r : BitVec 6) (h : BitVec 5) (s : State) : Out :=
  issueTile g t r h false (fun _ => []) (.rputUpd g t r h) s
/-- R257: `rtake`. -/
def execRtake (g : BitVec 5) (t : BitVec 7) (r : BitVec 6) (h : BitVec 5) (x : BitVec 3) (s : State) : Out :=
  issueHandle g r h (.rtake g t r h x) s
/-- R258: `rdone`. -/
def execRdone (g : BitVec 5) (r : BitVec 6) (h : BitVec 5) (x : BitVec 3) (s : State) : Out := issueHandle g r h (.rdone g r h x) s
/-- R258: `rdone.fail`. -/
def execRdoneFail (g : BitVec 5) (r : BitVec 6) (h : BitVec 5) (x : BitVec 3) (s : State) : Out :=
  issueHandle g r h (.rdoneFail g r h x) s
/-- R259: `rstat`. -/
def execRstat (g : BitVec 5) (t : BitVec 7) (r : BitVec 6) (h : BitVec 5) (s : State) : Out :=
  guarded g s fun _ => reproducibleStats s fun _ => issueCmd s (.rstat g t r h) r.toNat (handleCap s h)

/-! ## Expert dispatch, counters, forecasts, network, services -/

/-- R227: `xsend`. -/
def execXsend (g : BitVec 5) (t : BitVec 7) (r : BitVec 6) (h : BitVec 5) (s : State) : Out :=
  issueTile g t r h true (fun _ => []) (.xsend g t r h) s
/-- R227: `xsend.last`. -/
def execXsendLast (g : BitVec 5) (t : BitVec 7) (r : BitVec 6) (h : BitVec 5) (s : State) : Out :=
  issueTile g t r h true (fun _ => []) (.xsendLast g t r h) s
/-- R228: `xref`. -/
def execXref (g : BitVec 5) (t : BitVec 7) (r : BitVec 6) (s : State) : Out := issueBare g r (.xref g t r) s
/-- R230: `csnap`. -/
def execCsnap (g : BitVec 5) (t : BitVec 7) (r : BitVec 6) (s : State) : Out := issueBare g r (.csnap g t r) s
/-- R230: `cread`. -/
def execCread (g : BitVec 5) (t : BitVec 7) (r : BitVec 6) (s : State) : Out := issueBare g r (.cread g t r) s
/-- R267: `fcbind`. -/
def execFcbind (g : BitVec 5) (r : BitVec 6) (h : BitVec 5) (s : State) : Out := issueHandle g r h (.fcbind g r h) s
/-- R267: `fcbind.un`. -/
def execFcbindUn (g : BitVec 5) (r : BitVec 6) (s : State) : Out := issueBare g r (.fcbindUn g r) s
/-- R272: `fcstat`. -/
def execFcstat (g : BitVec 5) (t : BitVec 7) (r : BitVec 6) (s : State) : Out :=
  guarded g s fun _ => reproducibleStats s fun _ => issueCmd s (.fcstat g t r) r.toNat (captureWith s false false)
/-- R231: `nsend`, with the remote offset in the register after the token. -/
def execNsend (g : BitVec 5) (t : BitVec 7) (r : BitVec 6) (h : BitVec 5) (s : State) : Out :=
  issueTile g t r h false (fun s => followers s r 1) (.nsend g t r h) s
/-- R232: `nexp`. -/
def execNexp (g : BitVec 5) (r : BitVec 6) (h : BitVec 5) (s : State) : Out :=
  guarded g s fun _ => issueCmd s (.nexp g r h) r.toNat { handleCap s h with args := followers s r 1 }
/-- R232: `ncnt`. -/
def execNcnt (g : BitVec 5) (r : BitVec 6) (h : BitVec 5) (s : State) : Out := issueHandle g r h (.ncnt g r h) s
/-- R233: `svc`, with its six arguments. -/
def execSvc (g : BitVec 5) (r : BitVec 6) (n : BitVec 10) (s : State) : Out :=
  guarded g s fun _ => issueCmd s (.svc g r n) r.toNat { captureWith s false false with args := followers s r 6 }

end Sys2Proof.Machine
end

