-- ==== Sys2Proof/Machine/Forecast.lean ====
section
/-!
DEFINITION. Resolution checks 1 and 2 (R208), forecast tables (R266, R267), triggers (R268), near residency and the
require check (R270).
-/

namespace Sys2Proof.Machine

/-! ## Resolution, checks 1 and 2 (R208) -/

/-- Check 1: an invalid handle's subcause (R365), or the object. -/
def resolveHandle (s : State) (h : BitVec 64) : Except Nat Obj :=
  if handleReserved h ≠ 0 then .error 1
  else if 576 ≤ handleHome h then .error 2
  else
    match objAt s (handleKey h) with
    | none => .error 3
    | some o =>
      if o.generation ≠ handleGen h then .error 4
      else if o.partition ≠ handlePart h then .error 5
      else .ok o

/-- Checks 1 and 2: the trap's class and detail, or the object. -/
def resolveFor (s : State) (part : Nat) (h : BitVec 64) (right : Nat) (accepts : Obj → Bool) : Except (Nat × Nat) Obj :=
  match resolveHandle s h with
  | .error c => .error (0x04, c)
  | .ok o =>
    if !hasRight o part right then .error (0x05, 1 + 256 * right)
    else if !accepts o then .error (0x05, 2 + 256 * kindCode o.kind)
    else .ok o

/-! ## Ranges of elements -/

/-- R269: kinds that an entry accepts. -/
def forecastKind (o : Obj) : Bool := isData o.kind || o.kind == .expert

/-- The last coordinates of a range. -/
def rangeEnd (start : List Int) (extent : List Nat) : List Int := List.zipWith (fun a (b : Nat) => a + (b : Int) - 1) start extent

/-- Every tuple of coordinates of a range, coordinate 0 fastest. -/
def rangeTuples : List Nat → List Nat → List (List Nat)
  | a :: r, n :: m => (rangeTuples r m).flatMap fun t => (List.range n).map fun i => (a + i) :: t
  | _, _ => [[]]

/-- The pages from one address to another. -/
def pageSpan (a b : Nat) : List Nat := (List.range (b / Config.pageBytes + 1 - a / Config.pageBytes)).map (a / Config.pageBytes + ·)

/-- The pages that hold a row of elements along coordinate 0. -/
def rowPages (o : Obj) (a n : Nat) (rest : List Nat) : List Nat :=
  if shardCoord o = 0 ∧ shardCount o ≠ 1 then
    (List.range n).flatMap fun i => (elemEnds o ((a + i) :: rest)).map (· / Config.pageBytes)
  else pageSpan (elemAddr o (a :: rest)) ((elemEnds o ((a + n - 1) :: rest)).getLastD 0)

/-- R274, R275: the pages that hold the coded blocks with an element of a range, in the current version and in an open draft. -/
def codedPages (o : Obj) (start extent : List Nat) : List Nat :=
  let bs := ((rangeTuples start extent).map fun q => linearIndex o q / blockElems).eraseDups
  (liveStores o).flatMap fun st =>
    let coded := codedBlocks o st
    bs.flatMap fun b =>
      let x := codedPlace coded b
      pageSpan x.1 (x.1 + x.2 - 1)

/-- R266, R269: the pages that hold an element of a range. -/
def rangePages (o : Obj) (start extent : List Nat) : List Nat :=
  if o.compressed then (codedPages o start extent).eraseDups
  else ((rangeTuples (start.drop 1) (extent.drop 1)).flatMap fun t => rowPages o (start.headD 0) (extent.headD 0) t).eraseDups

/-- The shards that hold an element of a range. -/
def rangeShards (o : Obj) (start extent : List Nat) : List Nat :=
  let j := shardCoord o
  let a := start.getD j 0 / shardChunk o
  let b := (start.getD j 0 + extent.getD j 1 - 1) / shardChunk o
  if shardCount o = 1 then [0] else (List.range (b + 1 - a)).map (a + ·)

/-! ## Entries -/

/-- R266: the threshold of an entry. -/
def threshold (e : ForecastEntry) : Nat := e.marker - e.lead

/-- R266: an entry selects a team. -/
def selects (e : ForecastEntry) (team : Nat) : Bool := e.team == 0xFFFF || e.team == team

/-- R235: a range touches a row past 0 of an internal node of a tree. -/
def treeRangeOutside (o : Obj) (e : ForecastEntry) : Bool :=
  o.kind == .tree && decide (1 < e.start.getD 1 0 + e.extent.getD 1 1) && decide (2 * e.start.getD 2 0 + 1 < extentAt o 2)

/-- R269: an entry resolved for a launch: checks 1 to 3. -/
def resolveEntry (s : State) (part : Nat) (e : ForecastEntry) : Option Obj :=
  match resolveFor s part e.handle 1 forecastKind with
  | .error _ => none
  | .ok o =>
    if (outsideFrom o 0 e.start).isSome ∨ (outsideFrom o 0 (rangeEnd e.start e.extent)).isSome ∨ treeRangeOutside o e then none else some o

/-- R270: the range is near-resident. -/
def nearResident (s : State) (o : Obj) (e : ForecastEntry) : Bool :=
  let a := natPoint e.start
  let ps := rangePages o a e.extent
  ps.all (fun p => !o.farPages.contains p && !s.moves.any fun m => m.obj == o.key && m.page == p) &&
    !absentAny s o (some o.current) none (rangeShards o a e.extent)

/-- R266: the six signed coordinates at an offset. -/
def coordsAt (bs : List Byte) (off : Nat) : List Int :=
  (List.range 6).map fun j => signedOf 32 (natOfBytes ((bs.drop (off + 4 * j)).take 4))

/-- R266: an entry from its 64 bytes. -/
def parseEntry (bs : List Byte) : ForecastEntry :=
  let n := fun off len => natOfBytes ((bs.drop off).take len)
  ⟨BitVec.ofNat 64 (n 0 8), n 8 2, n 10 2, n 12 2, n 14 1, coordsAt bs 0x10, (List.range 6).map fun j => n (0x28 + 4 * j) 4⟩

/-- R267: an entry that may be bound. -/
def validEntry (bs : List Byte) : Bool :=
  let e := parseEntry bs
  decide (e.action ≤ 4) && natOfBytes ((bs.drop 15).take 1) == 0 && e.extent.all (fun x => x != 0) && handleReserved e.handle == 0

/-- The rows of 64 bytes of a table's storage; in a table of several shards each byte lies where its element does. -/
def tableRows (o : Obj) (v : Nat) : List (List Byte) :=
  let m := storeBytes o ((versionStore o v).getD ⟨[], []⟩)
  (List.range (extentAt o 1)).map fun i =>
    if shardCount o = 1 then readBytes m (64 * i) 64 else (List.range 64).map fun j => readByte m (elemAddr o [j, i])

/-- R267: the first row that is no valid entry. -/
def firstBadRow (rows : List (List Byte)) : Option Nat := rows.findIdx? fun r => !validEntry r

/-! ## Triggers (R268) -/

/-- The forecast counters of a launch changed. -/
def modCounters (s : State) (launch : Nat) (f : ForecastCounters → ForecastCounters) : State :=
  modLaunch s launch fun l => { l with fc := f l.fc }

/-- R273: a saturating 64-bit count. -/
def satAdd (a b : Nat) : Nat := Nat.min (a + b) (2 ^ 64 - 1)

/-- One entry triggered. -/
def trigger (launch team : Nat) (s : State) (x : Nat × ForecastEntry) : State :=
  modCounters
    { s with nextId := s.nextId + 1, actions := s.actions ++ [⟨s.nextId, launch, team, x.1, x.2⟩] } launch
    fun c => { c with triggers := satAdd c.triggers 1 }

/-- The entries of the table bound to a launch, numbered. -/
def boundEntries (s : State) (launch : Nat) : List (Nat × ForecastEntry) :=
  match (launchBy s launch).bind (·.binding) with
  | some b => b.entries.zipIdx.map fun p => (p.2, p.1)
  | none => []

/-- R268: the armed entries that select the team and whose threshold the marker reaches. -/
def reachedEntries (s : State) (launch team : Nat) : List (Nat × ForecastEntry) :=
  (teamBy s launch team).elim [] fun t => (boundEntries s launch).filter fun x =>
    t.armed.getD x.1 false && selects x.2 team && decide (threshold x.2 ≤ t.marker)

/-- R268: every armed entry that selects the team and whose threshold the marker reaches, triggered and disarmed. -/
def triggerReached (s : State) (launch team : Nat) : State :=
  let hit := reachedEntries s launch team
  modTeamBy (hit.foldl (trigger launch team) s) launch team fun t =>
    { t with armed := t.armed.mapIdx fun i a => a && !(hit.any fun x => x.1 == i) }

/-- R268: every entry that selects the team armed, but for some. -/
def armBut (s : State) (launch team : Nat) (but : List Nat) : State :=
  let es := boundEntries s launch
  modTeamBy s launch team fun t => { t with armed := es.map fun x => selects x.2 team && !but.contains x.1 }

/-- R268: every entry that selects the team armed. -/
def armAll (s : State) (launch team : Nat) : State := armBut s launch team []

/-! ## The require check (R270) -/

/-- The require-near entries of a marker that are not near-resident or do not resolve. -/
def missing (s : State) (launch team k : Nat) : List (Nat × ForecastEntry) :=
  let part := (launchBy s launch).elim 0 (·.partition)
  (boundEntries s launch).filter fun x =>
    x.2.action == 0 && x.2.marker == k && selects x.2 team &&
      match resolveEntry s part x.2 with
      | none => true
      | some o => !nearResident s o x.2

/-- Those of them whose handle resolves, which hold a stalled mark. -/
def holding (s : State) (launch team k : Nat) : List (Nat × ForecastEntry) :=
  let part := (launchBy s launch).elim 0 (·.partition)
  (missing s launch team k).filter fun x => (resolveEntry s part x.2).isSome

/-- An action on the entry has been triggered and has not ended. -/
def inProgress (s : State) (launch entry : Nat) : Bool :=
  s.actions.any (fun a => a.launch == launch && a.entry == entry) ||
    s.moves.any fun m => m.launch == launch && m.action != 0 && m.entry == entry

/-- R270, R369: the holding entries whose movement is not in progress triggered again; the others that do not resolve
are counted as failed. -/
def retrigger (s : State) (launch team k : Nat) : State :=
  let held := holding s launch team k
  let failed := (missing s launch team k).length - held.length
  let s1 := (held.filter fun x => !inProgress s launch x.1).foldl (trigger launch team) s
  modCounters s1 launch fun c => { c with failedActions := satAdd c.failedActions failed }

/-- R273: the checks and misses of a marker counted. -/
def countChecks (s : State) (launch team k : Nat) : State :=
  let all := (boundEntries s launch).filter fun x => x.2.action == 0 && x.2.marker == k && selects x.2 team
  let miss := missing s launch team k
  let last := miss.getLast?.map fun x => x.1 % 2 ^ 16 + k % 2 ^ 16 * 2 ^ 16 + team * 2 ^ 32
  modCounters s launch fun c =>
    { c with checks := satAdd c.checks all.length, misses := satAdd c.misses miss.length, lastMiss := last.getD c.lastMiss }

/-- R102: the marks that the acting team has made in this cycle. -/
def marksNow (s : State) : MarkCycle :=
  match (teamOf s).bind (·.marks) with
  | some m => if m.cycle = s.core.cycle then m else ⟨s.core.cycle, (teamOf s).elim 0 (·.marker), [], s.core.rel, []⟩
  | none => ⟨s.core.cycle, (teamOf s).elim 0 (·.marker), [], s.core.rel, []⟩

/-- R102: the marker after one more mark of a cycle: the largest of its marks. -/
def markerWith (m : MarkCycle) (k : Nat) : Nat := m.values.foldl Nat.max k

/-- R102: the estimate of a mark stands: it is the first of its cycle, has a larger value than the others, or the same value from a
core of lower relative index. -/
def markStands (m : MarkCycle) (k rel : Nat) : Bool :=
  m.values.all (fun v => decide (v ≤ k)) && (!m.values.contains k || decide (rel < m.rel))

/-- R268: a mark takes the team's marker down, where none of its cycle has yet. -/
def markDown (m : MarkCycle) (k : Nat) : Bool := decide (k < m.base) && m.values.all fun v => decide (m.base ≤ v)

/-- R102, R268, steps 1 and 2: the team's marker and estimate set. Marks of one cycle leave the state that they leave in the order of
their values: a new pass when the smallest goes down, and every entry triggered once that is armed in it and that the largest
reaches. -/
def setMarker (s : State) (k : Nat) (eta : BitVec 32) : State :=
  let launch := s.core.launch
  let team := s.core.team
  let m := marksNow s
  let stands := markStands m k s.core.rel
  let s1 := modTeam s fun t =>
    { t with marker := markerWith m k, eta := if stands then eta else t.eta, lastMark := s.micros
             pass := if markDown m k then (t.pass + 1) % 2 ^ 48 else t.pass }
  let s2 := if markDown m k then armBut s1 launch team m.fired else s1
  let now := (reachedEntries s2 launch team).map (·.1)
  modTeam (triggerReached s2 launch team) fun t =>
    { t with marks := some { m with values := m.values ++ [k], rel := if stands then s.core.rel else m.rel, fired := m.fired ++ now } }

/-- R102, R270: the mark of the acting context retires: marker, triggers and the require check under the launch's
policy. `op` is the mark, which a stall leaves waiting. Two marks of one value in one cycle make one check (R102). -/
def markRetires (s : State) (op : Instr) (k : Nat) (eta : BitVec 32) : State :=
  let launch := s.core.launch
  let team := s.core.team
  let s1 := setMarker s k eta
  let miss := missing s1 launch team k
  let s2 := if (marksNow s).values.contains k then s1 else countChecks s1 launch team k
  match (launchOf s2).elim 2 (·.policy), miss with
  | _, [] => s2
  | 0, _ =>
    let s3 := retrigger s2 launch team k
    let held := holding s3 launch team k
    if held.isEmpty then s3 else modCtx (addWait s3 0 op) fun c => { c with holds := held.map (·.1) }
  | 1, x :: _ =>
    modCounters (takeTrap s2 0x08 0 (x.1 % 2 ^ 16 + k * 2 ^ 16) 0) launch fun c => { c with missTraps := satAdd c.missTraps 1 }
  | _, _ => s2

end Sys2Proof.Machine
end

