-- ==== Sys2Proof/Machine/Quota.lean ====
section
/-!
DEFINITION. The near-tier quota (R265): the pages that no eviction takes, the eviction of the least recently used, and the room that an
arrival of pages needs.
-/

namespace Sys2Proof.Machine

/-- R265: a team of the launch that an entry selects has not yet passed its marker. -/
def notPassed (l : Launch) (e : ForecastEntry) : Bool :=
  l.teams.any fun t => selects e t.index && decide (t.marker ≤ e.marker)

/-- R265: the page is named by a require-near entry of a bound table whose marker a team has not yet passed. -/
def protectedPage (s : State) (k : ObjKey) (page : Nat) : Bool :=
  s.launches.any fun l =>
    !l.ended && l.binding.elim false fun b => b.entries.any fun e =>
      e.action == 0 && handleKey e.handle == k && notPassed l e &&
        (resolveEntry s l.partition e).elim false fun o => (rangePages o (natPoint e.start) e.extent).contains page

/-- R265: the pages that an eviction may take: near, not moving, not protected, and not those that the action needs. -/
def evictable (s : State) (part die : Nat) (need : List (ObjKey × Nat)) : List (ObjKey × Nat) :=
  (nearPages s part die).filter fun p =>
    !need.contains p && !protectedPage s p.1 p.2 && !s.moves.any fun m => m.obj == p.1 && m.page == p.2

/-- R265: the least recently used of some pages: the first that has not been used at all, else the one whose last use lies furthest
back. -/
def leastRecent (s : State) (cand : List (ObjKey × Nat)) : Option (ObjKey × Nat) :=
  match cand.find? fun p => !s.pageUse.contains p with
  | some p => some p
  | none => s.pageUse.find? cand.contains

/-- R265, R273: one page evicted into the far tier, the least recently used of those that may be; the launch of the action counts
its bytes. -/
def evictOne (s : State) (launch : Option Nat) (cand : List (ObjKey × Nat)) : Option State :=
  (leastRecent s cand).bind fun p =>
    let n := (objAt s p.1).elim 1 fun o => pageCopies o p.2
    let t := putPage s p.1 p.2 true
    if farRoom s n then
      some (launch.elim t fun l => modCounters t l fun c => { c with toFar := satAdd c.toFar (n * Config.pageBytes) })
    else none

/-- R265: evictions until n more pages fit, `fuel` of them at most; none when no page can be evicted. -/
def makeRoom (launch : Option Nat) (part die : Nat) (need : List (ObjKey × Nat)) (n : Nat) : Nat → State → Option State
  | 0, s => if nearUse s part die + n ≤ quotaOf s part die then some s else none
  | fuel + 1, s =>
    if nearUse s part die + n ≤ quotaOf s part die then some s
    else (evictOne s launch (evictable s part die need)).bind (makeRoom launch part die need n fuel)

/-- R265: evictions until n more pages fit on a die, as many as it takes. -/
def roomOn (s : State) (launch : Option Nat) (part die : Nat) (need : List (ObjKey × Nat)) (n : Nat) : Option State :=
  makeRoom launch part die need n (nearPages s part die).length s

/-- R2, R265: pages of an object that have come to take more room on a die than its partition's quota leaves: others are evicted, and
where none can be, these go into the far tier while it has room (log entry 106). -/
def fitQuota (s : State) (k : ObjKey) (die : Nat) (pages : List Nat) : State :=
  match objAt s k with
  | none => s
  | some o =>
    (roomOn s none o.partition die (pages.map fun p => (k, p)) 0).getD
      (pages.foldl (fun t p => if farRoom t (pageCopies o p) then putPage t k p true else t) s)

end Sys2Proof.Machine
end

