-- ==== Sys2Proof/Machine/Access.lean ====
section
/-!
DEFINITION. How commands read and write the elements of objects: who issued a command, its view (R210), absence and
uncorrectable data on its way (R306, R371), rows fetched through a tile map (R212, R215), rows put into a draft (R217), and
coded blocks (R279).
-/

namespace Sys2Proof.Machine

/-! ## The command's context, partition and object -/

/-- The launch runs reproducibly. -/
def cmdRepro (s : State) (c : Cmd) : Bool := (cmdLaunch s c).elim false (·.repro)

/-- R212: the rounding of a command's conversion. -/
def cmdRounding (c : Cmd) : Rounding := ⟨shapeConvMode c.cap.shape, c.cap.seed.toNat⟩

/-- R348: a host buffer's bytes, which lie in its partition's host memory. -/
def hostWindow (s : State) (o : Obj) : Mem :=
  sliceMem ((partitionBy s o.partition).elim [] (·.hostMem)) o.iova (extentAt o 0)

/-- R210, R348: the bytes of the command's view, expanded, with the version when it is published. -/
def viewBytes (s : State) (c : Cmd) (o : Obj) : Option Nat × Mem :=
  let v := viewOf o (cmdCtx s c)
  (v.1, if o.kind = .host then hostWindow s o else storeBytes o v.2)

/-! ## Regions -/

/-- R216: the signed index of row i. -/
def rowIndex (c : Capture) (i : Nat) : Int := signedOf 32 (readNat c.next (4 * i) 4)

/-- R216, R217: the rows that a mask selects. -/
def pickedRows (c : Capture) : List Nat := (List.range (shapeRows c.shape)).filter fun i => bitOf c.mask.toNat i

/-- R218: the count of blocks of a command. -/
def blockCount (c : Capture) : Nat := (c.args.headD 0).toNat

/-- R218: the greatest block count. -/
def maxBlocks : Nat := 2 ^ 24

/-- The operation takes its rows by indices. -/
def byIndex : Instr → Bool
  | .hgat .. | .hsca .. => true
  | _ => false

/-- The operation takes n blocks. -/
def byBlocks : Instr → Bool
  | .hcopy .. | .hpfl2 .. | .hres .. => true
  | _ => false

/-- The rows of a command's region: the place of each in its tile or range, and the distance of its object row from the
start tuple. -/
def regionRows (c : Cmd) : List (Nat × Int) :=
  if byIndex c.op then (pickedRows c.cap).map fun i => (i, rowIndex c.cap i)
  else if byBlocks c.op then
    (List.range (if blockCount c.cap ≤ maxBlocks then blockCount c.cap * shapeRows c.cap.shape else 0)).map fun i => (i, (i : Int))
  else (List.range (shapeRows c.cap.shape)).map fun i => (i, (i : Int))

/-- The coordinates of element e of a row. -/
def rowPoint (t : TileMap) (shift : Int) (e : Nat) : List Nat := natPoint (mapPoint t shift 0 e)

/-- R208, check 3, of a command's region: the coordinate that lies outside. Where the shape does not fit the object, only
the start tuple is checked. -/
def regionOutside (c : Cmd) (o : Obj) : Option Nat :=
  match tileMap c.cap.shape c.cap.tuple o with
  | .error _ => outsidePoint o (tupleInts c.cap.tuple)
  | .ok t =>
    if byIndex c.op then firstSome ((regionRows c).map fun r => outsideRect o t r.2 1)
    else if byBlocks c.op then
      if maxBlocks < blockCount c.cap then none else outsideRect o t 0 (blockCount c.cap * shapeRows c.cap.shape)
    else outsideRect o t 0 (shapeRows c.cap.shape)

/-- Shards a to b. -/
def shardRange (a b : Nat) : List Nat := (List.range (b + 1 - a)).map (a + ·)

/-- The shards that rows of a map touch. -/
def rowShards (o : Obj) (t : TileMap) (shifts : List Int) : List Nat :=
  if shardCount o = 1 then [0]
  else
    (shifts.flatMap fun x => shardRange (shardOf o (rowPoint t x 0)) (shardOf o (rowPoint t x (t.elems - 1)))).eraseDups

/-- The shards of a command's region. -/
def regionShards (c : Cmd) (o : Obj) : List Nat :=
  match c.op with
  | .tdesc .. =>
    if shardCount o = 1 ∨ shardCoord o = 1 then [0]
    else if shardCoord o = 2 then shardRange 0 ((extentAt o 2 / 2 - 1) / shardChunk o)
    else shardRange 0 (shardCount o - 1)
  | _ =>
    match tileMap c.cap.shape c.cap.tuple o with
    | .error _ => []
    | .ok t => rowShards o t ((regionRows c).map (·.2))

/-- R208, check 4: the subcause and the first shard that is absent. -/
def firstAbsent (s : State) (o : Obj) (version reader : Option Nat) : List Nat → Option (Nat × Nat)
  | [] => none
  | n :: r =>
    if absentCause s o n version reader = 0 then firstAbsent s o version reader r else some (absentCause s o n version reader, n)

/-! ## Rows read -/

/-- What a row of a tile takes from an object: its bytes, the absent elements and the flags. -/
structure RowRead where
  bytes : List Byte
  absent : Nat
  flags : Flags
  deriving DecidableEq, Repr

/-- The row starts at a block of its object, so that its blocks are the object's. -/
def blockAligned (t : TileMap) : Bool := decide (t.start.getD t.elemCoord 0 % 32 = 0)

/-- R215: one element of a row in format f: its code, whether it is absent, and its flags; `ix` is its element index. -/
def readElement (s : State) (o : Obj) (m : Mem) (v rd : Option Nat) (conv : Bool) (f : Nat) (r : Rounding) (ix : Nat) (q : List Nat) :
    Nat × Bool × Flags :=
  if absentElem s o v rd q then (0, true, 0)
  else if conv then
    let x := elemValue o m q
    let y := convCode f r ix x.1
    (y.1, false, x.2 ||| y.2)
  else (elemCode o m q, false, 0)

/-- The last element of group k of a row. -/
def groupEnd (t : TileMap) (shift : Int) (k : Nat) : List Nat := rowPoint t shift (Nat.min (32 * k + 31) (t.elems - 1))

/-- R42, R212: the header of block k of an OX4 row. Where the row does not start at a block of its object, the group lies in two
blocks, and the manual gives no value: it is a free value of the two blocks' headers. -/
def oxHeader (s : State) (o : Obj) (m : Mem) (v rd : Option Nat) (t : TileMap) (shift : Int) (k : Nat) : List Byte :=
  let q := rowPoint t shift (32 * k)
  if absentElem s o v rd q then [0, 0]
  else
    let here := readBytes m (elemAddr o q) 2
    let both := here ++ readBytes m (elemAddr o (groupEnd t shift k)) 2
    if blockAligned t then here else [Config.straddled both 0, Config.straddled both 1]

/-- R212: the scale of group k of a row with stored scales. -/
def rowScale (s : State) (o : Obj) (m : Mem) (v rd : Option Nat) (t : TileMap) (shift : Int) (k : Nat) : Byte :=
  let q := rowPoint t shift (32 * k)
  if absentElem s o v rd q then 0
  else
    let here := readByte m (scaleAddr o q)
    if blockAligned t then here else Config.straddled [here, readByte m (scaleAddr o (groupEnd t shift k))] 0

/-- R35, R42: the elements of a row packed in format f. -/
def packRow (f : Nat) (codes : List Nat) (header : Nat → List Byte) : List Byte :=
  if f = 0xB then
    (List.range (rowBlocks codes.length)).flatMap fun k =>
      header k ++ bytesOfNat 16 (packLanes 4 ((codes.drop (32 * k)).take 32))
  else bytesOfNat (packedBytes f codes.length) (packLanes (elemBits f) codes)

/-- R215: one row read; `row` is its place for the element index, which is not reduced to 32 bits (log entry 127). -/
def readRow (s : State) (c : Cmd) (o : Obj) (m : Mem) (v : Option Nat) (t : TileMap) (row : Nat) (shift : Int) : RowRead :=
  let f := shapeFmt c.cap.shape
  let r := cmdRounding c
  let rd := cmdCluster s c
  let x := (List.range t.elems).map fun e =>
    readElement s o m v rd (shapeConv c.cap.shape) f r (row * t.elems + e) (rowPoint t shift e)
  let scales := if t.scales then (List.range (rowBlocks t.elems)).map (rowScale s o m v rd t shift) else []
  ⟨packRow f (x.map (·.1)) (oxHeader s o m v rd t shift) ++ scales, (x.filter (·.2.1)).length, orFlags (x.map (·.2.2))⟩

/-! ## Rows written -/

/-- R217: the code of element e of a row of bytes. -/
def rowCode (f : Nat) (bs : List Byte) (e : Nat) : Nat :=
  if f = 0xB then bitsAt bs (144 * (e / 32) + 16 + 4 * (e % 32)) 4 else elemAt f bs e

/-- R217: an OX4 block header written beside its codes. Where the row does not start at a block of the object, the header is a
free value of the row's header and the block's. -/
def putHeader (o : Obj) (t : TileMap) (shift : Int) (bs : List Byte) (m : Mem) (k : Nat) : Mem :=
  let a := elemAddr o (rowPoint t shift (32 * k))
  let new := [bs.getD (18 * k) 0, bs.getD (18 * k + 1) 0]
  let both := new ++ readBytes m a 2
  writeBytes m a (if blockAligned t then new else [Config.straddled both 0, Config.straddled both 1])

/-- R217: a stored scale written. -/
def putScale (o : Obj) (t : TileMap) (shift : Int) (bs : List Byte) (m : Mem) (k : Nat) : Mem :=
  let a := scaleAddr o (rowPoint t shift (32 * k))
  let new := bs.getD (packedBytes o.fmt.toNat t.elems + k) 0
  writeByte m a (if blockAligned t then new else Config.straddled [new, readByte m a] 0)

/-- R217: a row whose bits are copied, with headers and scales. -/
def putRaw (o : Obj) (t : TileMap) (shift : Int) (bs : List Byte) (m : Mem) : Mem :=
  let f := o.fmt.toNat
  let m1 := (List.range t.elems).foldl (fun m e => putElem o m (rowPoint t shift e) (rowCode f bs e)) m
  let m2 := if f = 0xB then (List.range (rowBlocks t.elems)).foldl (putHeader o t shift bs) m1 else m1
  if t.scales then (List.range (rowBlocks t.elems)).foldl (putScale o t shift bs) m2 else m2

/-- The coordinates of the 32 elements of the block that holds an element. -/
def blockPoints (o : Obj) (q : List Nat) : List (List Nat) :=
  let base := q.headD 0 / 32 * 32
  (List.range 32).filterMap fun k => if base + k < extentAt o 0 then some (q.set 0 (base + k)) else none

/-- R151: a block of an OX4 object quantised again with new values at some of its elements, each with its element index; the
other elements keep their values, and those past the extent are zero. -/
def requantise (o : Obj) (r : Rounding) (new : List (List Nat × Nat × FVal)) (m : Mem) (q : List Nat) : Mem × Flags :=
  let find := fun (p : List Nat) => new.find? fun n => n.1 == p
  let vals := (blockPoints o q).map fun p => ((find p).map (·.2.2)).getD (elemValue o m p).1
  let ixs := (blockPoints o q).map fun p => ((find p).map (·.2.1)).getD 0
  let x := quantOx4At r (fun k => ixs.getD k 0) (vals ++ List.replicate (32 - vals.length) (.fin false 0 0))
  (writeBytes m (elemAddr o q) x.1, x.2)

/-- R217: a row converted into the object's format; tile element e has the element index `row` × E + e. -/
def putConverted (c : Cmd) (o : Obj) (t : TileMap) (row : Nat) (shift : Int) (bs : List Byte) (m : Mem) : Mem × Flags :=
  let f := shapeFmt c.cap.shape
  let r := cmdRounding c
  let vals := (List.range t.elems).map fun e => (rowPoint t shift e, row * t.elems + e, elemVal f (rowCode f bs e))
  if o.fmt = 0xB then
    (((vals.map fun p => elemAddr o p.1).eraseDups).filterMap fun a => (vals.find? fun p => elemAddr o p.1 == a).map (·.1)).foldl (fun a q =>
      let x := requantise o r vals a.1 q
      (x.1, a.2 ||| x.2)) (m, 0)
  else
    vals.foldl (fun a p =>
      let x := convCode o.fmt.toNat r p.2.1 p.2.2
      (putElem o a.1 p.1 x.1, a.2 ||| x.2)) (m, 0)

/-- R217: one row written. -/
def putRow (c : Cmd) (o : Obj) (t : TileMap) (bs : List Byte) (row : Nat) (shift : Int) (m : Mem) : Mem × Flags :=
  if shapeConv c.cap.shape then putConverted c o t row shift bs m else (putRaw o t shift bs m, 0)

/-- R265: pages noted as the last used. -/
def notePages (s : State) (k : ObjKey) (pages : List Nat) : State :=
  if pages.isEmpty then s
  else { s with pageUse := (s.pageUse.filter fun x => !(x.1 == k && pages.contains x.2)) ++ pages.map fun p => (k, p) }

/-- R265, R274: the pages of an object that an access to some addresses of its expanded storage uses. -/
def usePages (s : State) (o : Obj) (addrs : List Nat) : State :=
  let held := if o.compressed then (liveStores o).flatMap fun st => codedAddrs o st addrs else addrs
  notePages s o.key (if o.kind = .host then [] else (held.map (· / Config.pageBytes)).eraseDups)

/-- R302, R307: the translations of an open draft that cover chunks which it copies at their first write, removed. -/
def dropDraftXlats (o : Obj) (chunks : List Nat) (l : List Xlat) : List Xlat :=
  l.filter fun x => !(x.obj == o.key && x.draft && chunks.any fun c =>
    decide (shardBase x.shard + x.base < (c + 1) * Config.chunkBytes) && decide (c * Config.chunkBytes < shardBase x.shard + x.limit))

/-- R307: the chunks of an object that its open draft has written. -/
def addWritten (new : List Nat) (o : Obj) : Obj := { o with draft := o.draft.map fun d => { d with written := d.written ++ new } }

/-- R265, R307: the pages that take more room after a draft has copied some chunks. -/
def grownPages (s : State) (o : Obj) (new : List Nat) : List Nat :=
  ((new.map fun c => c * Config.chunkBytes / Config.pageBytes).eraseDups).filter fun p =>
    inTiers s o (pageShard p) && !o.farPages.contains p && decide (pageCopies o p < pageCopies (addWritten new o) p)

/-- R307: a write into an open draft at some addresses: the chunks that it writes for the first time are its own from now on, and
their copies take room in the tiers. -/
def noteWritten (s : State) (o : Obj) (addrs : List Nat) : State :=
  let new := ((addrs.map chunkAt).eraseDups).filter fun x => !(o.draft.elim false fun d => d.written.contains x)
  if new.isEmpty then s
  else
    let grown := grownPages s o new
    let t := { modObj s o.key (addWritten new) with
      xlats := dropDraftXlats o new s.xlats }
    let u := modAllCores t fun c => { c with micro := dropDraftXlats o new c.micro }
    ((grown.map fun p => shardDie o (pageShard p)).eraseDups).foldl
      (fun v die => fitQuota v o.key die (grown.filter fun p => shardDie o (pageShard p) == die)) u

/-- The draft's storage replaced. -/
def setDraftStore (s : State) (k : ObjKey) (st : Store) : State :=
  modObj s k fun o => { o with draft := o.draft.map fun d => { d with store := st } }

/-- The draft's storage. -/
def draftStore (o : Obj) : Store := o.draft.elim ⟨[], []⟩ (·.store)

/-- The bytes that a write into the draft starts from: the draft's own, or host memory (R348). -/
def draftBytes (s : State) (o : Obj) : Mem := if o.kind = .host then hostWindow s o else (draftStore o).bytes

/-- The draft's bytes replaced after a write at some addresses; those of a host buffer go to host memory (R348). -/
def setDraftBytes (s : State) (o : Obj) (m : Mem) (addrs : List Nat) : State :=
  if o.kind = .host then
    modPartition s o.partition fun p => { p with hostMem := spliceMem p.hostMem o.iova (extentAt o 0) m }
  else setDraftStore (usePages (noteWritten s o addrs) o addrs) o.key { draftStore o with bytes := m }

/-! ## Lines of the caches (R219, R262, R263) -/

/-- R262: the line tag of a version or a draft. -/
def lineTag (o : Obj) (v : Option Nat) : Nat := v.getD (2 ^ 32 + o.draftNo)

/-- R219, R262: a line of a view where it may be cached: in the L2 of its shard's home die, or in the remote-data cache of the
issuing die; none for a draft line homed on another package, for an absent line, and for host memory (R348). -/
def cacheLine (s : State) (die : Nat) (reader : Option Nat) (o : Obj) (v : Option Nat) (line : Nat) : Option CacheLine :=
  let n := line * 128 / shardBase 1
  if o.kind = .host ∨ absentCause s o n v reader ≠ 0 then none
  else if shardPackage o n = s.package then some ⟨shardDie o n, false, o.key, lineTag o v, line⟩
  else v.map fun x => ⟨die, true, o.key, x, line⟩

/-- The first n members of a list that satisfy a condition taken out. -/
def dropFirst (p : CacheLine → Bool) : Nat → List CacheLine → List CacheLine
  | _, [] => []
  | 0, l => l
  | n + 1, x :: r => if p x then dropFirst p n r else x :: dropFirst p (n + 1) r

/-- R2, R262: the lines of the cache that would pass its capacity dropped, those brought first before the others. -/
def trimCache (l : List CacheLine) (x : CacheLine) : List CacheLine :=
  let here := fun (y : CacheLine) => y.die == x.die && y.remote == x.remote
  dropFirst here ((l.filter here).length - (if x.remote then Config.remoteLines else Config.l2Lines)) l

/-- Lines brought into their caches. -/
def addLines (s : State) (ls : List CacheLine) : State :=
  let all := s.lines ++ (ls.filter fun l => !s.lines.contains l).eraseDups
  { s with lines := (ls.map fun l => { l with line := 0, version := 0, obj := ⟨0, 0⟩ }).eraseDups.foldl trimCache all }

/-- R348: the first element of a run of a host buffer that the host's IOMMU rejects. -/
def hostRejects (s : State) (o : Obj) (points : List (List Nat)) : Option Nat :=
  if o.kind = .host then
    let bad := (partitionBy s o.partition).elim [] (·.rejected)
    (points.map fun q => q.headD 0).find? fun e =>
      bad.any fun r => decide (r.1 ≤ o.iova + e) && decide (o.iova + e < r.1 + r.2)
  else none

/-- The elements of rows of a map. -/
def rowsPoints (t : TileMap) (shifts : List Int) : List (List Nat) :=
  shifts.flatMap fun x => (List.range t.elems).map (rowPoint t x)

/-! ## Coded blocks (R275, R279) -/

/-- The coordinates of a linear index over extents. -/
def unlinear : List Nat → Nat → List Nat
  | [], _ => []
  | n :: r, l => l % (Nat.max 1 n) :: unlinear r (l / Nat.max 1 n)

/-- R279: two compressed objects of one format and bound. -/
def sameCoding (a b : Obj) : Bool :=
  a.compressed && b.compressed && a.fmt == b.fmt && a.epsZero == b.epsZero && (a.epsZero || a.epsExp == b.epsExp)

/-- R279, mode 3: the source block that covers a destination block element by element, as it is stored. -/
def sourceBlock (dst src : Obj) (st : Store) (b : Nat) : Option (List Byte) :=
  let from_ := (blockRange dst b).map fun l => linearIndex src (unlinear dst.extent l)
  let n := from_.headD 0 / blockElems
  if sameCoding dst src && from_ == blockRange src n then st.blocks[n]? else none

end Sys2Proof.Machine
end

