-- ==== Sys2Proof/Machine/Publish.lean ====
section
/-!
DEFINITION. The ends of drafts and the publish step (R222, R309, R310), subscriptions (R224), and the version commands
`hopen` to `hver` as they are performed (R221 to R225).
-/

namespace Sys2Proof.Machine

/-- The joined-draft entries of a draft dropped in a context. -/
def dropEntries (k : ObjKey) (no : Nat) (c : Ctx) : Ctx :=
  { c with drafts := c.drafts.filter fun d => !(d.obj == k && d.draftNo == no) }

/-- Every context of every core changed. -/
def modAllCtxs (s : State) (f : Ctx → Ctx) : State := modAllCores s fun c => { c with ctxs := c.ctxs.map f }

/-- R371: a bad location that only the open draft of an object holds. -/
def draftBad (k : ObjKey) (b : BadLoc) : Bool :=
  match b with | .draftChunk x _ | .dirtyLine x _ => x == k | _ => false

/-- R307, R371: what is bad in a draft's own chunks is bad in the version that they become. -/
def publishedBad (k : ObjKey) (n : Nat) (b : BadLoc) : BadLoc :=
  match b with
  | .draftChunk x c => if x = k then .tier k n c else b
  | .dirtyLine x l => if x = k then .tier k n (chunkAt (l * 128)) else b
  | _ => b

/-- R222, R302, R309, R356: what the end of a draft takes with it: every joined-draft entry, the translation entries and
lines of the draft, its bad locations, and the pending bytes. -/
def endDraft (s : State) (o : Obj) : State :=
  let s1 := modAllCtxs s (dropEntries o.key o.draftNo)
  { modObj (modAllCores s1 fun c => { c with micro := c.micro.filter fun x => !(x.obj == o.key && x.draft) }) o.key fun o =>
      { o with draft := none, pendingBytes := 0 } with
    xlats := s1.xlats.filter fun x => !(x.obj == o.key && x.draft)
    bad := s1.bad.filter fun b => !draftBad o.key b
    lines := s1.lines.filter fun l => !(l.obj == o.key && decide (2 ^ 32 ≤ l.version)) }

/-- The team's image is being written or read. -/
def Team.busy (t : Team) : Bool := t.status == .saving || t.status == .restoring

/-- An arrival held until a team's image has been written or read (R334, R335). -/
def holdArrival (s : State) (launch team : Nat) (event : Instr) : State :=
  modTeamBy s launch team fun t => { t with arrivals := if t.arrivals.contains event then t.arrivals else t.arrivals ++ [event] }

/-- R334: an arrival for a command's team, held while its image is written or read, and otherwise applied. -/
def arriveFor (s : State) (c : Cmd) (event : Instr) (f : State → State) : State :=
  match coreOf s c.core, cmdTeam s c with
  | some d, some t => if t.busy then holdArrival s d.launch d.team event else f s
  | _, _ => f s

/-- R310, R334: a subscription completed; for a team whose image is being written or read its completion word is held. -/
def completeSub (s : State) (c : Cmd) (x : Result) : State :=
  match coreOf s c.core, cmdTeam s c with
  | some d, some t =>
    if t.busy then holdArrival (setResult s c.id x) d.launch d.team (.commandCompletion c.id) else deliver s c x
  | _, _ => deliver s c x

/-- R310: the subscriptions pending at the step completed in the order of registration. -/
def completeSubs (s : State) (k : ObjKey) (subs : List Sub) (n : Nat) : State :=
  let s1 := modObj s k fun o => { o with subs := o.subs.filter fun x => !(subs.any fun y => y.cmd == x.cmd) }
  subs.foldl (fun x u => (cmdBy x u.cmd).elim x fun c => completeSub x c (plainResult 0x00 0 (if u.v then n else 0))) s1

/-- R307: for each chunk of a draft, the version whose draft wrote it, once it is published as version n: its own chunks, and
those that it shares with its base. -/
def originAfter (o : Obj) (d : Draft) (n : Nat) : List (Nat × Nat) :=
  d.written.map (·, n) ++
    ((o.versions.find? fun v => v.num == d.base).elim [] (·.origin)).filter fun x => !d.written.contains x.1

/-- R309: the draft becomes the version after the current one. -/
def addVersion (d : Draft) (o : Obj) : Obj :=
  { o with
    current := o.current + 1
    versions := ⟨o.current + 1, d.store, o.bufPages - 1, originAfter o d (o.current + 1)⟩ :: o.versions
    bufPages := Nat.min o.bufPages 1 }

/-- R402: the router at once opens a new draft on the version published. -/
def reopenDraft (k : ObjKey) (s : State) : State := modObj s k (openDraft true)

/-- R309, R310: THE PUBLISH STEP of an object's draft; with `again` the router goes on with a new draft (R402). -/
def publishNow (s : State) (k : ObjKey) (again : Bool) : State :=
  match objAt s k with
  | none => s
  | some o =>
    match o.draft with
    | none => s
    | some d =>
      let s1 := endDraft { modObj s k (addVersion d) with bad := s.bad.map (publishedBad k (o.current + 1)) } o
      let s2 := pruneVersions s1 k
      let s3 := if again then reopenDraft k s2 else s2
      completeSubs s3 k o.subs (o.current + 1)

/-- R222: how many versions a publish would retain beside the new one. -/
def wouldRetain (s : State) (o : Obj) : Nat := (o.versions.filter fun v => versionHeld s o v.num).length

/-- R6: the router's or a buffer's own publish may be made: it would retain no fourth older version, and a version number is left.
Where it may not, what would publish waits (log entry 105). -/
def mayPublish (s : State) (o : Obj) : Bool := decide (wouldRetain s o < 4) && decide (o.current < 0xFFFFFFFF)

/-- R222: `hpub` performed. -/
def performPub (s : State) (c : Cmd) : State :=
  match cmdObj s c with
  | none => setResult s c.id (plainResult 0x13 0 0)
  | some o =>
    if !liveDraft o (cmdCtx s c) then setResult s c.id (plainResult 0x13 0 0)
    else if 4 ≤ wouldRetain s o then setResult s c.id (plainResult 0x14 0 0)
    else if 0xFFFFFFFF ≤ o.current then setResult s c.id (plainResult 0x18 0 0)
    else
      setResult (publishNow s o.key (o.draft.elim false (·.routed))) c.id (plainResult 0x00 0 (o.current + 1))

/-- R222, R307: a draft discarded; an expert buffer's further pages go back to their pool (R229). -/
def discardDraft (s : State) (o : Obj) : State :=
  let s1 := endDraft s o
  { modObj s1 o.key fun o => { o with bufPages := Nat.min o.bufPages 1 } with
    pools := s1.pools.modify o.loc.die (· + (o.bufPages - 1)) }

/-- A command that names an object, performed: gone objects refuse with 0x13. -/
def onObj (s : State) (c : Cmd) (f : Obj → State) : State :=
  match cmdObj s c with
  | none => deliver s c (plainResult 0x13 0 0)
  | some o => f o

/-- R222, R402: `hdisc`. -/
def performDisc (s : State) (c : Cmd) : State :=
  onObj s c fun o =>
    if !liveDraft o (cmdCtx s c) then deliver s c (plainResult 0x13 0 0)
    else if o.draft.elim false (·.routed) then deliver s c (plainResult 0x1F 0 0)
    else deliver (discardDraft s o) c (plainResult 0x00 0 o.current)

/-- A launch noted among those that have joined an object's draft. -/
def noteJoined (launch : Nat) (o : Obj) : Obj :=
  { o with draft := o.draft.map fun d => { d with joined := if d.joined.contains launch then d.joined else d.joined ++ [launch] } }

/-- A joined-draft entry added to the command's context. -/
def addDraftEntry (s : State) (c : Cmd) (o : Obj) (no : Nat) : State :=
  modCtxOf (modObj s o.key (noteJoined ((coreOf s c.core).elim 0 (·.launch)))) c.core c.ctx fun x =>
    { x with drafts := x.drafts ++ [⟨o.key, c.cap.handle, no⟩] }

/-- R221: `hopen`. -/
def performOpen (s : State) (c : Cmd) : State :=
  onObj s c fun o =>
    let full := decide (Config.tableEntries ≤ (cmdCtx s c).drafts.length)
    match o.draft with
    | some d =>
      if liveDraft o (cmdCtx s c) then deliver s c (plainResult 0x04 0 d.base)
      else if full then deliver s c (plainResult 0x16 0 0)
      else deliver (addDraftEntry s c o o.draftNo) c (plainResult 0x04 0 d.base)
    | none =>
      if full then deliver s c (plainResult 0x16 0 0)
      else
        let s1 := modObj s o.key (openDraft false)
        deliver (addDraftEntry s1 c o ((o.draftNo + 1) % 2 ^ 16)) c (plainResult 0x00 0 o.current)

/-- R223: `hpin`. -/
def performPin (s : State) (c : Cmd) (v : Bool) : State :=
  onObj s c fun o =>
    let pins := (cmdCtx s c).pins
    let had := pins.any fun p => p.obj == o.key
    if !had && decide (Config.tableEntries ≤ pins.length) then deliver s c (plainResult 0x16 0 0)
    else
      let s1 := modCtxOf s c.core c.ctx fun x =>
        { x with pins := (x.pins.filter fun p => p.obj != o.key) ++ [⟨o.key, c.cap.handle, o.current⟩] }
      deliver (pruneVersions s1 o.key) c (plainResult 0x00 0 (if v then o.current else 0))

/-- R223: `hunpin`. -/
def performUnpin (s : State) (c : Cmd) : State :=
  onObj s c fun o =>
    if (cmdCtx s c).pins.any fun p => p.obj == o.key then
      let s1 := modCtxOf s c.core c.ctx fun x => { x with pins := x.pins.filter fun p => p.obj != o.key }
      deliver (pruneVersions s1 o.key) c (plainResult 0x00 0 0)
    else deliver s c (plainResult 0x05 0 0)

/-- Subscriptions of a context over all objects (R210). -/
def subCount (s : State) (c : Cmd) : Nat :=
  ((s.objects.flatMap (·.subs)).filter fun x => x.core == c.core && x.ctx == c.ctx).length

/-- R224: `hsub`: at once when `.cu` finds the current version past the pin; otherwise registered. -/
def performSub (s : State) (c : Cmd) (v cu : Bool) : State :=
  onObj s c fun o =>
    let pin := (cmdCtx s c).pins.find? fun p => p.obj == o.key
    if cu && pin.elim false (fun p => p.version != o.current) then
      deliver s c (plainResult 0x00 0 (if v then o.current else 0))
    else if Config.tableEntries ≤ subCount s c then deliver s c (plainResult 0x16 0 0)
    else modObj s o.key fun o => { o with subs := o.subs ++ [⟨c.id, c.core, c.ctx, v⟩] }

/-- R224: `hunsub`. -/
def performUnsub (s : State) (c : Cmd) : State :=
  onObj s c fun o =>
    let mine := o.subs.filter fun x => x.core == c.core && x.ctx == c.ctx
    let s1 := modObj s o.key fun o => { o with subs := o.subs.filter fun x => !(x.core == c.core && x.ctx == c.ctx) }
    let s2 := mine.foldl (fun x u => (cmdBy x u.cmd).elim x fun d => deliver x d (plainResult 0x17 0 0)) s1
    deliver s2 c (if mine.isEmpty then plainResult 0x05 0 0 else plainResult 0x00 0 mine.length)

/-- R299: older versions retained. -/
def olderCount (o : Obj) : Nat := (o.versions.filter fun v => v.num != o.current).length

/-- R225: `hver`. -/
def performVer (s : State) (c : Cmd) : State :=
  onObj s c fun o =>
    let x := cmdCtx s c
    let detail := Nat.min (olderCount o) 7 + b2n o.draft.isSome * 8 + b2n (liveDraft o x) * 16 +
      b2n (x.pins.any fun p => p.obj == o.key) * 32
    deliver s c (plainResult 0x00 detail o.current)

end Sys2Proof.Machine
end

