-- ==== Sys2Proof/Machine/Resolve.lean ====
section
/-!
DEFINITION. Resolution of a command's handles and coordinates (R206, R208, R211): the right and the kinds that each command
asks for, the four checks in their order, and the trap of the first that fails.
-/

namespace Sys2Proof.Machine

/-! ## Rights and kinds (R211, R235, R244, R267) -/

/-- A handle that a command names: the source handle or the other one, the right it needs (1 read, 2 write), and the kinds it
accepts. -/
abbrev Need := Bool × Nat × (Obj → Bool)

/-- The kind is the given one. -/
def kindIs (k : Kind) (o : Obj) : Bool := o.kind == k
/-- A data object. -/
def dataKind (o : Obj) : Bool := isData o.kind
/-- A data object or an expert buffer. -/
def readableKind (o : Obj) : Bool := isData o.kind || o.kind == .expert
/-- Every kind but stage sets and forecast tables. -/
def draftKind (o : Obj) : Bool := o.kind != .stage && o.kind != .forecast
/-- Every kind. -/
def anyKind (_ : Obj) : Bool := true
/-- A byte object that is an endpoint. -/
def endpointKind (o : Obj) : Bool := o.kind == .byte && o.endpoint

/-- R211: what a command needs of the handles it names. -/
def needsOf : Instr → List Need
  | .hfet .. | .hgat .. | .hpfl2 .. | .hres .. | .hprobe .. => [(false, 1, readableKind)]
  | .hput .. | .hsca .. | .hatom .. | .hatomr .. | .hcas .. | .nexp .. => [(false, 2, dataKind)]
  | .hcopy .. => [(false, 2, dataKind), (true, 1, dataKind)]
  | .hopen .. | .hpub .. | .hdisc .. => [(false, 2, draftKind)]
  | .hpin .. | .hpinV .. | .hunpin .. | .hsub .. | .hsubV .. | .hunsub .. | .hver .. => [(false, 1, anyKind)]
  | .xsend .. | .xsendLast .. => [(false, 2, kindIs .expert)]
  | .nsend .. => [(false, 2, endpointKind)]
  | .ncnt .. => [(false, 1, dataKind)]
  | .tdesc .. => [(false, 1, kindIs .tree)]
  | .tgrad .. => [(false, 2, kindIs .dense)]
  | .rbind .. | .rput .. | .rputLast .. | .rputUpd .. | .rtake .. | .rdone .. | .rdoneFail .. => [(false, 2, kindIs .stage)]
  | .rstat .. => [(false, 1, kindIs .stage)]
  | .fcbind .. => [(false, 1, kindIs .forecast)]
  | _ => []

/-- The handle of a need. -/
def needHandle (c : Cmd) (n : Need) : BitVec 64 := if n.1 then c.cap.source else c.cap.handle

/-! ## The checks of R208 -/

/-- A failed check: the trap's class, its detail and the handle. -/
abbrev CheckFail := Nat × Nat × BitVec 64

/-- Check 1 for one handle. -/
def checkHandle (s : State) (c : Cmd) (n : Need) : Option CheckFail :=
  match resolveHandle s (needHandle c n) with
  | .error e => some (0x04, e, needHandle c n)
  | .ok _ => none

/-- Check 2 for one handle. -/
def checkRights (s : State) (c : Cmd) (n : Need) : Option CheckFail :=
  match resolveFor s (cmdPart s c) (needHandle c n) n.2.1 n.2.2 with
  | .error e => some (e.1, e.2, needHandle c n)
  | .ok _ => none

/-- The object of a need. -/
def needObj (s : State) (c : Cmd) (n : Need) : Option Obj := objAt s (handleKey (needHandle c n))

/-- The operation names a region by a shape entry. -/
def hasRegion : Instr → Bool
  | .hfet .. | .hput .. | .hgat .. | .hsca .. | .hcopy .. | .hpfl2 .. | .hres .. | .hprobe .. => true
  | _ => false

/-- The operation names one element by a tuple. -/
def hasElement : Instr → Bool
  | .hatom .. | .hatomr .. | .hcas .. => true
  | _ => false

/-- Check 3 for one handle. -/
def checkBounds (s : State) (c : Cmd) (n : Need) : Option CheckFail :=
  (needObj s c n).bind fun o =>
    let out := if hasRegion c.op then regionOutside c o else if hasElement c.op then outsidePoint o (tupleInts c.cap.tuple) else none
    out.map fun j => (0x06, 1 + 256 * j, needHandle c n)

/-- R208, R238: a free command in fault mode. -/
def faultMode (c : Cmd) : Bool :=
  match c.op with
  | .hfet .. | .hgat .. | .hpfl2 .. => !shapeProbe c.cap.shape
  | .tdesc .. => true
  | _ => false

/-- Check 4 for one handle. -/
def checkAbsent (s : State) (c : Cmd) (n : Need) : Option CheckFail :=
  if faultMode c then
    (needObj s c n).bind fun o =>
      (firstAbsent s o (viewOf o (cmdCtx s c)).1 (cmdCluster s c) (regionShards c o)).map fun x => (0x07, x.1 + 256 * x.2, needHandle c n)
  else none

/-- The command reads the view of this handle. -/
def readsView (c : Cmd) (n : Need) : Bool :=
  match c.op with
  | .hfet .. | .hgat .. | .hpfl2 .. | .tdesc .. => true
  | .hcopy .. => n.1
  | _ => false

/-- The addresses of the elements of an object that a command touches. -/
def cmdAddrs (c : Cmd) (o : Obj) : List Nat :=
  if hasRegion c.op then
    match tileMap c.cap.shape c.cap.tuple o with
    | .error _ => []
    | .ok t => (rowsPoints t ((regionRows c).map (·.2))).flatMap (pointAddrs o)
  else if hasElement c.op then pointAddrs o (natPoint (tupleInts c.cap.tuple))
  else wholeAddrs o

/-- R242: the nodes on the path of a row. -/
def pathNodes (path : Nat) : Nat → Nat → Nat → List Nat
  | 0, _, _ => []
  | n + 1, level, node => node :: pathNodes path n (level + 1) (2 * node + 1 + b2n (bitOf path level))

/-- The addresses of the elements that a `tgrad` adds to. -/
def gradAddrs (c : Cmd) (o : Obj) : List Nat :=
  let nodes := (List.range c.cap.rows).flatMap fun r => pathNodes (c.cap.trace.entries.getD r 0).toNat c.cap.trace.depth.toNat 0 0
  nodes.eraseDups.flatMap fun i => (List.range (extentAt o 0)).flatMap fun e => pointAddrs o [e, i]

/-- R371: a chunk that a reader of a view meets is one with no good copy. -/
def lostChunk (o : Obj) (version : Option Nat) (addrs : List Nat) : Bool :=
  !o.lost.isEmpty && (viewChunks o version addrs).any fun x => o.lost.any fun y => y.2 == x && viewLoc o version x == .tier o.key y.1 x

/-- R371: the version and the addresses that a command reads through a handle: of its view, of the draft that it changes (R226, R242),
of the current version of a table (R267), or of the endpoint record (R353). -/
def readPart (s : State) (c : Cmd) (n : Need) (o : Obj) : Option (Option Nat × List Nat) :=
  let v := (viewOf o (cmdCtx s c)).1
  if readsView c n then some (v, cmdAddrs c o)
  else
    match c.op with
    | .hatom .. | .hatomr .. | .hcas .. => some (v, cmdAddrs c o)
    | .tgrad .. => some (v, gradAddrs c o)
    | .fcbind .. => some (some o.current, wholeAddrs o)
    | .nsend .. => some (v, placedAddrs o 0 endpointBytes)
    | _ => none

/-- R371: a bad chunk of a published version that is lost. -/
def checkLost (s : State) (c : Cmd) (n : Need) : Option CheckFail :=
  (needObj s c n).bind fun o =>
    (readPart s c n o).bind fun x => if lostChunk o x.1 x.2 then some (0x09, 1, needHandle c n) else none

/-- R208: the first check that fails, check by check. -/
def firstFail (s : State) (c : Cmd) : Option CheckFail :=
  let ns := needsOf c.op
  firstSome (ns.map (checkHandle s c) ++ ns.map (checkRights s c) ++ ns.map (checkBounds s c) ++ ns.map (checkAbsent s c) ++
    ns.map (checkLost s c))

/-! ## The outcome -/

/-- R371: a version that is lost, named by a command's handles. -/
def namesLost (s : State) (c : Cmd) : Bool := (needsOf c.op).any fun n => (checkLost s c n).isSome

/-- R371: a trap of class 0x09 on a lost version ends the launch at once. -/
def endForLost (s : State) (c : Cmd) (cls : Nat) : State :=
  if cls = 0x09 ∧ namesLost s c then
    match coreOf s c.core, (cmdCtx s c).trap with
    | some d, some r => modLaunch s d.launch fun l => if l.firstTrap.isSome then l else { l with firstTrap := some r }
    | _, _ => s
  else s

/-- The acting core and context of a command, its number bounded by the core's four contexts. -/
def actFor (s : State) (c : Cmd) (f : State → State) : State :=
  if h : c.ctx < 4 then withActing s c.core ⟨c.ctx, h⟩ f else s

/-- R208, R363: the failing command ends, its reservation released, and its context traps at the command's bundle. An orphan
that nothing has adopted, or a command of an exited context, only ends. -/
def failCmd (s : State) (c : Cmd) (e : CheckFail) : State :=
  let s1 := dropCmd (dropReservation s c) c.id
  if c.discarded || (c.orphan && !c.adopted) then s1
  else endForLost (actFor s1 c fun t => takeTrapAt t e.1 7 c.index.toNat e.2.1 e.2.2) c e.1

/-- R305: the range entries of an object are kept in this package. -/
def keepsEntries (s : State) (o : Obj) : Bool := o.hint.any fun h => h.mapped.contains s.package

/-- R302: the entries that map the addresses of one shard: a range entry for a shard that lies in one tier, and otherwise an entry
for each page that they touch. A shard in one tier lies contiguously (log entry 57). -/
def shardXlats (s : State) (o : Obj) (cluster : Nat) (v : Option Nat) (addrs : List Nat) (n : Nat) : List Xlat :=
  let far := fun (p : Nat) => o.farPages.contains p
  let pages := shardPages o n
  let kept := keepsEntries s o
  let entry := fun (page : Option Nat) (base limit : Nat) (tier : Bool) =>
    (⟨cluster, o.key, v.isNone, v.getD o.draftNo, n, page, base, limit, shardPackage o n, shardDie o n, tier, kept && page.isNone⟩ : Xlat)
  if pages.all far || pages.all (!far ·) then [entry none 0 (tierBytes o n) (pages.any far)]
  else
    ((((heldAddrs o (viewStore o v) addrs).map (· / Config.pageBytes)).filter fun p => pageShard p == n).eraseDups).map fun p =>
      let b := (p - shardPage n) * Config.pageBytes
      entry (some (p - shardPage n)) b (Nat.min (b + Config.pageBytes) (tierBytes o n)) (far p)

/-- R302: two entries of one cluster with one tag. -/
def sameTag (x y : Xlat) : Bool :=
  y.cluster == x.cluster && y.obj == x.obj && y.draft == x.draft && y.tag == x.tag && y.shard == x.shard

/-- R302: the entry of a cache that a look-up of what x maps uses: a range entry that covers it before the page entry. -/
def lookup (l : List Xlat) (x : Xlat) : Option Xlat :=
  let hit := l.filter fun y => sameTag x y && decide (y.base ≤ x.base) && decide (x.limit ≤ y.limit)
  (hit.find? (·.page.isNone)).or (hit.find? (·.page.isSome))

/-- R302: the translation entries that a resolution asks for; storage that is absent has none. -/
def xlatsOf (s : State) (c : Cmd) (cluster : Nat) (n : Need) : List Xlat :=
  match needObj s c n with
  | none => []
  | some o =>
    let v := (viewOf o (cmdCtx s c)).1
    let addrs := cmdAddrs c o
    (((addrs.map (· / shardBase 1)).eraseDups).filter fun n => absentCause s o n v (some cluster) == 0).flatMap
      (shardXlats s o cluster v addrs)

/-- R302, R305: an entry that a walk found, installed where no look-up hits; the entry of its kind that the cluster's cache holds
longest, and that no hint keeps, makes room, and with every one kept it is not installed. -/
def installXlat (l : List Xlat) (x : Xlat) : List Xlat :=
  let peer := fun (y : Xlat) => y.cluster == x.cluster && y.page.isSome == x.page.isSome
  let cap := if x.page.isSome then Config.pageEntries else Config.rangeEntries
  if (lookup l x).isSome then l
  else if (l.filter peer).length < cap then l ++ [x]
  else if l.any fun y => peer y && !y.kept then (l.eraseP fun y => peer y && !y.kept) ++ [x]
  else l

/-- R302, R373: translation entries installed in the command's cluster and in its core's micro-cache. -/
def addXlats (s : State) (c : Cmd) : State :=
  match cmdCluster s c with
  | none => s
  | some k =>
    let new := (needsOf c.op).flatMap (xlatsOf s c k)
    let held := new.foldl installXlat s.xlats
    modCoreId { s with xlats := held } c.core fun d =>
      let all := d.micro ++ (new.map fun x => (lookup held x).getD x).filter fun x => !d.micro.contains x
      { d with micro := all.drop (all.length - Config.microEntries) }

/-! ## Load blocks (R263) -/

/-- R263: the load block of a fetch: its tag and its lines; none for another command. -/
def fetchBlock (s : State) (c : Cmd) : Option LoadBlock :=
  match c.op, cmdObj s c with
  | .hfet .., some o | .hgat .., some o =>
    let v := (viewOf o (cmdCtx s c)).1
    match viewLines o v (cmdAddrs c o) with
    | [] => none
    | a :: r => some ⟨c.id, o.key, lineTag o v, a, Nat.min (r.length + 1) 64, false⟩
  | _, _ => none

/-- R263: the block of another command, in flight and older than this one's, with the same tag. -/
def sameBlock (s : State) (c : Cmd) (x b : LoadBlock) : Bool :=
  decide (b.cmd < c.id) && !b.complete && b.obj == x.obj && b.version == x.version && b.first == x.first &&
    (cmdBy s b.cmd).any fun d => d.result.isNone && !d.done

/-- R263: a fetch waits on the block of another that is in flight. -/
def blockInFlight (s : State) (c : Cmd) : Bool := (fetchBlock s c).any fun x => s.blocks.any (sameBlock s c x)

/-- R263: a fetch engine starts the load block of a fetch, unless it is in flight; blocks that nothing waits for any more go. -/
def startBlock (s : State) (c : Cmd) : State :=
  match fetchBlock s c with
  | none => s
  | some x =>
    let live := s.blocks.filter fun b => !b.complete && (cmdBy s b.cmd).isSome
    { s with blocks := if blockInFlight s c then live else live ++ [x] }

/-- R263: the block of a command complete: all of its lines are present. -/
def endBlock (s : State) (c : Cmd) : State :=
  { s with blocks := s.blocks.map fun b => if b.cmd = c.id then { b with complete := true } else b }

/-- A command whose checks have passed; the checkpoints of its core that wait for it are tried. -/
def passCmd (s : State) (c : Cmd) : State :=
  settleCore (modCmd (startBlock (addXlats s c) c) c.id fun d => { d with resolved := true }) c.core

/-- R208: the Handle Resolution Unit finishes a command's checks. -/
def execHandleResolution (cmd : Nat) (s : State) : Out :=
  match cmdBy s cmd with
  | none => .next s
  | some c =>
    if c.resolved then .next s
    else
      match firstFail s c with
      | some e => .next (failCmd s c e)
      | none => .next (passCmd s c)

end Sys2Proof.Machine
end

