-- ==== Sys2Proof/Machine/Arrive.lean ====
section
/-!
DEFINITION. When a command's work may be done and how what it does reaches its context: performance after release and
resolution (R206), the order of one context's accesses to one element (R312), arrivals held during a save or a restore (R334,
R335), and landings in reserved tiles (R182, R213, R215).
-/

namespace Sys2Proof.Machine

/-! ## When a command is performed -/

/-- R206: a command released and resolved whose work has not been done. -/
def performable (c : Cmd) : Bool := c.released && c.resolved && c.result.isNone && !c.done

/-- The commands whose work on one object is done in the release order of their context (R222, R253, R258, R312). -/
def ordered : Instr → Bool
  | .hput .. | .hsca .. | .hcopy .. | .hatom .. | .hatomr .. | .hcas .. | .tgrad .. | .xsend .. | .xsendLast .. | .nexp .. => true
  | .hopen .. | .hpub .. | .hdisc .. | .hpin .. | .hpinV .. | .hunpin .. | .hsub .. | .hsubV .. | .hunsub .. => true
  | .rbind .. | .rput .. | .rputLast .. | .rputUpd .. | .rtake .. | .rdone .. | .rdoneFail .. => true
  | _ => false

/-- A publish. -/
def isPublish : Instr → Bool
  | .hpub .. => true
  | _ => false

/-- R312: a command that reads the elements of a draft. -/
def readsElems : Instr → Bool
  | .hfet .. | .hgat .. | .tdesc .. | .hcopy .. => true
  | _ => false

/-- R312: a command that writes elements of a draft. -/
def writesElems : Instr → Bool
  | .hput .. | .hsca .. | .hcopy .. | .hatom .. | .hatomr .. | .hcas .. | .tgrad .. => true
  | _ => false

/-- The handle whose view a command reads. -/
def readHandle (c : Cmd) : BitVec 64 :=
  match c.op with
  | .hcopy .. => c.cap.source
  | _ => c.cap.handle

/-- A subscription that stands registered, or an `rtake` that waits: it does not hold the commands after it. -/
def registered (s : State) (c : Cmd) : Bool :=
  s.objects.any (fun o => o.subs.any fun x => x.cmd == c.id) || s.sets.any fun x => x.waiters.contains c.id

/-- The first and the last coordinate, in each dimension, of a box of elements. -/
abbrev Box := List (Int × Int)

/-- Rows of a map from a shift on, as a box; of whole blocks where elements share a header or a scale (R42, R43). -/
def rowsBox (o : Obj) (t : TileMap) (shift : Int) (rows : Nat) : Box :=
  t.start.zipIdx.map fun x =>
    let a := x.1 + if x.2 = t.rowCoord then shift else 0
    let b := a + (if x.2 = t.rowCoord then (rows : Int) - 1 else 0) + if x.2 = t.elemCoord then (t.elems : Int) - 1 else 0
    if (o.fmt = 0xB ∨ o.scaled) ∧ x.2 = 0 then (a / 32, b / 32) else (a, b)

/-- The boxes of elements that a command reads or writes through a shape or a tuple; none where its elements follow from its data. -/
def touchedBoxes (c : Cmd) (o : Obj) : Option (List Box) :=
  if hasRegion c.op then
    match tileMap c.cap.shape c.cap.tuple o with
    | .error _ => some []
    | .ok t =>
      if byIndex c.op then some ((regionRows c).map fun r => rowsBox o t r.2 1)
      else some [rowsBox o t 0 (if byBlocks c.op then blockCount c.cap * t.rows else t.rows)]
  else if hasElement c.op then some [rowsBox o ⟨1, 1, 1, 0, tupleInts c.cap.tuple, false⟩ 0 1]
  else none

/-- Two boxes share an element. -/
def boxesMeet (a b : Box) : Bool := (a.zip b).all fun x => decide (x.1.1 ≤ x.2.2) && decide (x.2.1 ≤ x.1.2)

/-- R312: two commands touch an element of an object in common. -/
def shareElement (s : State) (c d : Cmd) (k : ObjKey) : Bool :=
  match objAt s k with
  | none => true
  | some o =>
    match touchedBoxes c o, touchedBoxes d o with
    | some x, some y => x.any fun a => y.any (boxesMeet a)
    | _, _ => true

/-- R312: two commands that write one object may change places: no element is written by both. -/
def unorderedWrites (s : State) (c d : Cmd) : Bool :=
  writesElems c.op && writesElems d.op && !shareElement s c d (handleKey c.cap.handle)

/-- R309, R312: an earlier command of the context whose work comes first: on the object that both change, unless both write elements
and no element twice; on elements that this one reads and the other writes; and, between two publishes, up to the completion of the
first. -/
def comesFirst (s : State) (c d : Cmd) : Bool :=
  d.of c.core c.ctx && decide (d.id < c.id) && !registered s d &&
    ((performable d && ordered c.op && ordered d.op && handleKey d.cap.handle == handleKey c.cap.handle && !unorderedWrites s c d) ||
      (performable d && readsElems c.op && writesElems d.op && handleKey d.cap.handle == handleKey (readHandle c) &&
        shareElement s c d (handleKey d.cap.handle)) ||
      (isPublish c.op && isPublish d.op && d.released && d.resolved && !d.done))

/-- The work of a command may be done now. -/
def mayPerform (s : State) (c : Cmd) : Bool := performable c && !s.cmds.any (comesFirst s c)

/-- R208, R303: the shards of its object that a command touches: those of its region or of its element, and otherwise all. -/
def cmdShards (c : Cmd) (o : Obj) : List Nat :=
  if hasRegion c.op then regionShards c o
  else if hasElement c.op then [shardOf o (natPoint (tupleInts c.cap.tuple))]
  else List.range (shardCount o)

/-- R208, R371: a released command waits while what it touches of its object is absent. -/
def objectPresent (s : State) (c : Cmd) : Bool :=
  (cmdObj s c).all fun o => !absentAny s o none (cmdCluster s c) (cmdShards c o)

/-- R319, R351, R396: the home of a command's object can be reached, and the object is not exported: all that a command needs which does
not touch its storage. -/
def homeReached (s : State) (c : Cmd) : Bool := (cmdObj s c).all fun o => !unreachable s o.key.home && !o.loc.lent

/-- R208: a released command that is not free waits while its object is on its way to another package too. -/
def homeSettled (s : State) (c : Cmd) : Bool := homeReached s c && (cmdObj s c).all fun o => !o.loc.moving

/-! ## Arrivals at a team that is being saved or restored (R334, R335) -/

/-- R335: the command's team is swapped out. -/
def teamOut (s : State) (c : Cmd) : Bool := (cmdTeam s c).elim false fun t => t.status == .out

/-- A command by its number, with an operation over it and the state; none changes nothing. -/
def withCmd (s : State) (id : Nat) (f : Cmd → State) : Out := .next ((cmdBy s id).elim s f)

/-! ## Landings -/

/-- Bytes landed at the head of a reserved tile of a core, with its header; the reservation ends. -/
def landHead (s : State) (c : Cmd) (t rows rowbytes : Nat) (fmt : BitVec 4) (scaled : Bool) (bytes : List Byte) : State :=
  let s1 := modCoreId s c.core fun d => setTileIn (landBytes d t bytes) t (landHeader c.ctx rows rowbytes fmt scaled)
  pulse (modCmd s1 c.id fun d => { d with reserved := false }) c.core c.ctx

/-- A landing of a whole tile: the bytes, then zeros. -/
def landWhole (s : State) (c : Cmd) (t rowbytes : Nat) (fmt : BitVec 4) (bytes : List Byte) : State :=
  landHead s c t 1 rowbytes fmt false (bytes ++ List.replicate (Config.tileBytes - bytes.length) 0)

/-! ## Transfers (R182) -/

/-- R182: a transfer lands everywhere, or was refused, and its token is written. -/
def finishTransfer (s : State) (c : Cmd) : State :=
  match transferTile c.op, c.result with
  | none, _ => s
  | some _, some x => settleCore (deliver s c x) c.core
  | some t, none => settleCore ((destCores s c).foldl (fun x id => landed x id t) (landTransfer s c t)) c.core

/-- R182: a transfer completes. -/
def execTxferCompletion (cmd : Nat) (s : State) : Out :=
  withCmd s cmd fun c => if c.done then s else arriveFor s c (.txferCompletion cmd) fun s => finishTransfer s c

end Sys2Proof.Machine
end

