-- ==== Sys2Proof/Machine/Expert.lean ====
section
/-!
DEFINITION. Expert buffers: admission of an `xsend` at the buffer's home, refusal entries, and the start of a buffer (R227 to
R229).
-/

namespace Sys2Proof.Machine

/-- R298: the senders of a buffer. -/
def bufferSenders (o : Obj) : Nat := o.geometry.toNat % 256

/-- R298: stored scales follow each row. -/
def bufferScales (o : Obj) : Bool := o.scaled && decide (elemBits o.fmt.toNat ≤ 8) && o.fmt != 0xB

/-- R298: the row bytes of a buffer. -/
def bufferRowBytes (o : Obj) : Nat :=
  packedBytes o.fmt.toNat (extentAt o 0) + (if bufferScales o then rowBlocks (extentAt o 0) else 0)

/-- R229: pages that rows need. -/
def pagesNeeded (o : Obj) (rows : Nat) : Nat :=
  Nat.max 1 ((rows * bufferRowBytes o + Config.bufferPage - 1) / Config.bufferPage)

/-- R227: the rows fit the capacity and the pages to be had. -/
def hasRoom (s : State) (o : Obj) (k : Nat) : Bool :=
  decide (o.bufRows + k ≤ extentAt o 1) && decide (pagesNeeded o (o.bufRows + k) ≤ o.bufPages + s.pools.getD o.loc.die 0)

/-- R227: one row put at a position of the draft. -/
def putBufferRow (o : Obj) (m : Mem) (pos : Nat) (bytes : List Byte) : Mem :=
  putRaw o ⟨1, extentAt o 0, 1, 0, [0, (pos : Int)], bufferScales o⟩ 0 bytes m

/-- The addresses of the elements of a row of a buffer. -/
def bufferAddrs (o : Obj) (pos : Nat) : List Nat := (List.range (extentAt o 0)).flatMap fun e => pointAddrs o [e, pos]

/-- R227: the captured rows in ascending order. -/
def sentRows (c : Cmd) : List (List Byte) :=
  (maskedRows c.cap).map fun i => readBytes c.cap.tile (i * c.cap.rowbytes) c.cap.rowbytes

/-- R227: rows appended, and pages drawn from the pool of the home die. -/
def appendRows (s : State) (o : Obj) (rows : List (List Byte)) : State :=
  let m := rows.zipIdx.foldl (fun m r => putBufferRow o m (o.bufRows + r.2) r.1) (draftStore o).bytes
  let need := Nat.max o.bufPages (pagesNeeded o (o.bufRows + rows.length))
  let addrs := (List.range rows.length).flatMap fun i => bufferAddrs o (o.bufRows + i)
  let s1 := modObj (setDraftBytes s o m addrs) o.key fun o =>
    { o with bufRows := o.bufRows + rows.length, bufPages := need }
  { s1 with pools := s1.pools.modify o.loc.die fun n => n - (need - o.bufPages) }

/-- R228: the refusal entry of a command. -/
def refusalWord (c : Cmd) (k : Nat) : BitVec 32 :=
  BitVec.ofNat 32 (c.cap.ckcount.toNat % 2 ^ 16 * 2 ^ 16 + c.token % 64 * 2 ^ 10 + k % 128)

/-- R228: a refusal appended to the sender's list, or the overflow bit set. -/
def noteRefusal (s : State) (c : Cmd) (k : Nat) : State :=
  if c.discarded then s
  else
    modCtxOf s c.core c.ctx fun x =>
      if 64 ≤ x.refusals.length then { x with overflow := true, overflowMarked := false }
      else { x with refusals := x.refusals ++ [⟨refusalWord c k, false⟩] }

/-- R227, R229: the buffer is to start: it is full or has every last mark. -/
def startDue (o : Obj) : Bool := !o.started && o.draft.isSome && (o.bufRows == extentAt o 1 || o.marks == bufferSenders o)

/-- R227, R229: a buffer that is to start does: its draft is published. -/
def startIfDue (s : State) (k : ObjKey) : State :=
  match objAt s k with
  | none => s
  | some o => if startDue o then publishNow (modObj s k fun o => { o with started := true }) k false else s

/-- R227: the status of an offer of k rows. -/
def offerStatus (s : State) (o : Obj) (k : Nat) : Nat :=
  if o.started || o.draft.isNone then 0x19 else if hasRoom s o k then 0x00 else 0x12

/-- R227: an offer with a status: its rows appended where it is admitted, its last mark counted, its result set, and a refusal
noted. -/
def takeOffer (s : State) (c : Cmd) (o : Obj) (last : Bool) (status : Nat) : State :=
  let k := (maskedRows c.cap).length
  let s1 := if status = 0 then appendRows s o (sentRows c) else s
  let s2 := if last then modObj s1 o.key fun o => { o with marks := Nat.min (o.marks + 1) 255 } else s1
  if status = 0 then setResult s2 c.id (plainResult 0x00 o.bufRows k)
  else setResult (noteRefusal s2 c k) c.id (plainResult status k 0)

/-- R6, R227: an offer would start its buffer, whose publish would retain a fourth older version: the offer waits at the home until
it no longer would (log entry 105). -/
def startHeld (s : State) (k : ObjKey) : Bool := (objAt s k).any fun o => startDue o && !mayPublish s o

/-- R227: the admission of an offer. -/
def admitOffer (s : State) (c : Cmd) (o : Obj) (last : Bool) : State :=
  if c.cap.rowbytes ≠ bufferRowBytes o then setResult s c.id (plainResult 0x21 0 0)
  else
    let t := takeOffer s c o last (offerStatus s o (maskedRows c.cap).length)
    if startHeld t o.key then s else startIfDue t o.key

/-- The operation is an offer, with its last mark. -/
def offerOf : Instr → Option Bool
  | .xsend .. => some false
  | .xsendLast .. => some true
  | _ => none

/-- R227: an offer arrives at its buffer's home. -/
def execXsendAdmission (cmd : Nat) (s : State) : Out :=
  withCmd s cmd fun c =>
    match offerOf c.op with
    | none => s
    | some last =>
      if mayPerform s c && objectPresent s c then
        match cmdObj s c with
        | none => setResult s c.id (plainResult 0x13 0 0)
        | some o => admitOffer s c o last
      else s

end Sys2Proof.Machine
end

