-- ==== Sys2Proof/Machine/Router.lean ====
section
/-!
DEFINITION. The stage router (R244 to R261, R402): routing by eligibility, lottery or fixed order, windows, the sink, draining,
and the steps of `rbind`, `rput`, `rtake` and `rdone`.
-/

namespace Sys2Proof.Machine

/-! ## Sets -/

/-- A stage set by its object. -/
def setBy (s : State) (k : ObjKey) : Option StageSet := s.sets.find? fun x => x.obj == k

/-- A stage set changed. -/
def modSet (s : State) (k : ObjKey) (f : StageSet → StageSet) : State :=
  { s with sets := s.sets.map fun x => if x.obj = k then f x else x }

/-- R252: the set runs in fixed-order mode for a command. -/
def fixedFor (s : State) (x : StageSet) (c : Cmd) : Bool := x.fixed || cmdRepro s c

/-- R245: the byte of a stage. -/
def stageByte (x : StageSet) (st : Nat) : Nat := (x.bytes.getD st 0).toNat
/-- R245. -/
def stageFilter (x : StageSet) (st : Nat) : Bool := bitOf (stageByte x st) 0
/-- R245. -/
def stageEffectful (x : StageSet) (st : Nat) : Bool := bitOf (stageByte x st) 1
/-- R245. -/
def stageRank (x : StageSet) (st : Nat) : Nat := fieldOf (stageByte x st) 2 3
/-- The length of a stage's queue. -/
def depthOf (x : StageSet) (st : Nat) : Nat := (x.queues.getD st []).length

/-- Records that contexts hold of a set, with their stages. -/
def heldOf (s : State) (k : ObjKey) : List Nat :=
  (allCtxs s).filterMap fun c => c.held.bind fun h => if h.1 = k then some h.2.1 else none

/-- R247: the live records of a set. -/
def liveRecords (s : State) (x : StageSet) : Nat :=
  x.queues.toList.foldl (fun n q => n + q.length) 0 + (heldOf s x.obj).length

/-- R253: the set is closed. -/
def setClosed (x : StageSet) : Bool := decide (x.producers ≤ x.closes)

/-! ## Record headers (R246) -/

/-- R246. -/
def recId (r : Record) : Nat := r.header.toNat % 2 ^ 32
/-- R246. -/
def recLength (r : Record) : Nat := fieldOf r.header.toNat 45 10
/-- R246. -/
def recDone (r : Record) (st : Nat) : Bool := bitOf r.header.toNat (32 + st)

/-- R246: a header from its fields: id, done bits, failed, last stage and its validity, length. -/
def recHeader (id done : Nat) (failed : Bool) (last : Nat) (valid : Bool) (len : Nat) : BitVec 64 :=
  BitVec.ofNat 64 (id + done * 2 ^ 32 + b2n failed * 2 ^ 40 + last * 2 ^ 41 + b2n valid * 2 ^ 44 + len * 2 ^ 45)

/-- R258: a record passed by a stage. -/
def passRecord (r : Record) (st : Nat) : Record :=
  { r with header := recHeader (recId r) (fieldOf r.header.toNat 32 8 ||| 2 ^ st) (bitOf r.header.toNat 40) st true (recLength r) }

/-- R258: a record that a filter failed. -/
def failRecord (r : Record) : Record := { r with header := r.header ||| BitVec.ofNat 64 (2 ^ 40) }

/-- The 520 bytes of a record: its header, its payload, and zeros (R257). -/
def recordBytes (r : Record) : List Byte :=
  let n := Nat.min (recLength r) 512
  bytesOfNat 8 r.header.toNat ++ r.payload.take n ++ List.replicate (512 - (r.payload.take n).length) 0

/-- R256: record j of a captured tile, its router fields cleared. -/
def tileRecord (m : Mem) (j : Nat) : Record :=
  let h := readNat m (520 * j) 8
  ⟨recHeader (h % 2 ^ 32) 0 false 0 false (fieldOf h 45 10), readBytes m (520 * j + 8) 512, 0⟩

/-! ## Choosing a stage (R249 to R252) -/

/-- The stages that lack a record's done bit. -/
def openStages (x : StageSet) (r : Record) : List Nat := (List.range x.stages).filter fun st => !recDone r st

/-- R249: of effectful stages, the one of lowest rank, then lowest number. -/
def firstRank (x : StageSet) : List Nat → Option Nat
  | [] => none
  | a :: r =>
    match firstRank x r with
    | none => some a
    | some b => if stageRank x a ≤ stageRank x b then some a else some b

/-- R249: the eligible stages. -/
def eligible (x : StageSet) (r : Record) : List Nat :=
  let pure := (openStages x r).filter fun st => !stageEffectful x st
  if pure.isEmpty then (firstRank x (openStages x r)).toList else pure

/-- R250: the weight of a stage. -/
def weight (x : StageSet) (st : Nat) : Nat := Nat.max 1 ((x.failWin.getD st 0 + 1) * 256 / (depthOf x st + 1))

/-- R250: one step of the generator. -/
def generate (x : BitVec 32) : BitVec 32 :=
  let a := x ^^^ (x <<< 13)
  let b := a ^^^ (a >>> 17)
  b ^^^ (b <<< 5)

/-- R250: the least stage whose running sum of weights passes u. -/
def pickStage (x : StageSet) (u : Nat) : Nat → List Nat → Option Nat
  | _, [] => none
  | sum, st :: r => if u < sum + weight x st then some st else pickStage x u (sum + weight x st) r

/-- R249, R250, R252: the stage chosen and the generator after. -/
def chooseStage (x : StageSet) (fixed : Bool) (es : List Nat) : Option Nat × Option (BitVec 32) :=
  match es with
  | [] => (none, x.generator)
  | [a] => (some a, x.generator)
  | a :: r =>
    if fixed then (some ((a :: r).foldl Nat.min a), x.generator)
    else
      let g := generate (x.generator.getD 1)
      let total := ((a :: r).map (weight x)).foldl (· + ·) 0
      (pickStage x (g.toNat * total / 2 ^ 32) 0 (a :: r), some g)

/-! ## Storage of records -/

/-- A record written into a slot of a record-queue object's draft. -/
def storeRecord (s : State) (k : ObjKey) (slot : Nat) (r : Record) : State :=
  match objAt s k with
  | none => s
  | some o =>
    if o.draft.isSome then
      setDraftBytes s o (writeBytes (draftBytes s o) (520 * slot) (recordBytes r)) ((List.range 520).map (520 * slot + ·))
    else s

/-- R245, R247: the slots of the record queue that live records take, queued and held. -/
def liveSlots (s : State) (x : StageSet) : List Nat :=
  x.queues.toList.flatMap (·.map (·.slot)) ++
    (allCtxs s).filterMap fun c => c.held.bind fun h => if h.1 = x.obj then some h.2.2.slot else none

/-- R245: a free slot of the record queue for a record that enters; which one is free in the manual. It depends on nothing but the
slots that are taken, so that a restart of a reproducible launch finds it again (R11, R317). -/
def freeSlot (s : State) (x : StageSet) : Nat :=
  let n := Nat.max 1 ((objAt s x.queue).elim 0 fun o => extentAt o 1)
  let busy := (List.range n).filter (liveSlots s x).contains
  (((List.range n).map fun i => (Config.queueSlot busy + i) % n).find? fun i => !busy.contains i).getD 0

/-- R249, R253: a record routed to its stage's queue, or written into the sink. -/
def routeRecord (c : Cmd) (k : ObjKey) (s : State) (r : Record) : State :=
  match setBy s k with
  | none => s
  | some x =>
    match chooseStage x (fixedFor s x c) (eligible x r) with
    | (none, _) => modSet (storeRecord s x.sink (recId r) r) k fun x => { x with sunk := x.sunk + 1 }
    | (some st, g) =>
      modSet (storeRecord s x.queue r.slot r) k fun x => { x with generator := g, queues := x.queues.setIfInBounds st (x.queues.getD st [] ++ [r]) }

/-- R256: a record that enters a set: a slot of the record queue taken for it, and then routed. -/
def injectRecord (c : Cmd) (k : ObjKey) (s : State) (r : Record) : State :=
  match setBy s k with
  | none => s
  | some x => routeRecord c k s { r with slot := freeSlot s x }

/-! ## Taking (R257) -/

/-- The stage that an `rtake` names. -/
def takeStage : Instr → Nat
  | .rtake _ _ _ _ x => x.toNat
  | _ => 0

/-- R257, R261: the take: the head record leaves its queue, and the context holds it. -/
def takeRecord (s : State) (k : ObjKey) (c : Cmd) (st : Nat) (r : Record) (rest : List Record) : State :=
  let s1 := modSet s k fun x =>
    { x with queues := x.queues.setIfInBounds st rest, waiters := x.waiters.filter fun w => w != c.id }
  let s2 := modCtxOf s1 c.core c.ctx fun d => { d with held := some (k, st, r) }
  modCmd s2 c.id fun d =>
    { d with result := some (plainResult 0x00 rest.length (recId r)), cap := { d.cap with tile := cellsOf 0 (recordBytes r) } }

/-- R257, R261: one waiting `rtake` served at the routing step that gives its stage a record. -/
def serveOne (k : ObjKey) (s : State) (id : Nat) : State :=
  match cmdBy s id, setBy s k with
  | some c, some x =>
    match x.queues.getD (takeStage c.op) [] with
    | [] => s
    | r :: rest => if teamOut s c || (cmdCtx s c).held.isSome then s else takeRecord s k c (takeStage c.op) r rest
  | _, _ => s

/-- R253: the set drains: the sink is published, and every waiting `rtake` completes with 0x07. A set that shares its sink with
another ends the one draft of both (log entry 126). -/
def drainSet (s : State) (x : StageSet) : State :=
  let s1 := publishNow (modSet s x.obj fun x => { x with drained := true, waiters := [] }) x.sink false
  x.waiters.foldl (fun t id => setResult t id (plainResult 0x07 0 0)) s1

/-- R253: the set is to drain. -/
def drainDue (s : State) (x : StageSet) : Bool := setClosed x && !x.drained && liveRecords s x == 0

/-- R253: drained. -/
def drainIfDue (s : State) (k : ObjKey) : State :=
  match setBy s k with
  | none => s
  | some x => if drainDue s x then drainSet s x else s

/-- R6, R253: a routing step would drain the set, whose sink's publish would retain a fourth older version: the step waits at the
Harp until it no longer would (log entry 105). -/
def drainHeld (s : State) (k : ObjKey) : Bool :=
  (setBy s k).any fun x => drainDue s x && (objAt s x.sink).any fun o => !mayPublish s o

/-- R253, R257: the waiting commands of a set served in arrival order, and the set drained when it is to. -/
def serveSet (s : State) (k : ObjKey) : State :=
  match setBy s k with
  | none => s
  | some x => drainIfDue (x.waiters.foldl (serveOne k) s) k

/-- After each routing step of a set: the contexts of its waiting commands pulsed (R372), and the commands served (R261). -/
def settleSet (s : State) (k : ObjKey) : State :=
  match setBy s k with
  | none => s
  | some x => serveSet (x.waiters.foldl (fun t id => (cmdBy t id).elim t fun c => pulse t c.core c.ctx) s) k

/-! ## The commands -/

/-- The result of a router command's step. -/
def answer (s : State) (c : Cmd) (status detail count : Nat) : State := setResult s c.id (plainResult status detail count)

/-- R255: `rbind`. -/
def stepBind (s : State) (c : Cmd) (x : StageSet) (st : Nat) : State :=
  if x.stages ≤ st then answer s c 0x21 0 0
  else
    match (cmdCtx s c).held with
    | some h => answer s c 0x1C (recId h.2.2 % 2 ^ 24) 0
    | none => answer (modCtxOf s c.core c.ctx fun d => { d with binding := some (x.obj, st) }) c 0x00 0 (depthOf x st)

/-- R256: the capacity of a queue object. -/
def queueCapacity (s : State) (k : ObjKey) : Nat := (objAt s k).elim 0 fun o => extentAt o 1

/-- R256: the first bad record. -/
def badRecord (limit : Nat) (rs : List Record) : Option Nat :=
  rs.findIdx? fun r => decide (limit ≤ recId r) || decide (512 < recLength r)

/-- R250: the generator seeded at the set's first `rput`. -/
def seedSet (s : State) (c : Cmd) (x : StageSet) : State :=
  match x.generator with
  | some _ => s
  | none =>
    let v := srHash ((cmdLaunch s c).elim 0 fun l => l.seed.toNat) x.obj.number
    modSet s x.obj fun x => { x with generator := some (if v % 2 ^ 32 = 0 then 1 else BitVec.ofNat 32 v) }

/-- R256: one close counted. -/
def countClose (s : State) (k : ObjKey) (last : Bool) : State :=
  if last then modSet s k fun x => { x with closes := Nat.min (x.closes + 1) 255 } else s

/-- R256: `rput` and `rput.last`. -/
def stepPut (s : State) (c : Cmd) (x : StageSet) (last : Bool) : State :=
  let s0 := seedSet s c x
  let rs := (List.range c.cap.rows).map (tileRecord c.cap.tile)
  if 15 < c.cap.rows then answer s0 c 0x21 0 0
  else if setClosed x then answer (countClose s0 x.obj last) c 0x1E 0 0
  else
    match badRecord (queueCapacity s x.sink) rs with
    | some i => answer s0 c 0x26 i 0
    | none =>
      if queueCapacity s x.queue < liveRecords s x + rs.length then answer (countClose s0 x.obj last) c 0x1B rs.length 0
      else answer (countClose (rs.foldl (injectRecord c x.obj) s0) x.obj last) c 0x00 0 rs.length

/-- R256: `rput.upd`. -/
def stepUpdate (s : State) (c : Cmd) (x : StageSet) : State :=
  let s0 := seedSet s c x
  if 15 < c.cap.rows then answer s0 c 0x21 0 0
  else
    match (cmdCtx s c).held with
    | none => answer s0 c 0x1D 0 0
    | some (k, st, h) =>
      let r := tileRecord c.cap.tile 0
      if k ≠ x.obj then answer s0 c 0x1D 0 0
      else if c.cap.rows = 0 ∨ recId r ≠ recId h ∨ 512 < recLength r then answer s0 c 0x26 0 0
      else
        let n : Record := ⟨recHeader (recId h) (fieldOf h.header.toNat 32 8) (bitOf h.header.toNat 40) (fieldOf h.header.toNat 41 3)
          (bitOf h.header.toNat 44) (recLength r), r.payload, h.slot⟩
        answer (modCtxOf s0 c.core c.ctx fun d => { d with held := some (k, st, n) }) c 0x00 0 1

/-- R257: the arrival of an `rtake`, which waits until it is served. -/
def stepTake (s : State) (c : Cmd) (x : StageSet) (st : Nat) : State :=
  if !c.reserved then answer s c 0x10 0 0
  else if x.stages ≤ st then answer s c 0x21 0 0
  else if (cmdCtx s c).binding ≠ some (x.obj, st) then answer s c 0x1D 0 0
  else
    match (cmdCtx s c).held with
    | some h => answer s c 0x1C (recId h.2.2 % 2 ^ 24) 0
    | none =>
      if x.drained then answer s c 0x07 0 0
      else modSet s x.obj fun x => { x with waiters := if x.waiters.contains c.id then x.waiters else x.waiters ++ [c.id] }

/-- R251: a verdict counted in a stage's window. -/
def countVerdict (st : Nat) (pass : Bool) (x : StageSet) : StageSet :=
  let p := x.passCur.getD st 0 + b2n pass
  let f := x.failCur.getD st 0 + b2n (!pass)
  if 2 ^ x.window ≤ p + f then
    { x with
      passCur := x.passCur.setIfInBounds st 0, failCur := x.failCur.setIfInBounds st 0
      passWin := x.passWin.setIfInBounds st p, failWin := x.failWin.setIfInBounds st f
      windows := x.windows.setIfInBounds st ((x.windows.getD st 0 + 1) % 2 ^ 32) }
  else { x with passCur := x.passCur.setIfInBounds st p, failCur := x.failCur.setIfInBounds st f }

/-- R258: `rdone` and `rdone.fail`. -/
def stepDone (s : State) (c : Cmd) (x : StageSet) (st : Nat) (fail : Bool) : State :=
  if x.stages ≤ st then answer s c 0x21 0 0
  else
    match (cmdCtx s c).held with
    | none => answer s c 0x1D 0 0
    | some (k, hst, r) =>
      if (cmdCtx s c).binding ≠ some (x.obj, st) ∨ k ≠ x.obj ∨ hst ≠ st then answer s c 0x1D 0 0
      else
        let retire := fail && stageFilter x st
        let s1 := modSet (modCtxOf s c.core c.ctx fun d => { d with held := none }) x.obj (countVerdict st (!retire))
        if retire then answer (modSet (storeRecord s1 x.queue r.slot (failRecord r)) x.obj fun x => { x with failed := x.failed + 1 }) c 0x00 0 0
        else answer (routeRecord c x.obj s1 (passRecord r st)) c (if fail then 0x27 else 0x00) (if fail then st else 0) 0

/-- A router command's step at its set. -/
def routerStep (s : State) (c : Cmd) (x : StageSet) : State :=
  match c.op with
  | .rbind _ _ _ st => stepBind s c x st.toNat
  | .rput .. => stepPut s c x false
  | .rputLast .. => stepPut s c x true
  | .rputUpd .. => stepUpdate s c x
  | .rtake _ _ _ _ st => stepTake s c x st.toNat
  | .rdone _ _ _ st => stepDone s c x st.toNat false
  | .rdoneFail _ _ _ st => stepDone s c x st.toNat true
  | _ => s

/-- The operation takes its step at the router. -/
def isRouter : Instr → Bool
  | .rbind .. | .rput .. | .rputLast .. | .rputUpd .. | .rtake .. | .rdone .. | .rdoneFail .. => true
  | _ => false

/-- R208: the objects in which the router keeps a set's records are present. -/
def setPresent (s : State) (x : StageSet) : Bool :=
  [x.queue, x.sink].all fun k => (objAt s k).all fun o => !absentObj s o

/-- R260: after a routing step of an ended context: what it left its last report for. -/
def leaveAfter (s : State) (c : Cmd) : State :=
  if h : c.ctx < 4 then
    if (cmdCtx s c).ended then withActing s c.core ⟨c.ctx, h⟩ leaveRouter else s
  else s

/-- R253: a released router command takes its step at the Harp. -/
def execRoutingStep (cmd : Nat) (s : State) : Out :=
  withCmd s cmd fun c =>
    if isRouter c.op && mayPerform s c then
      match setBy s (handleKey c.cap.handle) with
      | none => leaveAfter (answer s c 0x13 0 0) c
      | some x =>
        if !setPresent s x then s
        else if registered s c then serveSet s x.obj
        else
          let t := routerStep s c x
          if drainHeld t x.obj then s else settleSet (leaveAfter t c) x.obj
    else s

/-! ## Statistics (R259) -/

/-- R259: a stage's eight words. -/
def stageWords (s : State) (x : StageSet) (st : Nat) : List Nat :=
  if st < x.stages then
    [depthOf x st, x.passCur.getD st 0, x.failCur.getD st 0, x.passWin.getD st 0, x.failWin.getD st 0, x.windows.getD st 0, weight x st,
      ((heldOf s x.obj).filter (· == st)).length]
  else List.replicate 8 0

/-- R259: the statistics of a set, for a launch. -/
def setStatistics (s : State) (x : StageSet) (fixed : Bool) : List Byte :=
  let words := (List.range 8).flatMap (stageWords s x) ++
    [x.generator.elim 0 (·.toNat), liveRecords s x, x.sunk, x.failed, b2n (setClosed x) + 2 * b2n fixed + 4 * b2n x.drained]
  words.flatMap (bytesOfNat 4)

end Sys2Proof.Machine
end

