-- ==== Sys2Proof/Machine/Tree.lean ====
section
/-!
DEFINITION. The Descent Unit (R235 to R243): node products, descents with their result tiles and path traces, and gradient
additions along a path.
-/

namespace Sys2Proof.Machine

/-! ## Rows and nodes -/

/-- R235: the depth of a tree. -/
def treeDepth (o : Obj) : Nat := Nat.log2 (extentAt o 2 + 1) - 1

/-- R161: the bytes of a batch row of n elements. -/
def batchBytes (fmt n : Nat) (scaled : Bool) : Nat := packedBytes fmt n + (if scaled && mayScale fmt then rowBlocks n else 0)

/-- The n elements of a batch row. -/
def batchValues (fmt n : Nat) (scaled : Bool) (bs : List Byte) : List FVal × Flags :=
  if fmt = 0xB then
    let r := oxRun (rowBlocks n) bs
    (r.1.take n, r.2)
  else
    let v := (List.range n).map fun i =>
      let x := elemVal fmt (elemAt fmt bs i)
      if scaled && mayScale fmt then scaleVal x (bs.getD (packedBytes fmt n + i / 32) 0).toNat else (x, 0)
    (v.map (·.1), orFlags (v.map (·.2)))

/-- R235: the weights of an internal node: its row 0. -/
def nodeValues (o : Obj) (m : Mem) (i : Nat) : List FVal × Flags :=
  let v := (List.range (extentAt o 0)).map fun e => elemValue o m [e, 0, i]
  (v.map (·.1), orFlags (v.map (·.2)))

/-- R236: one step of a node product. -/
def dotStep (fmt : Nat) (acc : AccFmt) (old : Nat) (x w : List FVal) : Nat × Flags :=
  if fmt ≤ 1 then stepWide (accFloat acc) old x (w.map some)
  else if acc = .i32 then narrowInt old x (w.map some)
  else narrowFloat old x (w.map some)

/-- R236: the steps of a node product, K positions at a time. -/
def dotSteps (fmt : Nat) (acc : AccFmt) (k : Nat) : Nat → Nat → List FVal → List FVal → Nat × Flags
  | 0, old, _, _ => (old, 0)
  | n + 1, old, x, w =>
    if x.isEmpty then (old, 0)
    else
      let a := dotStep fmt acc old (x.take k) (w.take k)
      let r := dotSteps fmt acc k n a.1 (x.drop k) (w.drop k)
      (r.1, a.2 ||| r.2)

/-- R236: the start of a node product: −0, or integer 0. -/
def dotStart (acc : AccFmt) : Nat := if acc = .i32 then 0 else signCode (accFloat acc) true

/-- R236: the node product of a row with a node. -/
def nodeDot (fmt : Nat) (acc : AccFmt) (k : Nat) (x w : List FVal) : FVal × Flags :=
  let r := dotSteps fmt acc k x.length (dotStart acc) x w
  (elemVal (accCode acc) r.1, r.2)

/-- R236: whether a product goes right. -/
def descendsRight (d : FVal) : Bool :=
  match d with
  | .fin neg _ _ => !neg
  | .inf neg => !neg
  | _ => false

/-! ## Descents (R238, R239) -/

/-- A row on its way down: its elements, its node, its path word, whether it met a NaN, and the flags so far. -/
structure Walk where
  row : List FVal
  node : Nat
  path : Nat
  nan : Bool
  flags : Flags
  deriving DecidableEq, Repr

/-- R239: one level of a row. -/
def walkStep (o : Obj) (m : Mem) (acc : AccFmt) (k level : Nat) (x : Walk) : Walk :=
  let w := nodeValues o m x.node
  let d := nodeDot o.fmt.toNat acc k x.row w.1
  let right := descendsRight d.1
  { x with
    node := 2 * x.node + 1 + b2n right
    path := x.path + b2n right * 2 ^ level
    nan := x.nan || d.1.isNan
    flags := x.flags ||| w.2 ||| d.2 ||| flIf d.1.isNan flFormat }

/-- R239: the levels of a descent, with the count of node fetches. -/
def walkLevels (o : Obj) (m : Mem) (acc : AccFmt) (k : Nat) : Nat → Nat → List Walk → List Walk × Nat
  | 0, _, xs => (xs, 0)
  | n + 1, level, xs =>
    let r := walkLevels o m acc k n (level + 1) (xs.map (walkStep o m acc k level))
    (r.1, r.2 + ((xs.map (·.node)).eraseDups).length)

/-- R240: the rows in ascending leaf, and ascending row within a leaf. -/
def leafOrder (leaves : List Nat) : List Nat :=
  (leaves.eraseDups.mergeSort (· ≤ ·)).flatMap fun l => (List.range leaves.length).filter fun r => leaves.getD r 0 == l

/-- R240: the leaf-group entries, from a first position on. -/
def leafGroups (leaves : List Nat) : Nat → List Nat → List Nat
  | _, [] => []
  | pos, l :: r =>
    let n := (leaves.filter (· == l)).length
    (l + n * 2 ^ 16 + pos * 2 ^ 32) :: leafGroups leaves (pos + n) r

/-- R240: the bytes of the result tile. -/
def descentBytes (leaves paths : List Nat) : List Byte :=
  let words := (leaves.zip paths).map fun p => p.2 * 2 ^ 16 + p.1
  let groups := leafGroups leaves 0 (leaves.eraseDups.mergeSort (· ≤ ·))
  let order := leafOrder leaves
  (words ++ List.replicate (64 - words.length) 0).flatMap (bytesOfNat 4) ++
    (order ++ List.replicate (64 - order.length) 0xFF).flatMap (bytesOfNat 1) ++
    bytesOfNat 4 groups.length ++ List.replicate 60 0 ++ groups.flatMap (bytesOfNat 8)

/-- R237: the path trace of a descent. -/
def descentTrace (depth : Nat) (paths : List Nat) : Trace :=
  ⟨Vector.ofFn fun i => BitVec.ofNat 16 (paths.getD i.val 0), BitVec.ofNat 7 paths.length, BitVec.ofNat 5 depth⟩

/-- The batch rows of a captured tile. -/
def batchRows (c : Cmd) (n : Nat) : List (List FVal × Flags) :=
  (List.range c.cap.rows).map fun r =>
    batchValues c.cap.fmt.toNat n c.cap.scaled (readBytes c.cap.tile (r * c.cap.rowbytes) c.cap.rowbytes)

/-- R239: the nodes that the levels of a descent fetch. -/
def walkNodes (o : Obj) (m : Mem) (acc : AccFmt) (k : Nat) : Nat → Nat → List Walk → List Nat
  | 0, _, _ => []
  | n + 1, level, xs => xs.map (·.node) ++ walkNodes o m acc k n (level + 1) (xs.map (walkStep o m acc k level))

/-- The rows of a descent before its first level. -/
def startWalk (c : Cmd) (o : Obj) : List Walk := (batchRows c (extentAt o 0)).map fun r => (⟨r.1, 0, 0, false, r.2⟩ : Walk)

/-- The addresses of row 0 of a node. -/
def nodeAddrs (o : Obj) (i : Nat) : List Nat := (List.range (extentAt o 0)).flatMap fun e => pointAddrs o [e, 0, i]

/-- The addresses of the nodes that a descent fetches. -/
def descentAddrs (c : Cmd) (o : Obj) (m : Mem) (acc : AccFmt) (p : Nat) : List Nat :=
  ((walkNodes o m acc (streamK p 0) (treeDepth o) 0 (startWalk c o)).eraseDups).flatMap (nodeAddrs o)

/-- R239: a descent performed: its result tile landed, its words and trace set as its result. -/
def landDescent (s : State) (c : Cmd) (o : Obj) (m : Mem) (t : Nat) (acc : AccFmt) (p : Nat) : State :=
  let depth := treeDepth o
  let w := walkLevels o m acc (streamK p 0) depth 0 (startWalk c o)
  let leaves := w.1.map fun x => x.node - (2 ^ depth - 1)
  let paths := w.1.map (·.path)
  let nans := (w.1.filter (·.nan)).length
  let bytes := descentBytes leaves paths
  let s1 := landHead (usePages s o (descentAddrs c o m acc p)) c t 4 256 0xE false (bytes ++ List.replicate (Config.tileBytes - bytes.length) 0)
  landed (setResult s1 c.id ⟨0x00, nans, w.2, [], none, some (descentTrace depth paths), orFlags (w.1.map (·.flags))⟩) c.core t

/-- R238, R239: `tdesc` performed on its view. -/
def performDescent (s : State) (c : Cmd) (o : Obj) (t : Nat) : State :=
  let v := viewBytes s c o
  match pairing o.fmt.toNat c.cap.fmt.toNat (o.scaled || (c.cap.scaled && mayScale c.cap.fmt.toNat)) with
  | none => setResult s c.id (plainResult 0x20 0 0)
  | some p =>
    if c.cap.rows = 0 ∨ c.cap.rowbytes ≠ batchBytes c.cap.fmt.toNat (extentAt o 0) c.cap.scaled then
      setResult s c.id (plainResult 0x21 0 0)
    else
      match badView s o v.1 (descentAddrs c o v.2 p.1 p.2) with
      | some sub => failCmd s c (0x09, sub, c.cap.handle)
      | none => landDescent s c o v.2 t p.1 p.2

/-! ## Gradients (R242, R243) -/

/-- R242: the coefficient of a row at a level. -/
def coefAt (f : FloatFmt) (m : Mem) (r l : Nat) : FVal :=
  let n := f.width / 8
  decodeFloat f (readNat m (16 * n * r + n * l) n)

/-- R242: one row's addition into one node. -/
def addNode (o : Obj) (f : FloatFmt) (c : FVal) (row : List FVal) (node : Nat) (a : Mem × Flags) : Mem × Flags :=
  row.zipIdx.foldl (fun a p =>
    let q := [p.2, node]
    let x := fmaRound f nearestEven 0 c p.1 (decodeFloat f (elemCode o a.1 q))
    (putElem o a.1 q x.1, a.2 ||| x.2)) a

/-- R242: one row's additions down its path. -/
def addPath (o : Obj) (f : FloatFmt) (coef : Nat → FVal) (row : List FVal) (path : Nat) : Nat → Nat → Nat → Mem × Flags → Mem × Flags
  | 0, _, _, a => a
  | n + 1, level, node, a =>
    addPath o f coef row path n (level + 1) (2 * node + 1 + b2n (bitOf path level)) (addNode o f (coef level) row node a)

/-- R242: every row's additions, in ascending row. -/
def addGradients (o : Obj) (f : FloatFmt) (c : Cmd) (rows : List (List FVal × Flags)) (m : Mem) : Mem × Flags :=
  rows.zipIdx.foldl (fun a p =>
    let path := (c.cap.trace.entries.getD p.2 0).toNat
    let x := addPath o f (coefAt f c.cap.next p.2) p.1.1 path c.cap.trace.depth.toNat 0 0 a
    (x.1, x.2 ||| p.1.2)) (m, 0)

/-- R242: the extents fit. -/
def gradFits (c : Cmd) (o : Obj) : Bool :=
  c.cap.trace.valid != 0 && c.cap.rows == c.cap.trace.valid.toNat &&
    c.cap.rowbytes == batchBytes c.cap.fmt.toNat (extentAt o 0) c.cap.scaled &&
    decide (2 ^ c.cap.trace.depth.toNat - 1 ≤ extentAt o 1)

/-- R243: another context has added in a reproducible launch. -/
def otherWriter (s : State) (c : Cmd) (d : Draft) : Bool :=
  cmdRepro s c && d.gradWriter.elim false fun w => w != (c.core, c.ctx)

/-- R243: the adding context recorded. -/
def noteWriter (s : State) (c : Cmd) (k : ObjKey) : State :=
  if cmdRepro s c then modObj s k fun o => { o with draft := o.draft.map fun d => { d with gradWriter := some (c.core, c.ctx) } } else s

/-- R242: `tgrad` performed. -/
def performGrad (s : State) (c : Cmd) (o : Obj) : State :=
  if o.fmt.toNat ≠ 0 ∧ o.fmt.toNat ≠ 1 then setResult s c.id (plainResult 0x20 0 0)
  else if !gradFits c o then setResult s c.id (plainResult 0x21 0 0)
  else if o.compressed then setResult s c.id (plainResult 0x28 0 0)
  else
    match liveDraft o (cmdCtx s c), o.draft with
    | true, some d =>
      if otherWriter s c d then setResult s c.id (plainResult 0x1A 0 0)
      else
        let x := addGradients o (if o.fmt = 0 then f64 else f32) c (batchRows c (extentAt o 0)) d.store.bytes
        let s1 := noteWriter (setDraftBytes s o x.1 (gradAddrs c o)) c o.key
        setResult s1 c.id { plainResult 0x00 0 (c.cap.rows * c.cap.trace.depth.toNat) with flags := x.2 }
    | _, _ => setResult s c.id (plainResult 0x13 0 0)

/-! ## The event -/

/-- The operations of a Descent Unit. -/
def isDescent : Instr → Bool
  | .tdesc .. | .tgrad .. => true
  | _ => false

/-- R241: a `tdesc` or a `tgrad` of the same cluster that was released before and is not served. -/
def earlierDescent (s : State) (c : Cmd) : Bool :=
  s.cmds.any fun d =>
    isDescent d.op && d.released && d.result.isNone && !d.done && decide (d.order < c.order) && cmdCluster s d == cmdCluster s c

/-- R238: no node that a descent reads is absent. -/
def nodesPresent (s : State) (c : Cmd) (o : Obj) : Bool :=
  (firstAbsent s o (viewOf o (cmdCtx s c)).1 (cmdCluster s c) (regionShards c o)).isNone

/-- R239, R241, R242: the Descent Unit serves a released `tdesc` or `tgrad`. -/
def execDescent (cmd : Nat) (s : State) : Out :=
  withCmd s cmd fun c =>
    match c.op with
    | .tdesc _ t _ _ _ =>
      if mayPerform s c && !earlierDescent s c then
        arriveFor s c (.descent cmd) fun s =>
          match cmdObj s c with
          | none => setResult s c.id (plainResult 0x13 0 0)
          | some o => if nodesPresent s c o then performDescent s c o (t.toNat + 1) else s
      else s
    | .tgrad .. =>
      if mayPerform s c && !earlierDescent s c && objectPresent s c then
        match cmdObj s c with
        | none => setResult s c.id (plainResult 0x13 0 0)
        | some o => if (badView s o none (gradAddrs c o)).isSome then s else performGrad s c o
      else s
    | _ => s

end Sys2Proof.Machine
end

