-- ==== Sys2Proof/Machine/Fetch.lean ====
section
/-!
DEFINITION. Landings (R215, R216, R228, R230, R257, R259, R272): what each command lands in its reserved tile, with the header and
the full bit, in one step (R202).
-/

namespace Sys2Proof.Machine

/-! ## Fetch and gather (R215, R216) -/

/-- The rows of a command's region, read. -/
def readRows (s : State) (c : Cmd) (o : Obj) (m : Mem) (v : Option Nat) (t : TileMap) : List (Nat × RowRead) :=
  (regionRows c).map fun p => (p.1, readRow s c o m v t p.1 p.2)

/-- A mask with the bits of some rows set. -/
def rowMask (rows : List Nat) : BitVec 64 := BitVec.ofNat 64 ((rows.filter (· < 64)).foldl (fun n i => n ||| 2 ^ i) 0)

/-- R216: the bytes of row i: those read, or zeros where no row was picked. -/
def rowOrZero (rs : List (Nat × RowRead)) (rowbytes i : Nat) : List Byte :=
  ((rs.find? fun r => r.1 == i).map fun r => r.2.bytes).getD (List.replicate rowbytes 0)

/-- R215: the elements in order, for the index that a rejected host access reports (R348). -/
def fetchPoints (c : Cmd) (t : TileMap) : List (List Nat) := rowsPoints t ((regionRows c).map (·.2))

/-- The die of a command's cluster. -/
def cmdDie (s : State) (c : Cmd) : Nat := (cmdCluster s c).elim 0 (· / 12)

/-- R262, R263, R265: what a fetch leaves in the memory system: its block complete, its lines in their caches, its pages used. -/
def fetched (s : State) (c : Cmd) (o : Obj) (v : Option Nat) : State :=
  let lines := (viewLines o v (cmdAddrs c o)).filterMap (cacheLine s (cmdDie s c) (cmdCluster s c) o v)
  usePages (addLines (endBlock s c) lines) o (cmdAddrs c o)

/-- R215: a fetch or a gather landed. -/
def landFetch (s : State) (c : Cmd) (tile : Nat) (t : TileMap) (rs : List (Nat × RowRead)) : State :=
  let g := c.cap.shape
  let bytes := (List.range t.rows).flatMap (rowOrZero rs (shapeRowbytes g))
  let absent := (rs.map fun r => r.2.absent).foldl (· + ·) 0
  let mask := if shapeProbe g then some (rowMask ((rs.filter fun r => decide (0 < r.2.absent)).map (·.1))) else none
  let s1 := landHead s c tile t.rows (shapeRowbytes g) (BitVec.ofNat 4 (shapeFmt g)) t.scales bytes
  landed (setResult s1 c.id
    ⟨if absent = 0 then 0x00 else 0x01, Nat.min absent 0xFFFFFF, t.rows * t.elems, [], mask, none, orFlags (rs.map fun r => r.2.flags)⟩)
    c.core tile

/-- R348: the index, among the elements of a command, of the first that the host's IOMMU rejects. -/
def rejectIndex (s : State) (o : Obj) (points : List (List Nat)) : Option Nat :=
  match hostRejects s o points with
  | some e => points.findIdx? fun q => q.headD 0 == e
  | none => none

/-- R215: a fetch or a gather performed on its view. -/
def performFetch (s : State) (c : Cmd) (tile : Nat) : State :=
  match cmdObj s c with
  | none => setResult s c.id (plainResult 0x13 0 0)
  | some o =>
    match tileMap c.cap.shape c.cap.tuple o with
    | .error e => setResult s c.id (plainResult e 0 0)
    | .ok t =>
      let v := viewBytes s c o
      match badView s o v.1 (cmdAddrs c o), rejectIndex s o (fetchPoints c t) with
      | some sub, _ => failCmd s c (0x09, sub, c.cap.handle)
      | none, some i => setResult s c.id (plainResult 0x29 i 0)
      | none, none =>
        if faultMode c && absentAny s o v.1 (cmdCluster s c) (regionShards c o) then s
        else landFetch (fetched s c o v.1) c tile t (readRows s c o v.2 v.1 t)

/-! ## The other landings -/

/-- A whole tile landed and the result set. -/
def landResult (s : State) (c : Cmd) (tile rowbytes : Nat) (fmt : BitVec 4) (bytes : List Byte) (x : Result) : State :=
  landed (setResult (landWhole s c tile rowbytes fmt bytes) c.id x) c.core tile

/-- R228: `xref`: the refusal list landed and marked. -/
def performXref (s : State) (c : Cmd) (tile : Nat) : State :=
  let x := cmdCtx s c
  let bytes := x.refusals.flatMap fun r => bytesOfNat 4 r.word.toNat
  let s1 := modCtxOf s c.core c.ctx fun d =>
    { d with refusals := d.refusals.map fun r => { r with marked := true }, overflowMarked := d.overflow }
  landResult s1 c tile 256 0xE bytes (plainResult 0x00 (b2n x.overflow) x.refusals.length)

/-- R230: `cread`: the counters as they stand. -/
def performCread (s : State) (c : Cmd) (tile : Nat) : State :=
  landResult s c tile 1056 0xE ((cmdTeam s c).elim [] counterBytes) (plainResult 0x00 0 256)

/-- R230: `csnap`: the snapshot taken at its release. -/
def performCsnap (s : State) (c : Cmd) (tile : Nat) : State :=
  landResult s c tile 1056 0xE (readBytes c.cap.next 0 1056) (plainResult 0x00 0 256)

/-- R273: the sixteen forecast counters of a launch, for a team. -/
def forecastWords (l : Launch) (t : Team) : List Nat :=
  let f := l.fc
  [l.binding.elim 0 fun b => b.handle.toNat, l.binding.elim 0 fun b => b.entries.length, t.marker, t.pass, f.triggers, f.completed,
    f.redundant, f.failedActions, f.checks, f.misses, f.stallCycles, f.missTraps, f.toNear, f.toFar, f.lines, f.lastMiss]

/-- R272: `fcstat`. -/
def performFcstat (s : State) (c : Cmd) (tile : Nat) : State :=
  match cmdLaunch s c, cmdTeam s c with
  | some l, some t => landResult s c tile 128 0xF ((forecastWords l t).flatMap (bytesOfNat 8)) (plainResult 0x00 0 16)
  | _, _ => s

/-- R259: `rstat`. -/
def performRstat (s : State) (c : Cmd) (tile : Nat) : State :=
  match setBy s (handleKey c.cap.handle) with
  | none => setResult s c.id (plainResult 0x13 0 0)
  | some x => landResult s c tile 288 0xE (setStatistics s x (fixedFor s x c)) (plainResult 0x00 0 x.stages)

/-- R257, R261: a taken record landed. -/
def landTaken (s : State) (c : Cmd) (tile : Nat) : State :=
  landed (landWhole s c tile 520 0x9 (readBytes c.cap.tile 0 520)) c.core tile

/-- A command whose landing is due: reserved, released, resolved, its work not done. -/
def mayLand (c : Cmd) : Bool := c.reserved && performable c

/-- R263, R312: a fetch may land: its context's released writes of the object come first, and so does the load block of another fetch
that it waits on. -/
def mayFetch (s : State) (c : Cmd) : Bool := mayLand c && mayPerform s c && !blockInFlight s c

/-- The landing of a command. -/
def land (s : State) (c : Cmd) : State :=
  match c.op with
  | .hfet _ t _ _ _ => if mayFetch s c then performFetch s c t.toNat else s
  | .hgat _ t _ _ _ => if mayFetch s c then performFetch s c t.toNat else s
  | .xref _ t _ => if mayLand c then performXref s c t.toNat else s
  | .cread _ t _ => if mayLand c then performCread s c t.toNat else s
  | .csnap _ t _ => if mayLand c then performCsnap s c t.toNat else s
  | .fcstat _ t _ => if mayLand c then performFcstat s c t.toNat else s
  | .rstat _ t _ _ => if mayLand c then performRstat s c t.toNat else s
  | .rtake _ t _ _ _ => if c.reserved && c.result.elim false (fun x => x.status == 0x00) then landTaken s c t.toNat else s
  | _ => s

/-- R202, R215: an engine lands data in a reserved tile. -/
def execTileLanding (cmd : Nat) (s : State) : Out :=
  withCmd s cmd fun c => arriveFor s c (.tileLanding cmd) fun s => land s c

end Sys2Proof.Machine
end

