-- ==== Sys2Proof/Machine/Perform.lean ====
section
/-!
DEFINITION. The work of the commands that land nothing (R217 to R226, R232, R267, R279) and the completion of every command
(R191, R206).
-/

namespace Sys2Proof.Machine

/-! ## Put and scatter (R217) -/

/-- R217: the captured rows of a command, with their places and shifts, written in order. -/
def putRows (c : Cmd) (o : Obj) (t : TileMap) (m : Mem) : Mem × Flags :=
  (regionRows c).foldl (fun a p =>
    let bytes := readBytes c.cap.tile (p.1 * shapeRowbytes c.cap.shape) (shapeRowbytes c.cap.shape)
    let x := putRow c o t bytes p.1 p.2 a.1
    (x.1, a.2 ||| x.2)) (m, 0)

/-- R217: `hput` and `hsca` performed. -/
def performPut (s : State) (c : Cmd) (o : Obj) : State :=
  match tileMap c.cap.shape c.cap.tuple o with
  | .error e => deliver s c (plainResult e 0 0)
  | .ok t =>
    if o.compressed then deliver s c (plainResult 0x28 0 0)
    else if !liveDraft o (cmdCtx s c) then deliver s c (plainResult 0x13 0 0)
    else
      match rejectIndex s o (fetchPoints c t) with
      | some i => deliver s c (plainResult 0x29 i 0)
      | none =>
        let x := putRows c o t (draftBytes s o)
        deliver (setDraftBytes s o x.1 (cmdAddrs c o)) c { plainResult 0x00 0 ((regionRows c).length * t.elems) with flags := x.2 }

/-! ## Copy (R218, R279) -/

/-- R218: the rows of the source, read before any is written. -/
def copyRows (s : State) (c : Cmd) (src : Obj) (t : TileMap) : List (Int × RowRead) :=
  let v := viewBytes s c src
  (regionRows c).map fun p => (p.2, readRow s c src v.2 v.1 t p.1 p.2)

/-- R218: rows written into the destination's draft. -/
def pasteRows (dst : Obj) (t : TileMap) (rows : List (Int × RowRead)) (m : Mem) : Mem :=
  rows.foldl (fun m r => putRaw dst t r.1 r.2.bytes m) m

/-- The count of a copy. -/
def copyCount (c : Cmd) (t : TileMap) : Nat := Nat.min (blockCount c.cap * t.rows * t.elems) 0xFFFFFFFF

/-- A copy without compression. -/
def copyPlain (s : State) (c : Cmd) (dst src : Obj) (t : TileMap) : State :=
  let rows := copyRows s c src t
  let s1 := setDraftBytes (usePages s src (cmdAddrs c src)) dst (pasteRows dst t rows (draftBytes s dst)) (cmdAddrs c dst)
  deliver s1 c
    { plainResult 0x00 0 (copyCount c t) with flags := orFlags (rows.map fun r => r.2.flags) }

/-- R279: the element lies in the region of a copy. -/
def inCopy (c : Cmd) (t : TileMap) (q : List Nat) : Bool :=
  (List.range 6).all fun j =>
    let a := (t.start.getD j 0).toNat
    let n := if j = t.rowCoord then blockCount c.cap * t.rows else if j = t.elemCoord then t.elems else 1
    decide (a ≤ q.getD j 0) && decide (q.getD j 0 < a + n)

/-- R279: the blocks of the destination that hold an element of the region. -/
def copyBlocks (c : Cmd) (dst : Obj) (t : TileMap) : List Nat :=
  ((fetchPoints c t).map fun q => linearIndex dst q / blockElems).eraseDups

/-- R279: every block touched is covered whole. -/
def coversBlocks (c : Cmd) (dst : Obj) (t : TileMap) : Bool :=
  (copyBlocks c dst t).all fun b => (blockRange dst b).all fun l => inCopy c t (unlinear dst.extent l)

/-- R218: the element index of an element of the region: its row's place among the rows of all blocks, and its place in the row. -/
def copyIndex (t : TileMap) (q : List Nat) : Nat :=
  (q.getD t.rowCoord 0 - (t.start.getD t.rowCoord 0).toNat) * t.elems + (q.getD t.elemCoord 0 - (t.start.getD t.elemCoord 0).toNat)

/-- R218, R278: the code that a compressing copy encodes for an element: the source's own, or with a conversion its canonical one
(R39), with the flags. -/
def sourceCode (c : Cmd) (dst src : Obj) (t : TileMap) (m : Mem) (q : List Nat) : Nat × Flags :=
  if shapeConv c.cap.shape then convCode dst.fmt.toNat (cmdRounding c) (copyIndex t q) (elemValue src m q).1 else (elemCode src m q, 0)

/-- R279: a block of the destination encoded from the source, or copied as it stands in mode 3, with the flags. -/
def copyBlock (c : Cmd) (mode : Nat) (dst src : Obj) (t : TileMap) (st : Store) (m : Mem) (b : Nat) : List Byte × Flags :=
  match if mode = 3 then sourceBlock dst src st b else none with
  | some x => (x, 0)
  | none =>
    let x := (blockRange dst b).map fun l => sourceCode c dst src t m (unlinear dst.extent l)
    (encodeBlock (codecOf dst (mode != 1)) (x.map (·.1)), orFlags (x.map (·.2)))

/-- R279: a compressing copy. -/
def copyCoded (s : State) (c : Cmd) (mode : Nat) (dst src : Obj) (t : TileMap) : State :=
  let v := viewBytes s c src
  let st := (viewOf src (cmdCtx s c)).2
  let new := (copyBlocks c dst t).map fun b => (b, copyBlock c mode dst src t st v.2 b)
  let blocks := new.foldl (fun l x => l.set x.1 x.2.1) (codedBlocks dst (draftStore dst))
  let s1 := usePages (noteWritten s dst (lineStarts 0 (codedBytes blocks))) dst (cmdAddrs c dst)
  let s2 := setDraftStore (usePages s1 src (cmdAddrs c src)) dst.key { draftStore dst with blocks := blocks }
  deliver s2 c { plainResult 0x00 0 (copyCount c t) with flags := orFlags (new.map (·.2.2)) }

/-- The mode of a copy. -/
def copyMode : Instr → Nat
  | .hcopy _ _ _ _ _ m => m.toNat
  | _ => 0

/-- R218, R279: the error of a copy, when it has one. A copy without a conversion between an object with stored scales and one without
answers 0x21 (log entry 135). -/
def copyError (s : State) (c : Cmd) (dst src : Obj) (t : TileMap) : Option Result :=
  let mode := copyMode c.op
  if shapeFmt c.cap.shape ≠ dst.fmt.toNat then some (plainResult 0x20 0 0)
  else if !shapeConv c.cap.shape && src.scaled != dst.scaled then some (plainResult 0x21 0 0)
  else if (mode == 0) == dst.compressed then some (plainResult 0x28 0 0)
  else if mode ≠ 0 ∧ (src.fmt ≠ dst.fmt ∨ 1 < dst.fmt.toNat) then some (plainResult 0x20 0 0)
  else if mode ≠ 0 ∧ !coversBlocks c dst t then some (plainResult 0x21 0 0)
  else if !liveDraft dst (cmdCtx s c) then some (plainResult 0x13 0 0)
  else
    match rejectIndex s src (fetchPoints c t), rejectIndex s dst (fetchPoints c t) with
    | some i, _ => some (plainResult 0x29 i 0)
    | none, some i => some (plainResult 0x29 i 0)
    | none, none => none

/-- R218: `hcopy` performed. -/
def performCopy (s : State) (c : Cmd) (dst src : Obj) : State :=
  if blockCount c.cap = 0 then deliver s c (plainResult 0x00 0 0)
  else if maxBlocks < blockCount c.cap then deliver s c (plainResult 0x21 0 0)
  else
    match tileMap c.cap.shape c.cap.tuple src with
    | .error e => deliver s c (plainResult e 0 0)
    | .ok t =>
      match copyError s c dst src t with
      | some x => deliver s c x
      | none =>
        if copyMode c.op = 0 then copyPlain s c dst src t else copyCoded s c (copyMode c.op) dst src t

/-! ## Residency (R219) -/

/-- The elements of a command's region that are absent, by row. -/
def absentRows (s : State) (c : Cmd) (o : Obj) (t : TileMap) : List (Nat × Nat) :=
  let v := (viewOf o (cmdCtx s c)).1
  (regionRows c).map fun p =>
    (p.1, ((List.range t.elems).filter fun e => absentElem s o v (cmdCluster s c) (rowPoint t p.2 e)).length)

/-- The count of absent elements. -/
def absentCount (rows : List (Nat × Nat)) : Nat := (rows.map (·.2)).foldl (· + ·) 0

/-- A residency command on its map, or its error. -/
def withRange (s : State) (c : Cmd) (o : Obj) (f : TileMap → State) : State :=
  if byBlocks c.op && decide (maxBlocks < blockCount c.cap) then deliver s c (plainResult 0x21 0 0)
  else
    match tileMap c.cap.shape c.cap.tuple o with
    | .error e => deliver s c (plainResult e 0 0)
    | .ok t => f t

/-- R219: `hprobe`. -/
def performProbe (s : State) (c : Cmd) (o : Obj) : State :=
  withRange s c o fun t =>
    let rows := absentRows s c o t
    let n := absentCount rows
    deliver s c
      { plainResult 0x00 0 (Nat.min n 0xFFFFFFFF) with mask := some (rowMask ((rows.filter fun r => decide (0 < r.2)).map (·.1))) }

/-- R219: `hres`: the count of absent elements is kept at first, and the command completes when none is left. -/
def performRes (s : State) (c : Cmd) (o : Obj) : State :=
  withRange s c o fun t =>
    let n := absentCount (absentRows s c o t)
    if n = 0 then deliver s c (plainResult 0x00 0 (Nat.min c.cap.rowbytes 0xFFFFFFFF))
    else if c.cap.rows = 0 then modCmd s c.id fun d => { d with cap := { d.cap with rows := 1, rowbytes := n } }
    else s

/-- R219, R269: lines of a range brought into the caches: the count of them that the caches did not hold is a free value. -/
def bringLines (s : State) (ls : List CacheLine) : Nat × State :=
  (Nat.min (Config.linesBrought s.drawn ls.length) ls.length,
    addLines { s with drawn := s.drawn + 1 } ls)

/-- R219: `hpfl2`. -/
def performPrefetch (s : State) (c : Cmd) (o : Obj) : State :=
  withRange s c o fun _ =>
    let v := (viewOf o (cmdCtx s c)).1
    if faultMode c && absentAny s o v (cmdCluster s c) (regionShards c o) then s
    else if (badView s o v (cmdAddrs c o)).isSome then failCmd s c (0x09, ((badView s o v (cmdAddrs c o)).getD 1), c.cap.handle)
    else
      let all := (viewLines o v (cmdAddrs c o)).map (cacheLine s (cmdDie s c) (cmdCluster s c) o v)
      let x := bringLines s (all.filterMap id)
      deliver (usePages x.2 o (cmdAddrs c o)) c (plainResult 0x00 (Nat.min (all.filter (·.isNone)).length 0xFFFFFF) (Nat.min x.1 0xFFFFFFFF))

/-! ## Network counters (R232) -/

/-- R232: `nexp`. -/
def performNexp (s : State) (c : Cmd) (o : Obj) : State :=
  let n := (c.cap.args.headD 0).toNat
  if n = 0 ∨ 0xFFFFFF < n then deliver s c (plainResult 0x21 0 0)
  else if o.compressed then deliver s c (plainResult 0x28 0 0)
  else if !liveDraft o (cmdCtx s c) then deliver s c (plainResult 0x13 0 0)
  else if 0xFFFFFF < o.pendingBytes + n then deliver s c (plainResult 0x15 o.pendingBytes 0)
  else deliver (modObj s o.key fun o => { o with pendingBytes := o.pendingBytes + n }) c (plainResult 0x00 0 (o.pendingBytes + n))

/-- R232: `ncnt`. -/
def performNcnt (s : State) (c : Cmd) (o : Obj) : State :=
  deliver s c (plainResult (if o.overrun then 0x06 else 0x00) o.pendingBytes o.counter.toNat)

/-! ## Forecast bindings (R267) -/

/-- R267, R271: entries bound to a launch: every team armed and triggered, those that have not started among them (R284); none is
triggered while it is swapped out. -/
def bindEntries (s : State) (launch : Nat) (handle : BitVec 64) (es : List ForecastEntry) : State :=
  let s1 := modLaunch s launch fun l => { l with binding := some ⟨handle, es⟩ }
  let teams := (launchBy s launch).elim [] (·.teams)
  teams.foldl (fun x t => if t.status != .out then triggerReached (armAll x launch t.index) launch t.index
    else armAll x launch t.index) s1

/-- R267: a table bound, or the first bad row. -/
def bindTable (s : State) (launch : Nat) (handle : BitVec 64) (o : Obj) : Except Nat State :=
  let rows := tableRows o o.current
  match firstBadRow rows with
  | some i => .error i
  | none => .ok (bindEntries s launch handle (rows.map parseEntry))

/-- The number of a command's launch. -/
def cmdLaunchId (s : State) (c : Cmd) : Nat := (coreOf s c.core).elim 0 (·.launch)

/-- R267: `fcbind`. -/
def performBind (s : State) (c : Cmd) (o : Obj) : State :=
  match bindTable s (cmdLaunchId s c) c.cap.handle o with
  | .error i => deliver s c (plainResult 0x21 i 0)
  | .ok t => deliver t c (plainResult 0x00 0 (extentAt o 1))

/-- R267: `fcbind.un`. -/
def performUnbind (s : State) (c : Cmd) : State :=
  deliver (modLaunch s (cmdLaunchId s c) fun l =>
    { l with binding := none, teams := l.teams.map fun t => { t with armed := [] } }) c (plainResult 0x00 0 0)

/-! ## Element atomics (R226) -/

/-- R226: the format code of a type. -/
def atomCode (y : Nat) : Nat := [0xC, 0xD, 0xE, 0xF, 0x1, 0x0].getD y 0xC

/-- R226: the old element as the follower register takes it. -/
def atomOld (y old : Nat) : BitVec 64 := if y = 0 then BitVec.ofInt 64 (signedOf 32 old) else BitVec.ofNat 64 old

/-- R226: the operation, the type, and whether the old element is returned. -/
def atomOf : Instr → Option (Nat × Nat × Bool)
  | .hatom _ _ _ _ o y => some (o.toNat, y.toNat, false)
  | .hatomr _ _ _ _ o y => some (o.toNat, y.toNat, true)
  | .hcas _ _ _ _ y => some (7, y.toNat, true)
  | _ => none

/-- R226: an atomic applied to the element of the draft. -/
def applyAtomic (s : State) (c : Cmd) (o : Obj) (op y : Nat) (back : Bool) : State :=
  let q := natPoint (tupleInts c.cap.tuple)
  let m := draftBytes s o
  let old := elemCode o m q
  let operand := (c.cap.args.headD 0).toNat
  let expected := (c.cap.args.getD 1 0).toNat
  let w := elemBits (atomCode y)
  let x := atomicNew (atomCode y) op old operand expected
  let stored := op != 7 || old == expected % 2 ^ w
  let s1 := if stored then setDraftBytes s o (putElem o m q x.1) (pointAddrs o q) else s
  setResult s1 c.id
    { plainResult (if stored then 0x00 else 0x03) 0 (b2n stored) with follow := if back then [atomOld y old] else [], flags := x.2 }

/-- R226: an atomic arrives at the home. -/
def execElementAtomic (cmd : Nat) (s : State) : Out :=
  withCmd s cmd fun c =>
    match atomOf c.op with
    | none => s
    | some (op, y, back) =>
      if mayPerform s c && objectPresent s c then
        match cmdObj s c with
        | none => setResult s c.id (plainResult 0x13 0 0)
        | some o =>
          if o.compressed then setResult s c.id (plainResult 0x28 0 0)
          else if o.fmt.toNat ≠ atomCode y then setResult s c.id (plainResult 0x20 0 0)
          else if !liveDraft o (cmdCtx s c) then setResult s c.id (plainResult 0x13 0 0)
          else if (badView s o none (cmdAddrs c o)).isSome then s
          else applyAtomic s c o op y back
      else s

/-! ## The publish step (R309) -/

/-- R309: a publish takes effect at the object's home, in one step. -/
def execPublishStep (cmd : Nat) (s : State) : Out :=
  withCmd s cmd fun c =>
    if isPublish c.op && mayPerform s c && objectPresent s c then performPub s c else s

/-! ## Completion (R191, R206) -/

/-- The object of a command's source handle. -/
def cmdSource (s : State) (c : Cmd) : Option Obj := objFor s c (handleKey c.cap.source)

/-- R396: an `hopen`, `hpin` or `hsub` is held at the home from the start of a spill's copy to its switch. -/
def heldAtSpill (s : State) (c : Cmd) : Bool :=
  match c.op with
  | .hopen .. | .hpin .. | .hpinV .. | .hsub .. | .hsubV .. => (cmdObj s c).any fun o => !o.spilling.isEmpty
  | _ => false

/-- R208, R303, R371: a copy waits while a shard of its source region is absent in its view, or cannot be read. -/
def copyReady (s : State) (c : Cmd) (src : Obj) : Bool :=
  let v := (viewOf src (cmdCtx s c)).1
  !absentAny s src v (cmdCluster s c) (regionShards c src) && (badView s src v (cmdAddrs c src)).isNone

/-- The work of a command that completes in the step that performs it. -/
def performNow (s : State) (c : Cmd) : State :=
  match c.op with
  | .hput .. | .hsca .. => if objectPresent s c then onObj s c (performPut s c) else s
  | .hcopy .. =>
    if objectPresent s c then
      onObj s c fun o =>
        match cmdSource s c with
        | none => deliver s c (plainResult 0x13 0 0)
        | some src => if copyReady s c src then performCopy s c o src else s
    else s
  | .hpfl2 .. => onObj s c (performPrefetch s c)
  | .hres .. => onObj s c (performRes s c)
  | .hprobe .. => onObj s c (performProbe s c)
  | .hopen .. => if homeSettled s c then performOpen s c else s
  | .hdisc .. => if objectPresent s c then performDisc s c else s
  | .hpin .. => if homeSettled s c then performPin s c false else s
  | .hpinV .. => if homeSettled s c then performPin s c true else s
  | .hunpin .. => if objectPresent s c then performUnpin s c else s
  | .hsub _ _ _ u => if registered s c || !homeSettled s c then s else performSub s c false (u == 1)
  | .hsubV _ _ _ u => if registered s c || !homeSettled s c then s else performSub s c true (u == 1)
  | .hunsub .. => if objectPresent s c then performUnsub s c else s
  | .hver .. => if homeReached s c then performVer s c else s
  | .nexp .. => if objectPresent s c then onObj s c (performNexp s c) else s
  | .ncnt .. => if homeReached s c then onObj s c (performNcnt s c) else s
  | .fcbind .. =>
    if objectPresent s c && (cmdObj s c).all fun o => (badView s o (some o.current) (wholeAddrs o)).isNone then onObj s c (performBind s c)
    else s
  | .fcbindUn .. => performUnbind s c
  | .nsend .. => if s.sends.any (fun x => x.cmd == c.id) then s else startSend s c
  | _ => s

/-- R257, R261: an `rtake` completes after its landing. -/
def awaitsLanding (c : Cmd) : Bool :=
  match c.op with
  | .rtake .. => c.reserved && c.result.elim false fun x => x.status == 0x00
  | _ => false

/-- R310: a publish completes after the words of the subscriptions that it has completed, those that are held for a team whose image is
being written or read (R334) among them. -/
def subsAwaited (s : State) (c : Cmd) : Bool :=
  isPublish c.op && s.cmds.any fun d =>
    (match d.op with | .hsub .. | .hsubV .. => true | _ => false) && d.result.isSome && !d.done &&
      handleKey d.cap.handle == handleKey c.cap.handle

/-- The call that a command made, answered, leaves its queue. -/
def dropCall (s : State) (id : Nat) : State := { s with calls := s.calls.filter fun k => k.caller != .command id }

/-- R191, R213: a set result delivered, with what is left of a reservation released. -/
def finishCmd (s : State) (c : Cmd) (x : Result) : State :=
  settleCore (deliver (dropCall (dropReservation s c) c.id) { c with reserved := false } x) c.core

/-- The operations that an event of their own completes. -/
def isTransfer (c : Cmd) : Bool := c.kind == .transfer

/-- R206: an engine performs a command, or has performed it, and writes its completion word. -/
def execCommandCompletion (cmd : Nat) (s : State) : Out :=
  withCmd s cmd fun c =>
    if c.done || isTransfer c then s
    else
      arriveFor s c (.commandCompletion cmd) fun s =>
        match c.result with
        | some x => if awaitsLanding c || subsAwaited s c then s else finishCmd s c x
        | none => if mayPerform s c && !heldAtSpill s c then settleCore (performNow s c) c.core else s

end Sys2Proof.Machine
end

