-- ==== Sys2Proof/Machine/Tier.lean ====
section
/-!
DEFINITION. The tier engines: forecast actions (R269), page switches (R264), and the resolution of a forecast miss (R369).
-/

namespace Sys2Proof.Machine

/-! ## Movements -/

/-- R264: the copies of pages begun for an action. -/
def beginMoves (s : State) (a : Action) (k : ObjKey) (near : Bool) (pages : List Nat) : State :=
  pages.foldl (fun t p => { t with nextId := t.nextId + 1, moves := t.moves ++ [⟨t.nextId, k, p, near, a.launch, a.id, a.entry⟩] }) s

/-- R270, R372: the contexts of a launch that stall at a `mark` of this value, of the teams that an entry selects, are pulsed. -/
def pulseStalled (s : State) (launch : Nat) (team marker : Nat) : State :=
  modAllCores s fun c =>
    if c.launch = launch ∧ (team = 0xFFFF ∨ c.team = team) then
      { c with ctxs := c.ctxs.map fun x =>
          if x.waiting.any (fun w => match w.op with | .mark k _ => k.toNat == marker | _ => false) then { x with silence := 0 } else x }
    else c

/-- Counted as failed, redundant or completed (R273). -/
def countFailed (s : State) (launch : Nat) : State := modCounters s launch fun c => { c with failedActions := satAdd c.failedActions 1 }
/-- Counted as redundant. -/
def countRedundant (s : State) (launch : Nat) : State := modCounters s launch fun c => { c with redundant := satAdd c.redundant 1 }
/-- Counted as completed. -/
def countCompleted (s : State) (launch : Nat) : State := modCounters s launch fun c => { c with completed := satAdd c.completed 1 }

/-- The pages of a range whose storage lies in this package's tiers. -/
def tierPages (s : State) (o : Obj) (e : ForecastEntry) : List Nat :=
  (rangePages o (natPoint e.start) e.extent).filter fun p => inTiers s o (pageShard p)

/-- R265: room made on each die for the pages of an object that are to come into its near tier. -/
def roomFor (s : State) (launch : Option Nat) (o : Obj) (pages : List Nat) : Option State :=
  let need := pages.map fun p => (o.key, p)
  ((pages.map fun p => shardDie o (pageShard p)).eraseDups).foldl (fun t die =>
    t.bind fun t =>
      let fresh := pages.filter fun p => shardDie o (pageShard p) == die && !(nearOf s o die).contains p
      roomOn t launch o.partition die need (copiesOf o fresh)) (some s)

/-- R269: the range brought into the near tier. -/
def actNear (s : State) (a : Action) (o : Obj) : State :=
  let pages := (tierPages s o a.op).filter fun p => o.farPages.contains p || movingTo s o.key false p
  if pages.isEmpty then countRedundant s a.launch
  else
    match roomFor s (some a.launch) o pages with
    | none => countFailed s a.launch
    | some t => pulseStalled (beginMoves t a o.key true pages) a.launch a.op.team a.op.marker

/-- R269: the range moved to the far tier. -/
def actFar (s : State) (a : Action) (o : Obj) : State :=
  let pages := (tierPages s o a.op).filter fun p => !o.farPages.contains p || movingTo s o.key true p
  if pages.isEmpty then countRedundant s a.launch
  else if farRoom s (copiesOf o (pages.filter fun p => !movingTo s o.key false p)) then beginMoves s a o.key false pages else countFailed s a.launch

/-- R269: the addresses of the elements of a range. -/
def rangePoints (o : Obj) (e : ForecastEntry) : List Nat := (rangeTuples (natPoint e.start) e.extent).flatMap (pointAddrs o)

/-- R269: the lines of a range, in the current version; absent ones are skipped. -/
def rangeLines (s : State) (o : Obj) (e : ForecastEntry) : List CacheLine :=
  (viewLines o (some o.current) (rangePoints o e)).filterMap fun l =>
    cacheLine s (shardDie o (l * 128 / shardBase 1)) none o (some o.current) l

/-- R269: `prefetch-L2`. -/
def actPrefetch (s : State) (a : Action) (o : Obj) : State :=
  let x := bringLines (usePages s o (rangePoints o a.op)) (rangeLines s o a.op)
  if x.1 = 0 then countRedundant x.2 a.launch
  else countCompleted (modCounters x.2 a.launch fun c => { c with lines := satAdd c.lines x.1 }) a.launch

/-- R262, R269: the lines of a range in every retained version and in an open draft, each with its line tag. -/
def tagLines (o : Obj) (e : ForecastEntry) : List (Nat × Nat) :=
  (o.versions.map (fun v => some v.num) ++ o.draft.toList.map fun _ => (none : Option Nat)).flatMap fun v =>
    (viewLines o v (rangePoints o e)).map fun l => (lineTag o v, l)

/-- R269: `release-L2`: the range's lines, in the L2 and in every remote-data cache, become the first candidates for replacement;
whether the caches held any line is free. -/
def actRelease (s : State) (a : Action) (o : Obj) : State :=
  let ls := tagLines o a.op
  let hit := fun (l : CacheLine) => l.obj == o.key && ls.contains (l.version, l.line)
  let n := ls.length
  let missing := Nat.min (Config.linesBrought s.drawn n) n
  let s1 := { s with drawn := s.drawn + 1, lines := s.lines.filter hit ++ s.lines.filter fun l => !hit l }
  if missing = n then countRedundant s1 a.launch else countCompleted s1 a.launch

/-- R269: an action carried out on its range. -/
def carryOut (s : State) (a : Action) : State :=
  match resolveEntry s ((launchBy s a.launch).elim 0 (·.partition)) a.op with
  | none => countFailed s a.launch
  | some o =>
    match a.op.action with
    | 0 => actNear s a o
    | 1 => actNear s a o
    | 2 => actFar s a o
    | 3 => actPrefetch s a o
    | _ => actRelease s a o

/-- R269: the die whose tier engine carries out an action: that of the shard that holds the start of its range. -/
def actionDie (s : State) (a : Action) : Option Nat :=
  (objAt s (handleKey a.op.handle)).map fun o => shardDie o (shardOf o (natPoint a.op.start))

/-- R269: an earlier action of the same engine has not started. -/
def actionBehind (s : State) (a : Action) : Bool :=
  s.actions.any fun b => decide (b.id < a.id) && actionDie s b == actionDie s a

/-- R269: a tier engine starts a triggered action. -/
def execForecastAction (act : Nat) (s : State) : Out :=
  match s.actions.find? fun a => a.id == act with
  | none => .next s
  | some a =>
    if actionBehind s a then .next s
    else .next (carryOut { s with actions := s.actions.filter fun b => b.id != act } a)

/-! ## The switch of a page (R264) -/

/-- R273: the bytes of a switched page, with its copies, when it changed its tier. -/
def countBytes (was : Bool) (m : Move) (copies : Nat) (c : ForecastCounters) : ForecastCounters :=
  if m.near && was then { c with toNear := satAdd c.toNear (copies * Config.pageBytes) }
  else if !m.near && !was then { c with toFar := satAdd c.toFar (copies * Config.pageBytes) } else c

/-- R269, R273: an action whose last page has switched is counted as completed. -/
def endAction (s : State) (m : Move) : State :=
  if m.action = 0 ∨ s.moves.any (fun x => x.action == m.action) then s else countCompleted s m.launch

/-- R273, R295: movements dropped without a switch: each action that loses its last one has failed. -/
def dropMoves (s : State) (k : ObjKey) : State :=
  let left := s.moves.filter fun m => m.obj != k
  let ended := (((s.moves.filter fun m => m.obj == k && m.action != 0).map fun m => (m.launch, m.action)).eraseDups).filter fun x =>
    !left.any fun m => m.action == x.2
  ended.foldl (fun t x => countFailed t x.1) { s with moves := left }

/-- R264: a page's copy is complete, and its location switches in one step. -/
def execTierPageSwitch (move : Nat) (s : State) : Out :=
  match s.moves.find? fun m => m.id == move with
  | none => .next s
  | some m =>
    let was := (objAt s m.obj).elim false fun o => o.farPages.contains m.page
    let copies := (objAt s m.obj).elim 1 fun o => pageCopies o m.page
    let s1 := { s with moves := s.moves.filter fun x => x.id != move }
    let s2 := if was == !m.near then s1 else putPage s1 m.obj m.page (!m.near)
    let e := ((boundEntries s m.launch).find? fun x => x.1 == m.entry).map (·.2)
    let s3 := endAction (modCounters s2 m.launch (countBytes was m copies)) m
    .next (e.elim s3 fun e => pulseStalled s3 m.launch e.team e.marker)

/-! ## Forecast misses (R369) -/

/-- R378: a resolved trap counted by its launch. -/
def countResolved (s : State) (launch : Nat) : State :=
  modLaunch s launch fun l => { l with counters := l.counters.modify 3 (· + 1) }

/-- R366: a context resumed. -/
def resumeCtx (s : State) (core : Nat) (ctx : Fin 4) : State :=
  countResolved (withActing s core ctx resumeTrap) ((coreOf s core).elim 0 (·.launch))

/-- R271: the team is swapped out. -/
def isOut (s : State) (launch team : Nat) : Bool := (teamBy s launch team).any fun t => t.status == .out

/-- R271, R369: a step on a context that awaits the ranges of marker k; nothing is triggered while its team is swapped out. -/
def missStep (s : State) (c : CoreRec) (ctx : Fin 4) (k : Nat) : State :=
  let held := holding s c.launch c.team k
  if held.isEmpty then
    let failed := (missing s c.launch c.team k).length
    modCounters (resumeCtx s c.id ctx) c.launch fun f => { f with failedActions := satAdd f.failedActions failed }
  else if isOut s c.launch c.team then s
  else (held.filter fun x => !inProgress s c.launch x.1).foldl (trigger c.launch c.team) s

/-- R369: Rilsia triggers missing entries again, and resumes the context once its ranges are near-resident. -/
def execForecastMissResolution (core ctx : Nat) (s : State) : Out :=
  if h : ctx < 4 then
    match coreOf s core, (ctxOf s core ctx).bind (·.trap) with
    | some c, some r => .next (if r.cls = 0x08 then missStep s c ⟨ctx, h⟩ (r.detail.toNat / 2 ^ 16) else s)
    | _, _ => .next s
  else .next s

end Sys2Proof.Machine
end

