-- ==== Sys2Proof/Machine/HostOps.lean ====
section
/-!
DEFINITION. What the device tells its hosts: events (R347), completion records (R322, R344), the progress of a stream past a
conditional node (R320, R328), and the end of a launch from outside its contexts (R337, R367).
-/

namespace Sys2Proof.Machine

/-! ## Events (R347) -/

/-- R364: the bytes of a trap record. -/
def trapBytes (r : TrapRecord) : List Byte :=
  [r.cls, r.slot, r.ctx, 0] ++ bytesOfNat 4 r.bundle.toNat ++ bytesOfNat 4 r.detail.toNat ++ bytesOfNat 4 r.team.toNat ++
    bytesOfNat 8 r.operand.toNat

/-- The 24 bytes of an event that depend on its type. -/
def payload24 (bs : List Byte) : List Byte := (bs ++ List.replicate 24 0).take 24

/-- R347: the events that the device holds while no buffer is available. -/
def heldEvents : Nat := 256

/-- R347: an event posted, held, or lost. -/
def postTo (e : HostEvent) (p : Partition) : Partition :=
  if 0 < p.buffers then { p with buffers := p.buffers - 1, posted := p.posted ++ [e] }
  else if p.pendingEvents.length < heldEvents then { p with pendingEvents := p.pendingEvents ++ [e] }
  else { p with lostEvents := p.lostEvents + 1 }

/-- R347: an event posted to a partition. -/
def postEvent (s : State) (part type : Nat) (tag : BitVec 32) (bs : List Byte) : State :=
  modPartition s part (postTo ⟨type, tag, payload24 bs⟩)

/-- R343, R347: the events held, written into n buffers, as many as the queue has entries, and then the count of those lost. -/
def fillBuffers (n : Nat) (p : Partition) : Partition :=
  let have_ := Nat.min (p.buffers + n) (Config.queueEntries p.number 2)
  let out := p.pendingEvents.take have_
  let left := have_ - out.length
  let p1 := { p with buffers := left, posted := p.posted ++ out, pendingEvents := p.pendingEvents.drop have_ }
  if 0 < p.lostEvents ∧ 0 < left then
    { p1 with buffers := left - 1, lostEvents := 0
              posted := p1.posted ++ [⟨4, 0, payload24 (bytesOfNat 4 p.lostEvents)⟩] }
  else p1

/-! ## Streams (R320, R321) -/

/-- A stream by its number. -/
def streamBy (s : State) (n : Nat) : Option CmdStream := s.streams.find? fun x => x.number == n

/-- A stream changed. -/
def modStream (s : State) (n : Nat) (f : CmdStream → CmdStream) : State :=
  { s with streams := s.streams.map fun x => if x.number = n then f x else x }

/-- A little-endian field of an entry. -/
def entryField (e : Entry) (off n : Nat) : Nat := recordField e.bytes off n

/-- R321: the tag of an entry. -/
def entryTag (e : Entry) : BitVec 32 := BitVec.ofNat 32 (entryField e 4 4)

/-- R322: an entry's completion record. -/
def recordFor (x : CmdStream) (e : Entry) (status detail count fault : Nat) (data : List Byte) : Completion :=
  ⟨x.partition, e.queue, some x.number, entryTag e, status, Nat.min detail 0xFFFFFF, Nat.min count 0xFFFFFFFF, fault, data, false⟩

/-- R344: a chain returned unperformed, with used length 0. -/
def returnedChain (part : Nat) (queue : Option Nat) : Completion := ⟨part, queue, none, 0, 0, 0, 0, 0, [], true⟩

/-- R328, R343, R344: what goes at the head of a stream without being performed: the entries that a false node skips, completed in
order with status 0x02, and malformed requests, returned in their places. -/
def skipEntries (x : CmdStream) : Nat → List Entry → List Completion × List Entry × Nat
  | n, [] => ([], [], n)
  | n, e :: r =>
    if e.unperformed then
      let y := skipEntries x n r
      (returnedChain x.partition e.queue :: y.1, y.2)
    else
      match n with
      | 0 => ([], e :: r, 0)
      | m + 1 =>
        let y := skipEntries x m r
        (recordFor x e 0x02 0 0 0 [] :: y.1, y.2)

/-- R344, R347: a completion given to the host; the event queue reports a chain returned unperformed. -/
def giveCompletion (s : State) (c : Completion) : State :=
  let t := { s with completions := s.completions ++ [c] }
  if c.returned then postEvent t c.partition 2 0 (bytesOfNat 2 (c.queue.getD 0)) else t

/-- The entries at the head of a stream that are not performed gone. -/
def settleStream (s : State) (n : Nat) : State :=
  match streamBy s n with
  | none => s
  | some x =>
    let y := skipEntries x x.skip x.entries
    modStream (y.1.foldl giveCompletion s) n fun x => { x with entries := y.2.1, skip := y.2.2 }

/-- R320, R322: the entry at the head of a stream completes; `skip` of those after it are then skipped. -/
def completeHead (s : State) (n : Nat) (status detail count fault skip : Nat) (data : List Byte) : State :=
  match streamBy s n with
  | none => s
  | some x =>
    match x.entries with
    | [] => s
    | e :: r =>
      let s1 := { s with completions := s.completions ++ [recordFor x e status detail count fault data] }
      settleStream (modStream s1 n fun x => { x with entries := r, skip := x.skip + skip }) n

/-- R320, R343: an entry appended to a stream, or a malformed request of a queue that feeds it. -/
def appendTo (s : State) (n : Nat) (bytes : List Byte) (queue : Option Nat) (unperformed : Bool) : State :=
  settleStream (modStream s n fun x => { x with entries := x.entries ++ [⟨bytes, queue, false, 0, unperformed⟩] }) n

/-- R320: an entry appended to a stream. -/
def appendEntry (s : State) (n : Nat) (bytes : List Byte) (queue : Option Nat) : State := appendTo s n bytes queue false

/-- The entry at the head of a stream, when it is not yet active. -/
def eligibleEntry (s : State) (n : Nat) : Option (CmdStream × Entry) :=
  (streamBy s n).bind fun x => (x.entries.head?).bind fun e => if e.active then none else some (x, e)

/-- The head entry of a stream marked as accepted. -/
def activateHead (s : State) (n : Nat) : State :=
  modStream s n fun x => { x with entries := x.entries.modifyHead fun e => { e with active := true } }

/-! ## The end of a launch (R325, R337, R367) -/

/-- R367: the open drafts that a launch opened or joined. -/
def launchDrafts (s : State) (launch : Nat) : List Obj :=
  s.objects.filter fun o => o.present && o.draft.elim false fun d => d.joined.contains launch

/-- R295, R367: a launch lives until its released effects have completed. -/
def Launch.live (l : Launch) : Bool := !l.ended || l.ending.isSome

/-- R367: a live launch has joined the draft. -/
def draftJoined (s : State) (d : Draft) : Bool := d.joined.any fun n => (launchBy s n).elim false (·.live)

/-- R337, R367: the acting context stopped: its unreleased commands and those that only wait go; what it has joined, pinned and taken
stays while its released effects complete. -/
def stopCtx (s : State) : State :=
  if (curCtx s).ended then s
  else
    let s1 := { s with cmds := s.cmds.filter fun c => !(c.of s.core.id (localNo s) && !c.released) }
    modCtx (discardCmds (withdraw s1 s.core.id (localNo s)) s.core.id (localNo s)) fun c =>
      { c with status := .exited, live := Reset.regs, shadow := Reset.regs, region := 0, closing := none, waiting := [],
               withheld := [], silence := 0, trap := none, loads := [] }

/-- An operation on every context of a core. -/
def onCore (f : State → State) (s : State) (core : Nat) : State :=
  ([0, 1, 2, 3] : List (Fin 4)).foldl (fun t x => withActing t core x f) s

/-- R367, R402: a draft that no live launch has joined, and that the router does not hold, discarded. -/
def discardUnjoined (s : State) (o : Obj) : State :=
  if o.draft.elim false (fun d => !d.routed && !draftJoined s d) then discardDraft s o else s

/-- The cores of a launch left free, and their records dropped where no command names them. -/
def freeCores (s : State) (launch : Nat) : State :=
  let s1 := modAllCores s fun c => if c.launch = launch then { c with place := none, streams := [], load := none } else c
  { s1 with parked := s1.parked.filter fun c => c.launch != launch || s1.cmds.any fun x => x.core == c.id }

/-- R382: the journal entries of a launch go when it completes. -/
def dropJournal (s : State) (l : Launch) : State :=
  modPartition s l.partition fun p => { p with journal := p.journal.filter fun j => j.callId.1 != l.id }

/-- The numbers of a launch's cores. -/
def coresOf (s : State) (launch : Nat) : List Nat := ((allCores s).filter fun c => c.launch == launch).map (·.id)

/-- R337, R367: a launch stopped from outside its contexts: its contexts stop at once and its cores are free. -/
def stopLaunch (s : State) (l : Launch) (x : Ending) : State :=
  let s1 := modAllCores ((coresOf s l.id).foldl (onCore stopCtx) s) fun c =>
    if c.launch = l.id then { c with place := none, streams := [], load := none } else c
  modLaunch s1 l.id fun l =>
    { l with ended := true, ending := some x
             teams := l.teams.map fun t => { t with status := .exited, place := none, arrivals := [], image := none } }

/-- R197, R367: a released effect of a launch has not completed. -/
def effectsPending (s : State) (launch : Nat) : Bool :=
  s.cmds.any fun c => c.released && !c.done && c.kind != .free && (coreOf s c.core).elim false fun d => d.launch == launch

/-- R337, R367: a stopped launch's end once its released effects have completed: drafts, pins and held records go, and it completes,
with an event where there is a trap record. -/
def finishLaunch (s : State) (l : Launch) : State :=
  match (launchBy s l.id).bind (·.ending) with
  | none => s
  | some x =>
    if effectsPending s l.id then s
    else
      let s1 := freeCores ((coresOf s l.id).foldl (onCore dropContextState) s) l.id
      let s2 := modLaunch s1 l.id fun l => { l with ending := none }
      let s3 := completeHead (dropJournal ((launchDrafts s2 l.id).foldl discardUnjoined s2) l) l.stream x.status x.detail x.count x.fault 0 []
      x.event.elim s3 fun r => postEvent s3 l.partition 1 l.tag (trapBytes r)

/-- R337, R367: a launch ended from outside its contexts, at once where no released effect is pending. -/
def endLaunch (s : State) (l : Launch) (x : Ending) : State := finishLaunch (stopLaunch s l x) l

/-- R322: teams placed at least once. -/
def teamsStarted (l : Launch) : Nat := (l.teams.filter fun t => t.everPlaced).length
/-- R322: teams that have exited. -/
def teamsExited (l : Launch) : Nat := (l.teams.filter fun t => t.status == .exited).length

end Sys2Proof.Machine
end

