-- ==== Sys2Proof/Machine/Matrix.lean ====
section
/-!
DEFINITION. The meanings of the matrix operations (R154 to R163), and of the two steps that the array takes by itself: a
row of a stream (R27) and the end of a weight load (R157).
-/

namespace Sys2Proof.Machine

/-- The acting context's bit of a set of context bits. -/
def hasBit (s : State) (b : BitVec 4) : Bool := b &&& ctxBit (localNo s) != 0

/-- R157, R159: the pre-region check on a write of the shadow plane. -/
def shadowWrite (s : State) (k : Unit → Out) : Out :=
  if hasBit s s.core.preSwap then trapRegion s 4 0x03 0 else k ()

/-- R158: the shadow plane has been written in the current region of every context. -/
def markShadow (c : CoreRec) : CoreRec := { c with shadowRegion := BitVec.allOnes 4 }

/-- R157: a load started: the bytes from tile t are read now. The shadow plane counts as written in the region from now on (R158;
the instant is the model's choice, log entry 27). -/
def startLoad (s : State) (t : Nat) (f : BitVec 4) (sp : BitVec 2) (scaled : Bool) (size : Nat) : State :=
  let p : Plane := ⟨sliceMem (seen (frame s)) (Config.tileBytes * t) size, f, sp, scaled⟩
  modCore s fun c => markShadow { c with load := some ⟨localNo s, p, planeFlags p⟩ }

/-- R157: `mxlw`. -/
def execMxlw (g : BitVec 5) (t : BitVec 7) (f : BitVec 4) (x : BitVec 2) (s : State) : Out :=
  guarded g s fun _ =>
    let op : Instr := .mxlw g t f x
    let h := tileOf (frame s) t.toNat
    let scaled := h.scaled && mayScale f.toNat
    let size := 16 * columnBytes f.toNat x.toNat scaled
    if !tileFull (frame s) t.toNat || s.core.load.isSome then .next (addWait s 4 op)
    else if 8192 < size ∧ t = 95 then trapBounds s 4 0x07 95
    else
      needTiles s 4 op (if 8192 < size then [t.toNat, t.toNat + 1] else [t.toNat]) fun s =>
        shadowWrite s fun _ => .next (startLoad s t.toNat f x scaled size)

/-- R158: the planes exchanged. -/
def swapPlanes (s : State) : State :=
  modCore s fun c =>
    { c with
      active := c.shadowPlane
      shadowPlane := c.active
      fresh := false
      preSwap := if hasBit s c.shadowRegion then c.preSwap else c.preSwap ||| ctxBit (localNo s) }

/-- R158: `mxsw`. -/
def execMxsw (g : BitVec 5) (s : State) : Out :=
  guarded g s fun _ =>
    if !s.core.fresh then .next s
    else if hasBit s s.core.planeRead then trapRegion s 4 0x03 0
    else .next (swapPlanes s)

/-- R159: `mxz`: the plane becomes +0, dense and unscaled, and keeps its format. -/
def execMxz (g : BitVec 5) (s : State) : Out :=
  guarded g s fun _ =>
    shadowWrite s fun _ =>
      .next (modCore s fun c =>
        markShadow { c with shadowPlane := ⟨[], c.shadowPlane.fmt, 0, false⟩, fresh := true })

/-- R160: a stream started: its rows are read now. -/
def startStream (s : State) (rank : Bool) (bank t : Nat) (f : BitVec 4) (scaled : Bool) (rb n : Nat) : State :=
  let data := (List.range n).map (streamRowBytes (frame s) t rb)
  let st : Stream := ⟨localNo s, rank, bank, f, scaled, s.core.active, (frame s).cycle, 0, data⟩
  modCore s fun c => { c with streams := c.streams ++ [st], planeRead := c.planeRead ||| ctxBit (localNo s) }

/-- R163: the plane that `mxrank` needs: dense FP32. -/
def rankPlane (p : Plane) : Bool := p.fmt == 1 && p.sparsity == 0

/-- R160 to R163: a stream of n rows of rb bytes from tile t into a bank of format acc; an empty tile is waited for, and
at the start cycle the plane of a ranking stream, the bank's format and the region rule are checked. -/
def streamInto (s : State) (op : Instr) (rank : Bool) (b : BitVec 4) (t : Nat) (f : BitVec 4) (acc : AccFmt) (scaled : Bool)
    (rb n : Nat) : Out :=
  let ts := streamTiles t n rb
  if 95 < ts.getLastD t then trapBounds s 4 0x08 (BitVec.ofNat 64 (ts.getLastD t))
  else
    needTiles s 4 op ts fun s =>
      if rank && !rankPlane s.core.active then trapIllegal s 4 0x08 0
      else if tagOf s.core (bankOf s b) != acc then trapIllegal s 4 0x09 b.toNat
      else
        bankSound s 4 b fun _ =>
          bankWrites s 4 true b (List.range n) fun s => .next (startStream s rank (bankOf s b) t f scaled rb n)

/-- R162: `mxs`. -/
def execMxs (g : BitVec 5) (b : BitVec 4) (t : BitVec 7) (f : BitVec 4) (r : BitVec 6) (s : State) : Out :=
  guarded g s fun _ =>
    let op : Instr := .mxs g b t f r
    let h := tileOf (frame s) t.toNat
    if !tileFull (frame s) t.toNat then .next (addWait s 4 op)
    else
      match pairing s.core.active.fmt.toNat f.toNat (s.core.active.scaled || h.scaled) with
      | none => trapIllegal s 4 0x08 0
      | some p =>
        let k := streamK p.2 s.core.active.sparsity.toNat
        streamInto s op false b t.toNat f p.1 h.scaled (rowBytesOf f.toNat k h.scaled) (r.toNat + 1)

/-- R163: `mxrank`. -/
def execMxrank (g : BitVec 5) (b : BitVec 4) (t : BitVec 7) (r : BitVec 6) (s : State) : Out :=
  guarded g s fun _ =>
    let op : Instr := .mxrank g b t r
    if !tileFull (frame s) t.toNat then .next (addWait s 4 op)
    else streamInto s op true b t.toNat 1 .i32 false 256 (r.toNat + 1)

/-- R27: a stream's next row is written at its cycle. -/
def execAccumulatorRowUpdate (core : Nat) (s : State) : Out :=
  match coreOf s core with
  | some c => .next (if rowDue c then modCoreId s core rowUpdate else s)
  | none => .next s

/-- R157: a load ends: the shadow plane takes its weights and record, and the flags of R156 are raised. -/
def finishLoad (c : CoreRec) : CoreRec :=
  match c.load with
  | none => c
  | some l => raiseIn { c with shadowPlane := l.plane, fresh := true, load := none } l.ctx l.flags

/-- R157: a background load completes. -/
def execWeightLoadComplete (core : Nat) (s : State) : Out := .next (modCoreId s core finishLoad)

end Sys2Proof.Machine
end

