-- ==== Sys2Proof/Machine/Issue.lean ====
section
/-!
DEFINITION. Issue of a bundle: its fetch (R21), its decode errors and conflicts (R24, R62, R63, R99), the conditions under
which a context issues (R25 to R31, R160, R190, R199), its slots run on the state before it (R23) with one trap at most
(R363), and its retirement (R94, R98, R100); the cycles of a core (R17) with its watchdogs (R372); and the turns of the schedule.
What a slot operation does is the argument `run`.
-/

namespace Sys2Proof.Machine

/-! ## Fetch and decode -/

/-- The 32 bytes of a bundle of the acting team's code. -/
def bundleBytes (s : State) (index : Nat) : List Byte := (teamOf s).elim [] fun t => readBytes t.code (32 * index) 32

/-- A decode trap: slot, detail and operand. -/
abbrev DecodeTrap := Nat × Nat × BitVec 64

/-- R20: the operand of an illegal special-register access. -/
def specialOperand (r : Regs) (word : Nat) : BitVec 64 :=
  match rowOf 1 word with
  | some (.wrsr _ a _) => r.s[a.toNat]
  | _ => 0

/-- R365: a slot's decode error as a trap. -/
def decodeTrap (r : Regs) (slot word : Nat) : DecodeError → DecodeTrap
  | .unassigned op => (slot, 0x01 + 256 * op, 0)
  | .reserved hi lo => (slot, 0x02 + 256 * (hi * 256 + lo), 0)
  | .field pos => (slot, 0x03 + 256 * pos, 0)
  | .tileRange pos => (slot, 0x06 + 256 * pos, 0)
  | .special n reason => (slot, 0x10 + 256 * n + 65536 * reason, specialOperand r word)

/-- R98: the operations that make a checkpoint bundle. -/
def isCheckpointOp : Instr → Bool
  | .chkpt | .bar | .sstep | .wait _ | .exit => true
  | _ => false

/-- R16, R24, R99: the errors of a slot that depend on more than its word. They come after every error of the word, which is the
model's choice between errors of one kind (log entry 115). -/
def slotError (share slot : Nat) (ckpt : Bool) (i : Instr) : Option DecodeTrap :=
  match bankField i with
  | some (b, pos) => if share ≤ b.toNat then some (slot, 0x06 + 256 * pos, 0) else none
  | none => if slot = 7 ∧ needsCheckpoint i ∧ !ckpt then some (7, 0x0B, 0) else none

/-- R63: the operations of a bundle's slots from `slot` on, or the first error; in a slot the error of its word before those of
`slotError` (log entry 115). -/
def decodeSlots (r : Regs) (share : Nat) : Bool → Nat → List Nat → Except DecodeTrap (List Instr)
  | _, _, [] => .ok []
  | ckpt, slot, w :: rest =>
    match decodeSlot slot w with
    | .error e => .error (decodeTrap r slot w e)
    | .ok i =>
      let c := ckpt || (slot == 0 && isCheckpointOp i)
      match slotError share slot c i with
      | some e => .error e
      | none => (decodeSlots r share c (slot + 1) rest).map fun l => i :: l

/-- R24: the first register or tile that two slots write. -/
def commonWrite (ckpt : Bool) (shape : BitVec 3 → BitVec 65) (lo hi : Instr) : Option ClassReg :=
  let both := (writesAt ckpt shape lo).filter fun x => (writesAt ckpt shape hi).contains x && x != (1, 0)
  (List.range 12).findSome? fun k => both.find? fun x => x.1 == k

/-- R24: the conflict of a pair of slots. -/
def pairConflict (ckpt : Bool) (shape : BitVec 3 → BitVec 65) (ops : List Instr) (lo hi : Nat) : Option DecodeTrap :=
  let a := ops.getD lo .nop
  let b := ops.getD hi .nop
  match commonWrite ckpt shape a b with
  | some x => some (hi, 0x04 + 256 * (x.1 * 256 + x.2), BitVec.ofNat 64 lo)
  | none =>
    if lo = 4 ∧ hi = 5 then
      match bankField a, bankField b with
      | some x, some y => if x.1 = y.1 then some (5, 0x05 + 256 * x.1.toNat, 4) else none
      | _, _ => none
    else none

/-- R24: the pairs of slots, by increasing higher and then lower slot. -/
def slotPairs : List (Nat × Nat) := (List.range 8).flatMap fun hi => (List.range hi).map fun lo => (lo, hi)

/-- The bundle that the acting context issues next, or its decode trap. -/
def decodeBundle (s : State) : Except DecodeTrap (List Instr) :=
  let r := (curCtx s).live
  match decodeSlots r (bankShare (contextsPer s)) false 0 (bundleWords (bundleBytes s r.pc.toNat)) with
  | .error e => .error e
  | .ok ops =>
    let ckpt := isCheckpointOp (ops.headD .nop)
    match slotPairs.findSome? fun p => pairConflict ckpt (getG s) ops p.1 p.2 with
    | some e => .error e
    | none => .ok ops

/-! ## When a context issues -/

/-- R22, R65: a slot's guard, or the predicate of a branch, holds. -/
def slotActive (s : State) (i : Instr) : Bool :=
  match i with
  | .br p c _ | .brp p c _ | .brx p c _ _ | .call p c _ | .ret p c | .lbrk p c _ => predOn s p c
  | i => (guardField i).elim true (guardOn s)

/-- A register of a class that may be pending. -/
def pendable (x : ClassReg) : Option RegName :=
  if x.1 = 0 then some (.s x.2) else if x.1 = 3 then some (.m x.2) else if x.1 = 9 then some (.y x.2) else none

/-- R25, R190: the registers that a slot reads or writes and that may be pending. -/
def touches (s : State) (i : Instr) : List RegName := readsOf i ++ (writesAt true (getG s) i).filterMap pendable

/-- R25, R190: a slot names a pending register. -/
def namesPending (s : State) (ops : List Instr) : Bool :=
  ops.any fun i => (touches s i).any fun r => (regs s).pending.contains r

/-- R198: the operation would adopt an orphan of the context. -/
def mayAdopt (s : State) (i : Instr) : Bool := (adoptable s i (regCapture s i)).isSome

/-- R194: a scratchpad atomic. -/
def isAtomic : Instr → Bool
  | .tatom .. => true
  | _ => false

/-- R25, R193, R196: the commands that the bundle would issue. -/
def commandsOf (s : State) (ops : List Instr) : Nat :=
  (ops.filter fun i => isAtomic i || ((tokenOf i).isSome && !mayAdopt s i)).length

/-- R100, R195: outside a checkpoint bundle these operations would place a 65th entry in the acting context's withholding
buffer: the issue that does so is a region overflow, whatever is in flight. -/
def overfills (s : State) (ckpt : Bool) (ops : List Instr) : Bool :=
  !ckpt && decide (Config.withholding <
    heldEntries (curCtx s) + (ops.filter fun i => isAtomic i || kindOf i == .withheld).length)

/-- A stream operation. -/
def isStream : Instr → Bool
  | .mxs .. | .mxrank .. => true
  | _ => false

/-- An operation on the shadow plane. -/
def isPlaneOp : Instr → Bool
  | .mxlw .. | .mxsw _ | .mxz _ => true
  | _ => false

/-- R160: an earlier stream has rows still to read, or a stream slot waits. -/
def arrayBusy (c : CoreRec) : Bool :=
  c.streams.any (fun st => decide (c.cycle < st.start + st.row + st.data.length)) ||
    c.ctxs.toList.any fun x => x.waiting.any fun w => isStream w.op

/-- R157, R160: the matrix array holds the bundle. -/
def arrayHolds (s : State) (ops : List Instr) : Bool :=
  ops.any fun i => (isStream i && arrayBusy s.core) || (isPlaneOp i && s.core.load.isSome)

/-- R199: a context that was rolled back waits for its streams and for any weight load. -/
def drained (s : State) : Bool :=
  !(curCtx s).draining || (s.core.load.isNone && !(s.core.streams.any fun st => st.ctx == localNo s))

/-- R332: a context stands at a checkpoint. -/
def standsAtCheckpoint (c : Ctx) : Bool := c.ended || (c.atCheckpoint && c.waiting.isEmpty && c.closing.isNone)

/-- The acting team's contexts may issue: it is placed, and a stop has not stopped this one (R332). -/
def mayRun (s : State) : Bool :=
  match teamOf s with
  | some t => t.status == .placed || (t.status == .stopping && !standsAtCheckpoint (curCtx s))
  | none => false

/-- The acting context stands before a bundle: nothing of the last one waits (R29, R30). -/
def betweenBundles (s : State) : Bool :=
  let c := curCtx s
  c.status == .running && c.waiting.isEmpty && c.closing.isNone && c.live.pendingWait.isNone

/-- R25 to R31: the acting context issues its next bundle. -/
def ctxReady (s : State) : Bool :=
  betweenBundles s && mayRun s && drained s &&
    match decodeBundle s with
    | .error _ => true
    | .ok ops =>
      let on := ops.filter (slotActive s)
      !namesPending s on && !arrayHolds s on &&
        (decide (inFlight s s.core.id + commandsOf s on ≤ Config.inFlight) ||
          overfills s (isCheckpointOp (ops.headD .nop)) on)

/-- The state with a context of the acting core as the acting one. -/
def atCtx (s : State) (x : Fin 4) : State := { s with core := { s.core with cur := x } }

/-- R30: a context cannot issue its next bundle because of a full queue, the commands in flight or a pending token. -/
def blocked (s : State) : Bool :=
  match decodeBundle s with
  | .error _ => false
  | .ok ops =>
    let on := ops.filter (slotActive s)
    namesPending s on || arrayHolds s on ||
      (decide (Config.inFlight < inFlight s s.core.id + commandsOf s on) && !overfills s (isCheckpointOp (ops.headD .nop)) on)

/-- R30, R177, R182: a checkpoint bundle holds its context for a cause of R30: its SEQ slot is no `chkpt`, or a full-bit change
waits for a landing as a tile-waiting slot does. A `chkpt` that waits for resolutions (R208) is none. -/
def closeMoves (s : State) : Bool :=
  match (curCtx s).closing with
  | none => false
  | some (k, _) => k != .chkpt || !fullBitsReady s

/-- R30: the causes for which issue leaves the acting context: a stop or an end, a slot that waits, a wait at a checkpoint
operation, or a full queue or a pending token of its next bundle. A context that drains after a rollback (R199) or waits for
resolutions (R208) keeps the core (log entry 118). -/
def issueMoves (s : State) : Bool :=
  let c := curCtx s
  c.status != .running || !mayRun s || !c.waiting.isEmpty || c.live.pendingWait.isSome || closeMoves s ||
    (c.closing.isNone && drained s && blocked s)

/-- R31: the contexts after the acting one, in the order in which issue takes them, and itself last. -/
def issueOrder (s : State) : List (Fin 4) := ([1, 2, 3, 0] : List (Fin 4)).map (s.core.cur + ·)

/-- R30, R31: issue leaves the acting context, at this cycle or since an earlier one in which no context was ready. -/
def issueLeaves (s : State) : Bool := s.core.yielded || issueMoves s

/-- R30, R31: the context of the acting core that issues. -/
def chosen (s : State) : Option (Fin 4) :=
  if issueLeaves s then (issueOrder s).find? fun x => ctxReady (atCtx s x)
  else if ctxReady s then some s.core.cur
  else none

/-! ## The slots of a bundle -/

/-- The frame of the bundle (R23). -/
def openIssue (s : State) (ops : List Instr) : State :=
  let on := ops.zipIdx.filter fun p => slotActive s p.1
  let reads := on.flatMap fun p => (tileReads s p.1).map fun t => (p.2, t)
  { s with issue := some ⟨s.core, (curCtx s).live.pc, isCheckpointOp (ops.headD .nop), reads, false⟩ }

/-- The trap that the acting context has just taken. -/
def trapTaken (s : State) : Option TrapRecord := (curCtx s).trap

/-- Slots 1 to 7 run in order, up to the first that traps or stops. -/
def runSlots (run : Instr → State → Out) : List Instr → State → Out
  | [], s => .next s
  | i :: r, s =>
    match run i s with
    | .next t => if (trapTaken t).isSome then .next t else runSlots run r t
    | o => o

/-- The bundle's SEQ slot has set the program counter. -/
def pcIsSet (s : State) : Bool := s.issue.elim false (·.pcSet)

/-- The SEQ slot, and the fall to the next bundle when it transfers nowhere (R90). -/
def runSeq (run : Instr → State → Out) (i : Instr) (s : State) : Out :=
  match run i s with
  | .next t => .next (if (trapTaken t).isSome || pcIsSet t then t else advance t)
  | o => o

/-- The end of a bundle whose slots took no trap. A bundle with a slot that waits has not retired, and is not counted yet
(R100). -/
def retireBundle (s : State) : State :=
  let s1 := pulseActing s
  if inCheckpoint s || !(curCtx s1).waiting.isEmpty then s1 else countRegion s1 (ownIndex s1)

/-- R363: the trap of a record taken from the state before the bundle. -/
def retake (s : State) (r : TrapRecord) : State :=
  takeTrapAt s r.cls.toNat r.slot.toNat r.bundle.toNat r.detail.toNat r.operand

/-- R270, R363: a forecast miss is taken when `mark` retires, after the other slots; every other trap is taken before any
slot has effect. -/
def settleTrap (before after : State) (r : TrapRecord) : State := if r.cls = 0x08 then after else retake before r

/-- R90: the SEQ operations that transfer. -/
def transfers : Instr → Bool
  | .br .. | .brp .. | .brx .. | .call .. | .ret .. | .bktj .. => true
  | _ => false

/-- R90: the SEQ slot's trap comes of the bundle's retirement, which a bundle that traps at issue does not reach. That the traps of
`lbody` itself are none of these is the model's choice (log entry 8). -/
def atRetirement (seq : Instr) (q : TrapRecord) : Bool := q.cls == 0x08 || (q.cls == 0x06 && q.detail == 0x02 && !transfers seq)

/-- R363: of a trap of slots 1 to 7 and one of the SEQ slot, the lower slot's. -/
def lowerTrap (run : Instr → State → Out) (seq : Instr) (s : State) (r : TrapRecord) : TrapRecord :=
  match run seq s with
  | .next t =>
    match trapTaken t with
    | some q => if atRetirement seq q then r else q
    | none => r
  | _ => r

/-- The bundle's end: the frame goes, and the cycle of the core passes. -/
def closeIssue (s : State) : State := { s with issue := none }

/-- A bundle issued whole: slots 1 to 7, then the SEQ slot, then retirement. -/
def issueOps (run : Instr → State → Out) (ops : List Instr) (s : State) : Out :=
  let before := openIssue s ops
  match runSlots run (ops.drop 1) before with
  | .next t =>
    match trapTaken t with
    | some r => .next (retake s (lowerTrap run (ops.headD .nop) before r))
    | none =>
      match runSeq run (ops.headD .nop) t with
      | .next u =>
        match trapTaken u with
        | some r => .next (closeIssue (settleTrap s u r))
        | none => .next (closeIssue (retireBundle u))
      | o => o
  | o => o

/-- n cycles of a core pass: the silence of its contexts (R372) and the grace of a stop (R332). -/
def tickCtx (n : Nat) (placed stopping : Bool) (c : Ctx) : Ctx :=
  { c with silence := if placed && c.status == .running then c.silence + n else c.silence
           grace := if stopping then c.grace + n else c.grace }

/-- A context that stalls at a `mark` (R270). -/
def stalled (c : Ctx) : Bool := c.waiting.any fun w => match w.op with | .mark .. => true | _ => false

/-- R273: n cycles of the acting core's contexts stalled on misses. -/
def countStalls (n : Nat) (s : State) : State :=
  let k := (s.core.ctxs.toList.filter stalled).length
  if k = 0 then s else modCounters s s.core.launch fun f => { f with stallCycles := satAdd f.stallCycles (n * k) }

/-- R372: a context fires. -/
def fire (k : Nat) (s : State) : State :=
  takeTrapAt s 0x0A 0xFF (curCtx s).shadow.pc.toNat (0x01 + 256 * k) 0

/-- R372: the silence counter of a context has reached 2^k. -/
def silent (s : State) (c : CoreRec) (x : Ctx) : Option Nat :=
  match launchBy s c.launch with
  | none => none
  | some l => if x.status == .running && c.place.isSome && decide (2 ^ l.watchdog ≤ x.silence) then some l.watchdog else none

/-- R372: the watchdog of a context of the acting core. -/
def fireSilent (s : State) (x : Fin 4) : State :=
  match silent s s.core s.core.ctxs[x] with
  | some k => withActing s s.core.id x (fire k)
  | none => s

/-- R17, R273, R372: n cycles of the acting core counted, and with them its cluster's clock. -/
def countCycles (n : Nat) (s : State) : State :=
  let st := (teamOf s).elim .unstarted (·.status)
  let t := modCore (countStalls n s) fun c =>
    { c with cycle := c.cycle + n, ctxs := c.ctxs.map (tickCtx n (c.place.isSome) (st == .stopping)) }
  match s.core.place with
  | some p => { t with clocks := t.clocks.setIfInBounds (p / 28) (Nat.max (t.clocks.getD (p / 28) 0) (t.core.cycle - 1)) }
  | none => t

/-- n cycles of the acting core pass; a context that has been silent too long fires (R372). -/
def passCycles (n : Nat) (s : State) : State := ([0, 1, 2, 3] : List (Fin 4)).foldl fireSilent (countCycles n s)

/-- One cycle of the acting core. -/
def tick (s : State) : State := passCycles 1 s

/-- R17: the cycles by which the acting core is behind the clock of its cluster. -/
def cyclesBehind (s : State) : Nat := (s.core.place.elim 0 fun p => s.clocks.getD (p / 28) 0) - s.core.cycle

/-- R17: the acting core brought to the present of its cluster: in the cycles that the cluster's other cores have gone ahead it
has issued nothing. -/
def catchUp (s : State) : State :=
  if cyclesBehind s = 0 then s else passCycles (cyclesBehind s) (modCore s fun c => { c with yielded := issueLeaves s })

/-- R27: every row that is due written. -/
def dueRows (c : CoreRec) : CoreRec := rowUpdates (c.streams.map (·.data.length)).sum c

/-- R26, R201: the late loads of the acting context that come before the bundle performed. -/
def loadsBefore (s : State) (ops : List Instr) : State :=
  let on := ops.filter (slotActive s)
  let names := on.flatMap (touches s)
  let scalars := names.filterMap fun r => match r with | .s n => some n | _ => none
  let tiles := on.flatMap fun i =>
    tileReads s i ++ (writesAt false (getG s) i).filterMap fun x => if x.1 = 11 then some x.2 else none
  let p := precedes scalars tiles (on.any usesVectors) (isCheckpointOp (ops.headD .nop))
  modCore s (performLoads (localNo s) p)

/-- The acting context's next bundle, issued. -/
def issueBundle (run : Instr → State → Out) (s : State) : Out :=
  let s1 := modCtx (modCore s fun c => { c with yielded := false }) fun c => { c with draining := false, atCheckpoint := false }
  match decodeBundle s with
  | .error e => .next (takeTrapAt s1 0x01 e.1 (ownIndex s) e.2.1 e.2.2)
  | .ok ops => issueOps run ops (loadsBefore s1 ops)

/-- A cycle of the acting core in which nothing issues: where issue has left its context, it goes on elsewhere (R30, R31). -/
def idleCycle (s : State) : State :=
  let s1 := modCore s dueRows
  tick (modCore s1 fun c => { c with yielded := issueLeaves s1 })

/-- One cycle of the acting core: due rows (R27), then a bundle of the context that issue takes (R30, R31). When none is ready
and issue has left its context, it goes on with the first that becomes ready. -/
def coreCycle (run : Instr → State → Out) (s : State) : Out :=
  let s1 := modCore (catchUp s) dueRows
  match chosen s1 with
  | none => .next (idleCycle (catchUp s))
  | some x =>
    match issueBundle run (atCtx s1 x) with
    | .next t => .next (tick t)
    | o => o

/-- n such cycles. -/
def idleCycles : Nat → State → State
  | 0, s => s
  | n + 1, s => idleCycles n (idleCycle s)

/-! ## The next step of the package -/

/-- A step of a core that holds a team, the acting core again afterwards or not as the schedule says. -/
def runTurn (run : Instr → State → Out) (core : Nat) (s : State) : Out := coreCycle run (focus s core)

/-- R33: a register parity error in a context: it goes back to its checkpoint, and the core counts it (R375). -/
def parityError (s : State) (core : Nat) (ctx : Fin 4) : State :=
  let s1 := withActing s core ctx fun t => if (curCtx t).status = .running then rollback t else t
  match (coreOf s core).bind (·.place) with
  | some p => { s1 with parity := s1.parity ++ [(p, s.micros)] }
  | none => s1

/-- R371: the bad location named by where the bytes are stored: a chunk that a version shares by the version whose draft wrote it
(R307). -/
def homeOfBad (s : State) (loc : BadLoc) : BadLoc :=
  match loc with
  | .tier k v c => .tier k (((objAt s k).bind fun o => (o.versions.find? fun x => x.num == v).map fun x => originOf o x c).getD v) c
  | x => x

/-- R375: the physical core in whose tiles or banks a location lies. -/
def physOfBad (s : State) (loc : BadLoc) : Option Nat :=
  match loc with
  | .tile core _ | .bank core _ => (coreOf s core).bind (·.place)
  | _ => none

/-- R371: an uncorrectable error; in a shadow copy it traps its context at once (R370). -/
def spoilLoc (s : State) (loc : BadLoc) : State :=
  let b := homeOfBad s loc
  let s1 := { s with
    bad := if s.bad.contains b then s.bad else s.bad ++ [b]
    spoiled := (physOfBad s loc).elim s.spoiled fun p => if s.spoiled.contains p then s.spoiled else s.spoiled ++ [p] }
  match loc with
  | .shadow core x =>
    if h : x < 4 then
      withActing s1 core ⟨x, h⟩ fun t => if (curCtx t).status = .running then takeTrap t 0x09 0xFF 0x05 0 else t
    else s1
  | _ => s1

/-- The host writes its own memory (R348). -/
def writeHost (s : State) (part addr : Nat) (bytes : List Byte) : State :=
  modPartition s part fun p => { p with hostMem := writeBytes p.hostMem addr bytes }

/-- R348: the host sets the address ranges (address, length) that its IOMMU rejects for a partition. -/
def setRejected (s : State) (part : Nat) (ranges : List (Nat × Nat)) : State :=
  modPartition s part fun p => { p with rejected := ranges }

/-- R201: the writes of other contexts reach a context late from now on; or those that have not reached it do. -/
def setLag (core ctx : Nat) (on : Bool) (s : State) : State :=
  modCoreId s core fun c =>
    let d := modCtxIn c ctx fun x => { x with lags := on }
    if on then d else makeSeen (fun u => u.reader == ctx) d

/-- R201: the oldest write to the aligned 8 bytes that has not reached the context does. -/
def reachWrite (core ctx word : Nat) (s : State) : State :=
  modCoreId s core fun c =>
    { c with unseen := c.unseen.eraseP fun u => u.reader == ctx && u.word == word }

/-- R201: the loads of a context are performed late from now on; or those that are outstanding are performed. -/
def setDefer (core ctx : Nat) (on : Bool) (s : State) : State :=
  modCoreId s core fun c =>
    let d := modCtxIn c ctx fun x => { x with defers := on }
    if on then d else performLoads ctx (fun _ => true) d

/-- R201: the oldest late load of a context performed. -/
def loadNow (core ctx : Nat) (s : State) : State :=
  modCoreId s core fun c =>
    match (c.ctxs.getD ctx Reset.ctx).loads with
    | [] => c
    | l :: r => modCtxIn (performLoad ctx l c) ctx fun d => { d with loads := r }

/-- A step of an engine, of Rilsia, of the host or of the network; a slot operation issues only in a bundle. -/
def runEvent (run : Instr → State → Out) (i : Instr) (s : State) : Out := if (slotOf i).isSome then .next s else run i s

/-- A turn of the schedule. -/
def runTurnOf (run : Instr → State → Out) (t : Turn) (s : State) : Out :=
  match t with
  | .run core => runTurn run core s
  | .idle core n => .next (idleCycles n (focus s core))
  | .event i => runEvent run i s
  | .hostWrite p a bs => .next (writeHost s p a bs)
  | .iommu p rs => .next (setRejected s p rs)
  | .parity core ctx => .next (if h : ctx < 4 then parityError s core ⟨ctx, h⟩ else s)
  | .spoil loc => .next (spoilLoc s loc)
  | .correct kind => .next { s with corrected := s.corrected.modify kind (· + 1) }
  | .lag core ctx on => .next (setLag core ctx on s)
  | .reach core ctx word => .next (reachWrite core ctx word s)
  | .defer core ctx on => .next (setDefer core ctx on s)
  | .load core ctx => .next (loadNow core ctx s)

/-- The cores that hold a team and have a context ready, the acting one first. -/
def readyCore (s : State) : Option Nat :=
  ((allCores s).find? fun c => (chosen (modCore (catchUp (focus s c.id)) dueRows)).isSome).map (·.id)

/-- The events that a command may be waiting for. -/
def cmdEvents (c : Cmd) : List Instr :=
  if c.done then []
  else
    [.handleResolution c.id, .tileLanding c.id, .elementAtomic c.id, .publishStep c.id, .xsendAdmission c.id, .descent c.id,
      .routingStep c.id, .txferCompletion c.id, .commandCompletion c.id]

/-- The events that a core and its contexts may be waiting for. -/
def coreEvents (c : CoreRec) : List Instr :=
  (List.range 4).flatMap (fun x =>
      ((c.ctxs.getD x Reset.ctx).waiting.map fun w => Instr.emptyTileWaitRetire c.id x w.slot) ++
        [.markStallRetire c.id x, .barrierSatisfied c.id x, .superstepSatisfied c.id x, .waitSatisfied c.id x]) ++
    [.weightLoadComplete c.id]

/-- What Rilsia may do for the contexts of a core that await it (R366). -/
def trapEvents (c : CoreRec) : List Instr :=
  (List.range 4).flatMap fun x =>
    match (c.ctxs.getD x Reset.ctx).trap with
    | some r =>
      if r.cls = 0x07 then [.missingObjectResolution (handleKey r.operand)]
      else if r.cls = 0x08 then [.forecastMissResolution c.id x] else []
    | none => []

/-- The events that stand to occur when no core can issue. -/
def pendingEvents (s : State) : List Instr :=
  s.cmds.flatMap cmdEvents ++ (allCores s).flatMap coreEvents ++ (s.actions.map fun a => Instr.forecastAction a.id) ++
    (s.moves.map fun m => Instr.tierPageSwitch m.id) ++
    (s.shoots.flatMap fun x => x.clusters.map fun k => Instr.shootdownAcknowledge x.id k) ++ (allCores s).flatMap trapEvents ++
    s.launches.map fun l => Instr.launchTermination l.id

/-- The first event that changes the state. -/
def firstChange (run : Instr → State → Out) (s : State) : List Instr → Option Out
  | [] => none
  | i :: r =>
    match run i s with
    | .next t => if t = s then firstChange run s r else some (.next t)
    | o => some o

/-- What happens when the schedule says nothing: a core that can issue does, the acting one first; otherwise an event that
stands to occur; otherwise a cycle passes. -/
def ownStep (run : Instr → State → Out) (s : State) : Out :=
  match readyCore s with
  | some id => runTurn run id s
  | none => (firstChange run s (pendingEvents s)).getD (.next (idleCycles 1 s))

/-- One step of the package. -/
def stepWith (run : Instr → State → Out) (s : State) : Out :=
  match s.schedule with
  | [] => ownStep run s
  | t :: r => runTurnOf run t { s with schedule := r }

/-! ## A program placed from outside (log entry 5) -/

/-- The bundle that holds one slot word: the word in its slot, and `chkpt` beside a command that must stand in a checkpoint
bundle (R99). -/
def bundleFor (w : Nat) : List Byte :=
  let slot := (slotFor w).getD 0
  let seq := match decodeSlot slot w with
    | .ok i => if slot = 7 ∧ needsCheckpoint i then encodeNat .chkpt else 0
    | .error _ => 0
  (List.range 8).flatMap fun k => bytesOfWord (if k = slot then w else if k = 0 then seq else 0)

/-- The code of a test launch: a bundle that holds the word, then `exit`. -/
def codeFor (w : Nat) : Mem := cellsOf 0 (bundleFor w ++ bytesOfWord (encodeNat .exit))

/-- A team of one context on the first core of cluster 0, placed with its code. -/
def testTeam (code : Mem) : Team where
  index := 0
  status := .placed
  place := some ⟨0, [0], [[0]]⟩
  code := code
  marker := 0
  eta := 0xFFFFFFFF
  pass := 0
  armed := []
  counters := []
  sticky := []
  placedAt := 0
  waitSince := 0
  lastMark := 0
  drainUntil := none
  arrivals := []
  everPlaced := true
  swapStart := 0
  swapTime := 0
  image := none
  marks := none

/-- A launch of that team, with the values that R81 and R323 give where a record names none. -/
def testLaunch (id : Nat) (code : Mem) : Launch where
  id := id
  stream := 0
  tag := 0
  partition := 0
  rows := 1
  cols := 1
  contexts := 1
  code := code
  bundles := 2
  relocs := []
  grid := 1
  math := Config.mathVersion
  repro := false
  lchk := false
  policy := 2
  killable := false
  cls := 0
  tokens := 0
  maxregion := 4096
  seed := 0
  slice := 2000
  drain := 500
  watchdog := 36
  handles := []
  scalars := []
  shapes := []
  buckets := []
  binding := none
  fc := ⟨0, 0, 0, 0, 0, 0, 0, 0, 0, 0, 0, 0⟩
  teams := [testTeam code]
  counters := [0, 0, 0, 0]
  firstTrap := none
  laterTraps := 0
  ending := none
  ended := false

/-- The core of that team, its context 0 at bundle 0. -/
def testCore (id launch : Nat) : CoreRec :=
  { Reset.core with
    id := id, launch := launch, place := some 0
    ctxs := Reset.core.ctxs.set 0 { Reset.ctx with status := .running } }

/-- A state whose next step issues a bundle that holds the word. -/
def placeWord (s : State) (w : Nat) : State :=
  { s with
    core := testCore s.nextId (s.nextId + 1)
    parked := if s.core.place.isSome then s.core :: s.parked else s.parked
    launches := s.launches ++ [testLaunch (s.nextId + 1) (codeFor w)]
    nextId := s.nextId + 2
    issue := none
    schedule := [] }

end Sys2Proof.Machine
end

