-- ==== Sys2Proof/Machine/Faults.lean ====
section
/-!
DEFINITION. Faults and their repair: presence made again and contexts resumed (R305, R306, R366, R368), uncorrectable data
(R370, R371), the end of a launch after a trap (R367), shootdowns (R373), defects (R374, R375), the watchdog (R372), and the
switches of spills and migrations (R306, R396).
-/

namespace Sys2Proof.Machine

/-! ## Contexts that await an object (R368) -/

/-- The context awaits this object, and what it waits for is over: a shard present, or the object gone. -/
def mayResume (s : State) (k : ObjKey) (cluster : Option Nat) (c : Ctx) : Bool :=
  c.status == .awaiting && c.trap.elim false fun r =>
    r.cls == 0x07 && handleKey r.operand == k &&
      match resolveHandle s r.operand with
      | .error _ => true
      | .ok o => absentCause s o (r.detail.toNat / 256) (viewOf o c).1 cluster == 0

/-- R366: a context resumed. -/
def resumed (c : Ctx) : Ctx := { c with status := .running, trap := none }

/-- R378: n resolved traps counted by a launch. -/
def countResolvedN (n : Nat) (l : Launch) : Launch := { l with counters := l.counters.modify 3 (· + n) }

/-- R368: every context waiting on a shard that is present resumed, in one step. -/
def resumeAll (s : State) (k : ObjKey) : State :=
  let hit := fun (c : CoreRec) => mayResume s k (coreCluster c)
  let n := fun (launch : Nat) => (((allCores s).filter fun c => c.launch == launch).map fun c => (c.ctxs.toList.filter (hit c)).length).sum
  let s1 := modAllCores s fun c => { c with ctxs := c.ctxs.map fun x => if hit c x then resumed x else x }
  { s1 with launches := s1.launches.map fun l => countResolvedN (n l.id) l }

/-! ## Presence (R305, R368, R397) -/

/-- R305: a mostly unwritten object of another package: a replica goes to the faulting package, and the object stays. -/
def stays (s : State) (o : Obj) : Bool := o.hint.any (·.unwritten) && o.key.home != s.package

/-- R305: the place of a shard's storage: the hint's package and die, or where the shard map has it. -/
def placeFor (s : State) (o : Obj) (n : Nat) : Nat × Nat :=
  match o.hint with
  | some h => if stays s o then shardHome o n else (h.package, h.die)
  | none => shardHome o n

/-- R219, R305, R397: the far tier is asked for: by an `hres` through the hint, and without a hint by the placement word. -/
def wantsFar (o : Obj) (byRes : Bool) : Bool := match o.hint with | some h => byRes && h.far | none => o.loc.far

/-- R305, R397: room for a shard in the near tier of its place: the quota as it stands for an object with a hint, and with
evictions (R265) for one without (log entry 106). Room on another package is a free value. -/
def nearRoom (s : State) (o : Obj) (n : Nat) (p : Nat × Nat) : Option State :=
  let need := copiesOf o (shardPages o n)
  if p.1 ≠ s.package then if Config.remoteRoom s.drawn then some s else none
  else if o.hint.isSome then if nearUse s o.partition p.2 + need ≤ quotaOf s o.partition p.2 then some s else none
  else roomOn s none o.partition p.2 ((shardPages o n).map fun x => (o.key, x)) need

/-- R2, R397: a shard finds room in the far tier of its place, where it takes that of its spill image. -/
def farFits (s : State) (o : Obj) (n : Nat) (p : Nat × Nat) : Bool :=
  p.1 != s.package || farRoom s (copiesOf o (shardPages o n) - if o.loc.spilled.contains n then spillPages s o n else 0)

/-- R373: old storage of a shard stands until the acknowledgements of its shootdown. -/
def oldStands (s : State) (k : ObjKey) (n : Nat) : Bool :=
  s.shoots.any fun x => x.obj == k && x.shard.all (· == n) && !x.old.isEmpty

/-- R368, R397: a shard's storage allocated or restored at the place that R305 gives; what is restored was last written from the
spill image (R371). With no room in either tier, or while its old storage stands (R373), it stays absent. -/
def placeShard (byRes : Bool) (k : ObjKey) (s : State) (n : Nat) : Option State :=
  (objAt s k).bind fun o =>
    let p := placeFor s o n
    let room := if wantsFar o byRes then none else nearRoom s o n p
    let back := o.loc.spilled.contains n
    if oldStands s k n || (room.isNone && !farFits s o n p) then none
    else (rehome { room.getD s with drawn := s.drawn + 1 } k n p).map fun t => modObj t k fun o =>
      { o with
        loc := { o.loc with materialised := true, spilled := o.loc.spilled.filter (· != n) }
        imaged := if back then o.versions.map (·.num) else o.imaged
        farPages := (o.farPages.filter fun x => pageShard x != n) ++ if room.isSome then [] else shardPages o n }

/-- R368: every shard's storage allocated, or none. -/
def placeAll (s : State) (o : Obj) (byRes : Bool) : Option State :=
  (List.range (shardCount o)).foldl (fun t n => t.bind fun t => placeShard byRes o.key t n) (some s)

/-- R300: replicas of an object on other packages. -/
def replicaCount (o : Obj) : Nat := ((o.replicas.map (·.2)).eraseDups.filter (· < 1024)).length

/-- R300, R305: the replica on the faulting package, where the object may have one more. -/
def addReplica (s : State) (o : Obj) : State :=
  if stays s o && decide (replicaCount o < 7) && !o.replicas.contains (o.current, s.package) then
    modObj s o.key fun o => { o with replicas := o.replicas ++ [(o.current, s.package)] }
  else s

/-- R368: a shard made present, where that is Rilsia's to do; a migration is waited for, and so is a lost link. Storage that was
never allocated is allocated for every shard, a spilled shard is restored by itself. -/
def makePresent (s : State) (o : Obj) (byRes : Bool) (n : Nat) : State :=
  if o.loc.moving then s
  else if !o.loc.materialised then (placeAll s o byRes).elim s fun t => addReplica t o
  else if o.loc.spilled.contains n then (placeShard byRes o.key s n).elim s fun t => addReplica t o
  else if o.loc.lent then modObj s o.key fun o => { o with loc := { o.loc with lent := false }, lentVersion := 0 }
  else s

/-- A command in flight that waits for an object. -/
def cmdAwaits (k : ObjKey) (c : Cmd) : Bool :=
  c.released && c.resolved && c.result.isNone && !c.done && (needsOf c.op).any fun n => handleKey (needHandle c n) == k

/-- A word of a stream's head entry names an object. -/
def entryNames (k : ObjKey) (x : CmdStream) : Bool :=
  (x.entries.head?).elim false fun e => (List.range (e.bytes.length / 8)).any fun i => handleKey (BitVec.ofNat 64 (entryField e (8 * i) 8)) == k

/-- R368: the shards on which contexts wait with a missing-object trap on an object. -/
def faultShards (s : State) (k : ObjKey) : List Nat :=
  (allCtxs s).filterMap fun c =>
    c.trap.bind fun r =>
      if c.status = .awaiting ∧ r.cls = 0x07 ∧ handleKey r.operand = k then some (r.detail.toNat / 256) else none

/-- R208: the shards that commands in flight wait for, an `hres` (R219) or another. -/
def cmdWaits (s : State) (o : Obj) (res : Bool) : List Nat :=
  (s.cmds.filter fun c => cmdAwaits o.key c && (match c.op with | .hres .. => true | _ => false) == res).flatMap fun c => cmdShards c o

/-- R306: a set of the router, a service call or a stream entry names the object. -/
def otherWaits (s : State) (k : ObjKey) : Bool :=
  s.sets.any (fun x => x.queue == k || x.sink == k) || s.calls.any (fun c => c.args.any fun a => handleKey a == k) ||
    s.streams.any (entryNames k)

/-- R306, R368: the first absent shard that something waits for, and whether only an `hres` does. -/
def missingShard (s : State) (o : Obj) : Option (Nat × Bool) :=
  let gone := fun (n : Nat) => absentCause s o n none none != 0
  let others := faultShards s o.key ++ cmdWaits s o false ++ if otherWaits s o.key then List.range (shardCount o) else []
  match others.find? gone with
  | some n => some (n, false)
  | none => ((cmdWaits s o true).find? gone).map fun n => (n, true)

/-- R368: Rilsia makes a shard of an object present and resumes the contexts that wait on it. -/
def execMissingObjectResolution (obj : ObjKey) (s : State) : Out :=
  match objAt s obj with
  | none => .next (resumeAll s obj)
  | some o =>
    match missingShard s o with
    | some (n, byRes) => .next (resumeAll (makePresent s o byRes n) obj)
    | none => .next (resumeAll s obj)

/-! ## Shootdowns (R373) -/

/-- A command in flight that reads an object's storage. -/
def readsStorage (k : ObjKey) (c : Cmd) : Bool :=
  match c.op with
  | .hfet .. | .hgat .. | .hpfl2 .. | .tdesc .. | .hcopy .. => cmdAwaits k c
  | _ => false

/-- A command reads the storage that a shootdown concerns: a shard, or every one. -/
def readsShard (s : State) (k : ObjKey) (shard : Option Nat) (c : Cmd) : Bool :=
  readsStorage k c && shard.all fun n => (objAt s k).any fun o =>
    (if hasRegion c.op then regionShards c o else List.range (shardCount o)).contains n

/-- R373: the shootdown of a shard's storage, or of all of an object's, which stood in s and moves or goes in t. -/
def startShoot (s t : State) (k : ObjKey) (shard : Option Nat) (stands : Bool) : State :=
  sendShoot s t (shootOf k none shard 0 (shardBase 1))
    ((s.cmds.filter (readsShard s k shard)).map fun c => (c.id, (cmdCluster s c).getD 0)) stands

/-- R373: an access of a cluster that uses a removed entry is still in flight; the work of a team that is out counts too. -/
def stillReads (s : State) (x : Shoot) (cluster : Nat) : Bool :=
  s.cmds.any fun c => x.cmds.contains c.id && readsStorage x.obj c && (cmdCluster s c).getD cluster == cluster

/-- R373: a controller removes the entries from its Handle Resolution Unit and its cores' micro-caches, and acknowledges; the last acknowledgement frees the old storage. -/
def execShootdownAcknowledge (shoot cluster : Nat) (s : State) : Out :=
  match s.shoots.find? fun x => x.id == shoot with
  | none => .next s
  | some x =>
    if !x.clusters.contains cluster || stillReads s x cluster then .next s
    else
      let rest := x.clusters.filter fun k => k != cluster
      let hit := shotDown x
      let s1 := modAllCores s fun c => if coreCluster c = some cluster then { c with micro := c.micro.filter fun e => !hit e } else c
      .next { s1 with
        xlats := s.xlats.filter fun e => !(e.cluster == cluster && hit e)
        shoots := if rest.isEmpty then s.shoots.filter fun y => y.id != shoot
          else s.shoots.map fun y => if y.id = shoot then { y with clusters := rest } else y }

/-! ## Spills and migrations (R306, R396) -/

/-- R378, R396: no launch holds a joined draft, a pin or a subscription of an object, and the router holds no draft of it. -/
def unused (s : State) (o : Obj) : Bool :=
  o.draft.isNone && o.subs.isEmpty && !(allCtxs s).any fun c => c.pins.any fun p => p.obj == o.key

/-- R396: an object whose storage may be spilled. -/
def spillable (s : State) (o : Obj) : Bool := unused s o && o.kind != .host && o.loc.materialised && !o.loc.moving && !o.loc.lent

/-- R396: the shards that are not spilled. -/
def residentShards (o : Obj) : List Nat := (List.range (shardCount o)).filter fun n => !o.loc.spilled.contains n

/-- R396: the shard that is spilled next: one whose copy has begun, or one of Rilsia's own choosing. -/
def nextSpill (o : Obj) : Option Nat := (o.spilling ++ residentShards o).head?

/-- R396: the spill switch of a shard, of a spill that the service began or of one of Rilsia's own choosing. -/
def execSpillSwitch (obj : ObjKey) (s : State) : Out :=
  match objAt s obj with
  | none => .next s
  | some o =>
    match nextSpill o with
    | none => .next s
    | some n =>
      if spillable s o && (o.spilling.contains n || farRoom s (spillPages s o n)) then
        let t := modObj s obj fun o =>
          { o with spilling := o.spilling.filter (· != n), loc := { o.loc with spilled := o.loc.spilled ++ [n] } }
        .next (startShoot s t obj (some n) true)
      else .next s

/-- R265, R305: the pages that an object has on a die fit its partition's quota there: as it stands for an object with a hint, and with
evictions for one without (log entry 106). -/
def nearFits (s : State) (o : Obj) (die : Nat) : Option State :=
  if o.hint.isSome then if nearUse s o.partition die ≤ quotaOf s o.partition die then some s else none
  else roomOn s none o.partition die ((objPages o).map fun p => (o.key, p)) 0

/-- R2, R265: an object that has come to a die of this package finds room there, its near pages in the far tier where the near tier has
none. -/
def roomAt (s : State) (k : ObjKey) (die : Nat) : Option State :=
  (objAt s k).bind fun o =>
    if !farRoom s 0 then none
    else (nearFits s o die).orElse fun _ =>
      let t := modObj s k fun o => { o with farPages := objPages o }
      if farRoom t 0 then some t else none

/-- R2, R265, R306: all of an object's storage installed on a package and a die (log entry 107), where there is room for it. -/
def arriveAt (s : State) (o : Obj) (pkg die : Nat) : Option State :=
  ((List.range (shardCount o)).foldl (fun t n => t.bind fun t => rehome t o.key n (pkg, die)) (some s)).bind fun t =>
    let u := modObj t o.key fun o => { o with loc := { o.loc with moving := false } }
    if pkg = s.package then roomAt u o.key die else some u

/-- R306, R373: a migration of an object: at once within the package of all its shards, where there is room, and otherwise up to its
switch. -/
def migrateTo (s : State) (o : Obj) (pkg die : Nat) : Option State :=
  if (List.range (shardCount o)).all fun n => shardPackage o n == pkg then
    (arriveAt s o pkg die).map fun t => startShoot s t o.key none true
  else
    some (startShoot s (modObj s o.key fun o => { o with loc := { o.loc with moving := true, toPackage := pkg, toDie := die } }) o.key
      none false)

/-- R305: an object that Rilsia may choose to migrate: its storage is not where its hint wants it. -/
def misplaced (s : State) (o : Obj) (h : Hint) : Bool :=
  o.loc.materialised && o.loc.spilled.isEmpty && o.spilling.isEmpty && !o.loc.lent && !stays s o && o.kind != .host &&
    !unreachable s h.package && (List.range (shardCount o)).any fun n => shardHome o n != (h.package, h.die)

/-- R305, R306, R373: the switch at the end of a migration, which waits for the acknowledgements of its shootdown and for room; for an
object that is not on its way, the start of a migration of Rilsia's own choosing, as its hint has it. -/
def execMigrationSwitch (obj : ObjKey) (s : State) : Out :=
  match objAt s obj with
  | none => .next s
  | some o =>
    if o.loc.moving then
      if s.shoots.any fun x => x.obj == obj then .next s
      else .next ((arriveAt s o o.loc.toPackage o.loc.toDie).elim s fun t => resumeAll t obj)
    else .next ((o.hint.bind fun h => if misplaced s o h then migrateTo s o h.package h.die else none).getD s)

/-! ## Launches that end (R367) -/

/-- The trap that ends a launch: the first stands. -/
def endBy (r : TrapRecord) (l : Launch) : Launch := if l.firstTrap.isSome then { l with laterTraps := l.laterTraps + 1 } else { l with firstTrap := some r }

/-- R322, R344, R367: how a launch that a trap ends completes. -/
def endingBy (l : Launch) (r : TrapRecord) : Ending :=
  ⟨0x30, r.cls.toNat, teamsStarted l, r.cls.toNat + r.team.toNat % 2 ^ 24 * 2 ^ 8, some r⟩

/-- R367: Rilsia ends a launch after the trap that it has kept; one that has been stopped ends when its released effects have
completed. -/
def execLaunchTermination (launch : Nat) (s : State) : Out :=
  match launchBy s launch with
  | none => .next s
  | some l =>
    if l.ended then .next (finishLaunch s l)
    else .next (l.firstTrap.elim s fun r => endLaunch s l (endingBy l r))

/-! ## Uncorrectable data (R370, R371) -/

/-- The record of an error that no context of the launch has met. -/
def errorRecord (sub : Nat) (operand : BitVec 64) : TrapRecord := ⟨0x09, 0xFF, 0, 0, BitVec.ofNat 32 sub, 0, operand⟩

/-- The first trap of class 0x09 of a launch's contexts that satisfies a condition. -/
def awaitingTrap (s : State) (launch : Nat) (f : TrapRecord → Bool) : Option TrapRecord :=
  (((allCores s).filter fun c => c.launch == launch).flatMap fun c => c.ctxs.toList.filterMap (·.trap)).find? fun r => r.cls == 0x09 && f r

/-- R371: a launch ended with class 0x09. -/
def endForData (s : State) (launch sub : Nat) (operand : BitVec 64) (f : TrapRecord → Bool) : State :=
  modLaunch s launch (endBy ((awaitingTrap s launch f).getD (errorRecord sub operand)))

/-- A record about an object. -/
def trapOn (k : ObjKey) (r : TrapRecord) : Bool := r.detail.toNat % 256 ≤ 2 && handleKey r.operand == k

/-- R366, R371: the contexts that met the bad data of an object resumed. -/
def resumeData (s : State) (k : ObjKey) : State :=
  let hit := fun (c : Ctx) => c.status == .awaiting && c.trap.elim false fun r => r.cls == 0x09 && trapOn k r
  let n := fun (launch : Nat) =>
    (((allCores s).filter fun c => c.launch == launch).map fun c => (c.ctxs.toList.filter hit).length).foldl (· + ·) 0
  let s1 := modAllCores s fun c => { c with ctxs := c.ctxs.map fun x => if hit x then resumed x else x }
  { s1 with launches := s1.launches.map fun l => countResolvedN (n l.id) l }

/-- R371: a chunk with no good copy: lost, and the launches whose contexts met it end. -/
def loseChunk (s : State) (o : Obj) (v chunk : Nat) : State :=
  let s1 := modObj s o.key fun o => { o with lost := if o.lost.contains (v, chunk) then o.lost else o.lost ++ [(v, chunk)] }
  { s1 with launches := s1.launches.map fun l =>
      match awaitingTrap s l.id (trapOn o.key) with | some r => endBy r l | none => l }

/-- The retained versions that hold a chunk which version v's draft wrote (R307). -/
def sharers (o : Obj) (v chunk : Nat) : List Version := o.versions.filter fun x => originOf o x chunk == v

/-- R371: a good copy of a chunk: in a replica of a version that holds it, in a second retained version that shares it, in the spill
image from which it was last written, or with the host. -/
def goodCopy (s : State) (o : Obj) (v chunk : Nat) : Bool :=
  let vs := sharers o v chunk
  vs.any (fun x => o.replicas.any fun r => r.1 == x.num && (decide (1024 ≤ r.2) || !unreachable s r.2)) || decide (2 ≤ vs.length) ||
    vs.any (fun x => o.imaged.contains x.num) || Config.goodCopy s.drawn

/-- R371: a bad location of a published version: rewritten from a good copy, or lost. -/
def repairTier (s : State) (loc : BadLoc) (k : ObjKey) (v chunk : Nat) : State :=
  let clean := { s with bad := s.bad.filter fun b => b != loc, drawn := s.drawn + 1 }
  match objAt s k with
  | none => clean
  | some o =>
    if o.lost.contains (v, chunk) then s
    else if goodCopy s o v chunk then resumeData clean k
    else loseChunk { s with drawn := s.drawn + 1 } o v chunk

/-- R371: bad bytes that only an open draft holds: every launch that has joined it ends, and then the draft goes, its bad bytes with
it. -/
def endDraftUsers (s : State) (loc : BadLoc) (k : ObjKey) (sub : Nat) : State :=
  match objAt s k with
  | none => { s with bad := s.bad.filter fun b => b != loc }
  | some o =>
    match o.draft with
    | none => { s with bad := s.bad.filter fun b => b != loc }
    | some d =>
      let live := fun (n : Nat) => (launchBy s n).elim false (·.live)
      let fresh := d.joined.filter fun n => live n && (launchBy s n).any (·.firstTrap.isNone)
      let s1 := fresh.foldl (fun t n => endForData t n sub (objHandle o) (trapOn k)) s
      if d.joined.any live then s1 else discardDraft s1 o

/-- R371: bad bytes of a core: the launch of the context that met them ends. -/
def endCoreUser (s : State) (loc : BadLoc) (core sub : Nat) : State :=
  match coreOf s core with
  | none => { s with bad := s.bad.filter fun b => b != loc }
  | some c =>
    match awaitingTrap s c.launch fun r => r.detail.toNat % 256 == sub with
    | none => s
    | some r => modLaunch { s with bad := s.bad.filter fun b => b != loc } c.launch (endBy r)

/-- R370, R371: a bad shadow copy: the launch of its context ends, whether or not the context has met it. -/
def endShadowUser (s : State) (loc : BadLoc) (core : Nat) : State :=
  let clean := { s with bad := s.bad.filter fun b => b != loc }
  match coreOf s core with
  | none => clean
  | some c => endForData clean c.launch 5 0 fun r => r.detail.toNat % 256 == 5

/-- R371: Rilsia repairs a bad location, or ends the launches concerned. -/
def repairLoc (s : State) (loc : BadLoc) : State :=
  match loc with
  | .tier k v chunk => repairTier s loc k v chunk
  | .draftChunk k _ => endDraftUsers s loc k 1
  | .dirtyLine k _ => endDraftUsers s loc k 2
  | .tile core _ => endCoreUser s loc core 3
  | .bank core _ => endCoreUser s loc core 4
  | .shadow core _ => endShadowUser s loc core

/-- R371: the location numbered `bad` in the order of detection. -/
def execUncorrectableDataRepair (bad : Nat) (s : State) : Out :=
  match s.bad[bad]? with
  | none => .next s
  | some loc => .next (repairLoc s loc)

/-! ## The Doldrums watchdog (R372) -/

/-- R372: the watchdog of a context. -/
def execDoldrumsWatchdog (core ctx : Nat) (s : State) : Out :=
  if h : ctx < 4 then
    match coreOf s core with
    | none => .next s
    | some c =>
      match silent s c (c.ctxs[ctx]) with
      | none => .next s
      | some k => .next (withActing s core ⟨ctx, h⟩ (fire k))
  else .next s

/-! ## Defects (R374, R375) -/

/-- R374: a core's bit in its cluster's defect word. -/
def defective (s : State) (phys : Nat) : Bool := bitOf (s.defects.getD (phys / 28) 0).toNat (phys % 28) || bitOf (s.defects.getD (phys / 28) 0).toNat 31

/-- R374: a physical core's bit set in its cluster's word. -/
def setDefect (phys : Nat) (v : Vector (BitVec 32) 48) : Vector (BitVec 32) 48 :=
  v.setIfInBounds (phys / 28) (v.getD (phys / 28) 0 ||| BitVec.ofNat 32 (2 ^ (phys % 28)))

/-- R374: a core marked failed, in the words and in the record that the next boot loads. -/
def markFailed (s : State) (phys : Nat) : State :=
  { s with defects := setDefect phys s.defects, recorded := setDefect phys s.recorded }

/-- R375: three register-parity rollbacks within one second. -/
def parityFailed (s : State) (phys : Nat) : Bool :=
  let ts := (s.parity.filter fun p => p.1 == phys).map (·.2)
  ts.any fun t => decide (3 ≤ (ts.filter fun u => decide (t ≤ u) && decide (u ≤ t + 1000000)).length)

/-- The grace of every context of a team counted anew. -/
def resetGrace (s : State) (launch team : Nat) : State :=
  modAllCores s fun c => if c.launch = launch ∧ c.team = team then { c with ctxs := c.ctxs.map fun x => { x with grace := 0 } } else c

/-- R332: a stop requested of a placed team. -/
def requestStop (s : State) (launch team : Nat) : State :=
  resetGrace (modTeamBy s launch team fun t => if t.status == .placed then { t with status := .stopping, drainUntil := none } else t)
    launch team

/-- R375: the team of a failed core stopped as for a swap, or its launch ended. -/
def moveTeam (s : State) (c : CoreRec) (readable : Bool) : State :=
  if readable then requestStop s c.launch c.team
  else endForData s c.launch 5 0 fun _ => false

/-- R375: Rilsia marks a core failed: one that holds no team may fail its self-test. -/
def execCoreFailure (phys : Nat) (readable : Bool) (s : State) : Out :=
  if 1344 ≤ phys || defective s phys then .next s
  else
    match (allCores s).find? fun c => c.place == some phys with
    | none => .next (markFailed s phys)
    | some c => if parityFailed s phys || s.spoiled.contains phys then .next (moveTeam (markFailed s phys) c readable) else .next s

end Sys2Proof.Machine
end

