-- ==== Sys2Proof/Machine/Network.lean ====
section
/-!
DEFINITION. The Zephyr network engine at the receiver and after a send has begun (R231, R232, R352 to R356), the scale-up link and
the packages beyond it (R350, R351), and replicas (R303).
-/

namespace Sys2Proof.Machine

/-! ## Placement at the receiver (R232, R356) -/

/-- R232: bytes placed one by one from an offset upward. -/
def placeBytes (o : Obj) (m : Mem) (off : Nat) (bytes : List Byte) : Mem :=
  bytes.zipIdx.foldl (fun m b => (netAddr o (off + b.2) (shardCount o) 0).elim m fun a => writeByte m a b.1) m

/-- R232: the bytes that pending admits are placed and counted; the rest is dropped with overrun. -/
def receive (s : State) (o : Obj) (off : Nat) (bytes : List Byte) : State :=
  let n := Nat.min bytes.length o.pendingBytes
  let s1 := if n = 0 then s else setDraftBytes s o (placeBytes o (draftBytes s o) off (bytes.take n)) (placedAddrs o off n)
  modObj s1 o.key fun o =>
    { o with pendingBytes := o.pendingBytes - n, counter := o.counter + BitVec.ofNat 32 n
             overrun := o.overrun || decide (n < bytes.length) }

/-- R356: a packet's sequence number accepted and acknowledged. -/
def acceptSeq (s : State) (p : Packet) : State :=
  modConn s p.conn fun c => { c with accepted := c.accepted ++ [p.seq], acks := c.acks + 1 }

/-- R354: a packet dropped without acknowledgement, and counted. -/
def dropPacket (s : State) (p : Packet) : State := modConn s p.conn fun c => { c with dropped := c.dropped + 1 }

/-- R356: a packet for an object. -/
def packetFor (s : State) (p : Packet) (o : Obj) : State :=
  if netExtent o < p.offset + p.payload.length then dropPacket (modObj s o.key fun o => { o with overrun := true }) p
  else receive (acceptSeq s p) o p.offset p.payload

/-- R354: some port sends and receives. -/
def portOpen (s : State) : Bool := !(enabledPorts s).isEmpty

/-- R356: a packet that a port has received: a duplicate is acknowledged again; one that names no registered object and job is
dropped; one for an absent object waits. -/
def takePacket (pkt : Packet) (s : State) : State :=
  if (connBy s pkt.conn).accepted.contains pkt.seq then modConn s pkt.conn fun c => { c with acks := c.acks + 1 }
  else
    match s.receivers.find? fun r => r.resource == pkt.resource && r.job == pkt.job with
    | none => dropPacket s pkt
    | some r =>
      match objAt s r.obj with
      | none => dropPacket s pkt
      | some o => packetFor s pkt o

/-- R208, R303: a shard that a new packet is placed in is absent. -/
def packetWaits (pkt : Packet) (s : State) : Bool :=
  !(connBy s pkt.conn).accepted.contains pkt.seq &&
    ((s.receivers.find? fun r => r.resource == pkt.resource && r.job == pkt.job).bind fun r => objAt s r.obj).any fun o =>
      absentAny s o none none (((placedAddrs o pkt.offset pkt.payload.length).map (· / shardBase 1)).eraseDups)

/-- R354, R356, R357: a packet arrives on a port that receives. -/
def execPacketArrival (pkt : Packet) (s : State) : Out :=
  if !(enabledPorts s).contains pkt.port || packetWaits pkt s then .next s
  else .next (takePacket pkt { s with portCounts := s.portCounts.modify pkt.port fun n => (n.1, n.2 + 1) })

/-! ## The sender (R231, R355) -/

/-- A send changed. -/
def modSend (s : State) (cmd : Nat) (f : Send → Send) : State :=
  { s with sends := s.sends.map fun x => if x.cmd = cmd then f x else x }

/-- The bytes of a packet of a send. -/
def packetLength (x : Send) (num : Nat) : Nat := Nat.min packetBytes (x.length - num * packetBytes)

/-- R231: the bytes acknowledged. -/
def ackedBytes (x : Send) : Nat := ((x.packets.filter (·.acked)).map fun p => packetLength x p.num).foldl (· + ·) 0

/-- A send ended, with its command's result. -/
def endSend (s : State) (x : Send) (status count : Nat) : State :=
  setResult { s with sends := s.sends.filter fun y => y.cmd != x.cmd } x.cmd (plainResult status 0 count)

/-- The context of a send pulsed (R372). -/
def pulseSend (s : State) (x : Send) : State := (cmdBy s x.cmd).elim s fun c => pulse s c.core c.ctx

/-- R355: a packet sent again, or the send ended when its retransmissions are spent. -/
def resend (s : State) (cmd num : Nat) : State :=
  match s.sends.find? fun x => x.cmd == cmd with
  | none => s
  | some x =>
    match x.packets.find? fun p => p.num == num && !p.acked with
    | none => s
    | some p =>
      if x.retries ≤ p.tries then endSend s x 0x22 (ackedBytes x)
      else
        let s1 := modSend s cmd fun x => { x with packets := x.packets.map fun q => if q.num = num then { q with tries := q.tries + 1 } else q }
        if portOpen s then pulseSend (sendPacket s1 x num) x else s1

/-- R355: packets acknowledged; with the last of them the send is done. -/
def ackPackets (s : State) (cmd : Nat) (acked : List Nat) : State :=
  let s1 := modSend s cmd fun x =>
    { x with packets := x.packets.map fun p => if acked.contains p.num then { p with acked := true } else p }
  match s1.sends.find? fun x => x.cmd == cmd with
  | none => s
  | some x => if x.packets.all (·.acked) then endSend s1 x 0x00 x.length else s1

/-- R354, R355: an acknowledgement reaches the sender, with the packets that it reports missing; with no port enabled nothing is
received. -/
def execSelectiveAcknowledgement (cmd : Nat) (acked missing : List Nat) (s : State) : Out :=
  .next (if !portOpen s then s else missing.foldl (fun t n => resend t cmd n) (ackPackets s cmd acked))

/-- R355: a packet's retransmission timeout. -/
def execRetransmissionTimeout (cmd packet : Nat) (s : State) : Out := .next (resend s cmd packet)

/-! ## The scale-up link (R350, R351) -/

/-- R400: step 4 of bring-up has given the package its number, and its link carries traffic. -/
def onLinks (s : State) : Bool := s.device == 1 || !s.streams.isEmpty

/-- R350, R400: a flit fails its check and is sent again at link level: counted, once the package is on its links. -/
def execFlitCheckFailure (s : State) : Out := .next (if onLinks s then { s with flitErrors := s.flitErrors + 1 } else s)

/-- R351: the link to a package is lost. -/
def execLinkLoss (pkg : Nat) (s : State) : Out :=
  .next (if pkg = s.package ∨ 576 ≤ pkg ∨ s.lostLinks.contains pkg then s else { s with lostLinks := s.lostLinks ++ [pkg] })

/-- R351: the contexts that waited on unreachable homes resumed where they may be. -/
def resumeReachable (s : State) : State :=
  ((s.objects.map (·.key)).eraseDups).foldl resumeAll s

/-- R351: the link returns, and the faults that waited for it are resolved; a package in state 3 joins no domain (R400). -/
def execLinkReturn (pkg : Nat) (s : State) : Out :=
  .next (if s.lostLinks.contains pkg ∧ s.device ≠ 3 then resumeReachable { s with lostLinks := s.lostLinks.filter fun p => p != pkg } else s)

/-- R351: a draft that a package homes, in whole or by a shard. -/
def draftHomedOn (pkg : Nat) (o : Obj) : Bool :=
  o.present && o.draft.isSome && (o.key.home == pkg || (List.range (shardCount o)).any fun n => shardPackage o n == pkg)

/-- R351: Rilsia declares a package failed: the launches whose drafts it homes end with class 0x09. -/
def execPackageFailure (pkg : Nat) (s : State) : Out :=
  if pkg = s.package ∨ 576 ≤ pkg ∨ s.failedPackages.contains pkg then .next s
  else
    let s1 := { s with failedPackages := s.failedPackages ++ [pkg] }
    .next ((s.objects.filter (draftHomedOn pkg)).foldl
      (fun t o => (o.draft.elim [] (·.joined)).foldl (fun t n => endForData t n 1 (objHandle o) (trapOn o.key)) t) s1)

/-! ## Replicas (R303, R378) -/

/-- R303: a target that holds replicas of an object gets the one of a retained version. -/
def execReplicaBuild (obj : ObjKey) (version target : Nat) (s : State) : Out :=
  match objAt s obj with
  | none => .next s
  | some o =>
    if o.versions.any (fun v => v.num == version) && o.replicas.any (fun r => r.2 == target) && !o.replicas.contains (version, target) &&
        !absentAny s o (some version) none (List.range (shardCount o)) then
      .next (modObj s obj fun o =>
        { o with replicas := (o.replicas.filter fun r => r.2 != target || o.versions.any fun v => v.num == r.1) ++ [(version, target)] })
    else .next s

end Sys2Proof.Machine
end

