-- ==== Sys2Proof/Machine/Create.lean ====
section
/-!
DEFINITION. The creation and the destruction of objects (R295 to R300, R378): descriptors checked and taken, numbers and
generations given, stage sets (R244, R247, R402) and forecast tables (R266).
-/

namespace Sys2Proof.Machine

/-! ## Descriptors (R296 to R300) -/

/-- A descriptor's class, geometry, shard and placement words, its extents and its rights. -/
structure Descriptor where
  cls : Nat
  extent : List Nat
  geometry : Nat
  current : Nat
  base : Nat
  version : Nat
  shard : Nat
  placement : Nat
  network : Nat
  zero : Nat
  rights : Nat
  deriving DecidableEq, Repr

/-- R296: the fields of 128 bytes. -/
def parseDescriptor (bs : List Byte) : Descriptor where
  cls := recordField bs 0x00 8
  extent := (List.range 6).map fun j => recordField bs (0x08 + 4 * j) 4
  geometry := recordField bs 0x20 8
  current := recordField bs 0x38 4
  base := recordField bs 0x3C 4
  version := recordField bs 0x40 8
  shard := recordField bs 0x48 8
  placement := recordField bs 0x50 8
  network := recordField bs 0x58 8
  zero := recordField bs 0x60 16
  rights := recordField bs 0x70 16

/-- R297: the kind of a code. -/
def kindOfCode (n : Nat) : Kind :=
  [Kind.dense, .tree, .byte, .host, .queue, .expert, .stage, .forecast].getD n .dense

/-- R297. -/
def dDims (d : Descriptor) : Nat := fieldOf d.cls 35 3
/-- R297. -/
def dKind (d : Descriptor) : Kind := kindOfCode (fieldOf d.cls 32 3)
/-- R297. -/
def dFmt (d : Descriptor) : Nat := fieldOf d.cls 28 4
/-- R297. -/
def dScaled (d : Descriptor) : Bool := bitOf d.cls 27
/-- R297. -/
def dCompressed (d : Descriptor) : Bool := bitOf d.cls 26
/-- R297. -/
def dEpsZero (d : Descriptor) : Bool := bitOf d.cls 23
/-- R297: e of ε. -/
def dEpsExp (d : Descriptor) : Int := signedOf 12 (fieldOf d.cls 11 12)
/-- R300. -/
def dCoord (d : Descriptor) : Nat := fieldOf d.shard 61 3
/-- R300: shards. -/
def dShards (d : Descriptor) : Nat := fieldOf d.shard 51 10 + 1
/-- R300. -/
def dChunk (d : Descriptor) : Nat := d.shard % 2 ^ 32

/-- R297: reserved bits, dims, the scaled and the compressed bit with the range of ε (R274). -/
def classOk (d : Descriptor) (part : Nat) : Bool :=
  d.cls / 2 ^ 56 == 0 && d.cls % 2 ^ 11 == 0 && fieldOf d.cls 38 6 == part && decide (1 ≤ dDims d) && decide (dDims d ≤ 6) &&
    (d.extent.drop (dDims d)).all (· == 1) && (!dScaled d || (decide (elemBits (dFmt d) ≤ 8) && dFmt d != 0xB)) &&
    (!dCompressed d || (dKind d == .dense && decide (dFmt d ≤ 1) && dShards d == 1 &&
      (dEpsZero d || (if dFmt d = 1 then decide (-149 ≤ dEpsExp d ∧ dEpsExp d ≤ 127) else decide (-1074 ≤ dEpsExp d ∧ dEpsExp d ≤ 1023)))))

/-- R298: geometry, dims, extents and format of the kinds. A host buffer has no window without its control request (R346), and the
zeros of a new stage set are no declaration in range (R244): these two are refused (log entry 108). -/
def kindOk (d : Descriptor) : Bool :=
  let x := fun j => d.extent.getD j 1
  match dKind d with
  | .dense => d.geometry == 0
  | .tree =>
    let depth := d.geometry % 2 ^ 5
    decide (1 ≤ depth) && decide (depth ≤ 16) && d.geometry / 2 ^ 31 == 0 && dDims d == 3 && decide (1 ≤ x 0) && decide (x 0 ≤ 4096) &&
      decide (1 ≤ x 1) && decide (x 1 ≤ 4096) && x 0 == fieldOf d.geometry 5 13 &&
      x 1 == fieldOf d.geometry 18 13 && x 2 == 2 ^ (depth + 1) - 1
  | .byte => d.geometry == 0 && dDims d == 1 && dFmt d == 0x9
  | .queue => d.geometry / 2 ^ 24 == 0 && dDims d == 2 && x 0 == 520 && x 1 == d.geometry && dFmt d == 0x9
  | .expert => d.geometry / 2 ^ 16 == 0 && decide (1 ≤ d.geometry % 2 ^ 8) && dDims d == 2
  | .forecast => d.geometry == 0 && dDims d == 2 && x 0 == 64 && decide (1 ≤ x 1) && decide (x 1 ≤ 4096) && dFmt d == 0x9
  | .host | .stage => false

/-- R300, R378: the shard word, and the words that must be zero in a descriptor handed in. -/
def wordsOk (d : Descriptor) : Bool :=
  let x := d.extent.getD (dCoord d) 1
  decide (dCoord d < dDims d) && decide (1 ≤ dChunk d) && decide (dShards d ≤ 576) && fieldOf d.shard 32 19 == 0 &&
    dShards d == Nat.max 1 ((x + dChunk d - 1) / dChunk d) && d.current == 0 && d.base == 0 && d.version == 0 && d.network == 0 &&
    d.zero == 0 && d.placement % 2 ^ 54 == 0 && fieldOf d.placement 55 1 == 0 && d.placement / 2 ^ 58 == 0

/-! ## New objects (R295) -/

/-- R295: the number may be given: nothing present bears it, no version of its last object is retained, no shootdown of it is under
way, and no live launch holds a handle of it. -/
def numberFree (s : State) (k : ObjKey) : Bool :=
  !(s.objects.any fun o => o.key == k && (o.present || !o.retains.isEmpty)) && !(s.shoots.any fun x => x.obj == k) &&
    !s.launches.any fun l => l.live && l.handles.any fun h => handleKey h == k

/-- R295: how many numbers of this package may be taken at most. -/
def takenNumbers (s : State) : Nat :=
  s.objects.length + s.shoots.length + (s.launches.map fun l => l.handles.length).sum

/-- R295: a free object number of this package. -/
def pickNumber (s : State) : Option Nat :=
  ((List.range (takenNumbers s + 1)).map fun i => (Config.objectNumber s.drawn + i) % 2 ^ 24).find? fun n => numberFree s ⟨s.package, n⟩

/-- R295: the generation of a number: the one that a destruction left, or a first one. -/
def generationOf (s : State) (k : ObjKey) : Nat :=
  match s.objects.find? fun o => o.key == k with
  | some o => o.generation
  | none => Config.firstGeneration s.drawn % 4095 + 1

/-- An object with nothing but its name, its kind and its extents. -/
def blankObj (s : State) (k : ObjKey) (part : Nat) (kind : Kind) (fmt : Nat) (extent : List Nat) : Obj where
  key := k
  present := true
  generation := generationOf s k
  partition := part
  dims := 1
  kind := kind
  fmt := BitVec.ofNat 4 fmt
  scaled := false
  compressed := false
  point := 0
  epsZero := false
  epsExp := 0
  extent := extent
  geometry := 0
  storage := 0
  scalePlane := 0
  current := 1
  versions := [⟨1, ⟨[], []⟩, 0, []⟩]
  draft := none
  draftNo := 0
  started := false
  marks := 0
  shard := BitVec.ofNat 64 (extent.headD 1 % 2 ^ 32)
  shardMap := []
  loc := { die := 0, materialised := false, far := false, spilled := [], lent := false, moving := false, package := s.package
           toPackage := 0, toDie := 0 }
  replicas := []
  hint := none
  counter := 0
  pendingBytes := 0
  overrun := false
  endpoint := false
  rights := BitVec.ofNat 128 (3 * 2 ^ (2 * part))
  retains := []
  subs := []
  bufRows := 0
  bufPages := 0
  farPages := []
  spilling := []
  imaged := []
  lentVersion := 0
  lost := []
  iova := 0
  ending := []

/-- R296, R301: the scale plane lies after the elements of a shard, and the storage is that of every shard. -/
def withPlane (o : Obj) : Obj :=
  let bare := { o with scaled := false }
  let o1 := { o with scalePlane := if o.scaled then shardBytes bare 0 else 0 }
  { o1 with storage := allBytes o1 }

/-- R378: the object of a descriptor. -/
def objOfDescriptor (s : State) (k : ObjKey) (part : Nat) (d : Descriptor) : Obj :=
  withPlane
    { blankObj s k part (dKind d) (dFmt d) d.extent with
      dims := dDims d, scaled := dScaled d, compressed := dCompressed d, point := fieldOf d.cls 24 2
      epsZero := dEpsZero d, epsExp := dEpsExp d, geometry := BitVec.ofNat 64 d.geometry
      shard := BitVec.ofNat 64 d.shard
      shardMap := (List.range (dShards d - 1)).map fun n => (Config.shardHome s.drawn n % 576, Config.shardDie s.drawn n % 4)
      loc := { die := fieldOf d.placement 56 2, materialised := false, far := bitOf d.placement 54, spilled := [], lent := false
               moving := false, package := s.package, toPackage := 0, toDie := 0 }
      rights := BitVec.ofNat 128 d.rights }

/-- An object put into the tables, in the place of a destroyed one of its number. -/
def putObj (s : State) (o : Obj) : State :=
  { s with drawn := s.drawn + 1, objects := (s.objects.filter fun x => x.key != o.key) ++ [o] }

/-- R229: an expert buffer reserves a page and opens its first draft. -/
def startBuffer (s : State) (o : Obj) : State :=
  { modObj s o.key (openDraft false) with pools := s.pools.modify o.loc.die (· - 1) }

/-- R2, R296: some package's tiers can hold each shard, and the storage field the whole. -/
def storageFits (o : Obj) : Bool :=
  decide (o.storage < 2 ^ 48) && (List.range (shardCount o)).all fun n =>
    decide (shardBytes o n ≤ (Config.nearTierPages + Config.farTierPages) * Config.pageBytes)

/-- R378, R380: an object created from a descriptor, or the service error; without a free number the table is full. -/
def createFrom (s : State) (part : Nat) (d : Descriptor) : Except Nat (Obj × State) :=
  if !(classOk d part && kindOk d && wordsOk d) then .error 0x01
  else
    match pickNumber s with
    | none => .error 0x06
    | some n =>
      let o := objOfDescriptor s ⟨s.package, n⟩ part d
      if !storageFits o then .error 0x02
      else if o.kind = .expert then
        if s.pools.getD o.loc.die 0 = 0 then .error 0x02 else .ok (o, startBuffer (putObj s o) o)
      else .ok (o, putObj s o)

/-- R2, R265: an object that Rilsia has filled put into the tables, its storage in the near tier of its die, or in the far tier; none with
room in neither. -/
def placeFilled (s : State) (o : Obj) : Option State :=
  let t := fitQuota (putObj s o) o.key o.loc.die (objPages o)
  if nearUse t o.partition o.loc.die ≤ quotaOf t o.partition o.loc.die ∨ (objAt t o.key).any fun x => (objPages x).all x.farPages.contains then
    some t
  else none

/-- An object that Rilsia fills as it creates it. -/
def filledObj (s : State) (n part die : Nat) (kind : Kind) (extent : List Nat) (bytes : List Byte) : Obj :=
  let o := withPlane (blankObj s ⟨s.package, n⟩ part kind 0x9 extent)
  { o with
    dims := extent.length
    versions := [⟨1, ⟨cellsOf 0 bytes, []⟩, 0, []⟩]
    loc := { o.loc with die := die, materialised := true } }

/-! ## Stage sets (R244, R247, R402) -/

/-- R244, R245: a declaration's fields. -/
def declarationOk (bs : List Byte) : Bool :=
  let n := recordField bs 0x10 1
  let stage := fun st => recordField bs (0x18 + st) 1
  decide (1 ≤ n) && decide (n ≤ 8) && decide (recordField bs 0x11 1 ≤ 16) && decide (1 ≤ recordField bs 0x12 1) &&
    decide (recordField bs 0x13 1 ≤ 1) && recordField bs 0x14 4 == 0 &&
    (List.range 8).all fun st =>
      if st < n then stage st / 32 == 0 && (bitOf (stage st) 1 || fieldOf (stage st) 2 3 == 0) else stage st == 0

/-- A queue of a declaration: the object, or the service error. -/
def declaredQueue (s : State) (part h : Nat) : Except Nat Obj :=
  match resolveHandle s (BitVec.ofNat 64 h) with
  | .error _ => .error 0x01
  | .ok o => if !hasRight o part 2 then .error 0x03 else if o.kind != .queue then .error 0x01 else .ok o

/-- R402: the router holds a draft of an object: it opens one, or joins the open one. -/
def routerJoins (s : State) (k : ObjKey) : State :=
  modObj s k fun o =>
    match o.draft with
    | some d => { o with draft := some { d with routed := true } }
    | none => openDraft true o

/-- R247: the state of a new set. -/
def newSet (k queue sink : ObjKey) (bs : List Byte) : StageSet where
  obj := k
  queue := queue
  sink := sink
  stages := recordField bs 0x10 1
  window := recordField bs 0x11 1
  producers := recordField bs 0x12 1
  fixed := recordField bs 0x13 1 == 1
  bytes := (bs.drop 0x18).take 8
  queues := Vector.replicate 8 []
  passCur := Vector.replicate 8 0
  failCur := Vector.replicate 8 0
  passWin := Vector.replicate 8 0
  failWin := Vector.replicate 8 0
  windows := Vector.replicate 8 0
  generator := none
  closes := 0
  drained := false
  sunk := 0
  failed := 0
  waiters := []

/-- R244, R402: a stage set created from a declaration, or the service error. -/
def createSet (s : State) (part : Nat) (bs : List Byte) : Except Nat (Obj × State) :=
  match declarationOk bs, declaredQueue s part (recordField bs 0 8), declaredQueue s part (recordField bs 8 8), pickNumber s with
  | false, _, _, _ => .error 0x01
  | _, .error e, _, _ => .error e
  | _, _, .error e, _ => .error e
  | _, _, _, none => .error 0x06
  | _, .ok q, .ok z, some n =>
    let o := filledObj s n part q.loc.die .stage [32] (bs.take 32)
    match placeFilled s o with
    | none => .error 0x02
    | some t =>
      let s1 := routerJoins (routerJoins t q.key) z.key
      .ok (o, { s1 with sets := s1.sets ++ [newSet o.key q.key z.key bs] })

/-! ## Forecast tables (R266, R380) -/

/-- R380: an entry names an object on which the partition lacks the read right. -/
def entryForbidden (s : State) (part : Nat) (bs : List Byte) : Bool :=
  match resolveHandle s (parseEntry bs).handle with
  | .error _ => false
  | .ok o => !hasRight o part 1

/-- R298: a forecast table created from its rows, 1 to 4,096, or the service error. -/
def createTable (s : State) (part die : Nat) (rows : List (List Byte)) : Except Nat (Obj × State) :=
  if rows.length < 1 ∨ 4096 < rows.length then .error 0x01
  else if rows.any (entryForbidden s part) then .error 0x03
  else
    match pickNumber s with
    | none => .error 0x06
    | some n =>
      let o := filledObj s n part die .forecast [64, rows.length] (rows.flatMap id)
      match placeFilled s o with
      | none => .error 0x02
      | some t => .ok (o, t)

/-! ## Destruction (R295, R378) -/

/-- R378: a launch holds a joined draft, a pin or a subscription of an object, or the router holds its draft. -/
def heldObj (s : State) (o : Obj) : Bool :=
  o.draft.elim false (·.routed) || !o.subs.isEmpty ||
    (allCtxs s).any fun c => liveDraft o c || c.pins.any fun p => p.obj == o.key

/-- R402: the router lets go of a set's drafts: its queue's is discarded, its sink's stays open for its writers. -/
def dropSet (s : State) (k : ObjKey) : State :=
  match setBy s k with
  | none => s
  | some x =>
    let unroute := fun (o : Obj) => { o with draft := o.draft.map fun d => { d with routed := false } }
    let s1 := modObj { s with sets := s.sets.filter fun y => y.obj != k } x.sink unroute
    match objAt s1 x.queue with
    | some q => discardDraft (modObj s1 x.queue unroute) { q with draft := q.draft.map fun d => { d with routed := false } }
    | none => s1

/-- R229: every page of an expert buffer given back. -/
def returnPages (s : State) (o : Obj) : State :=
  if o.kind = .expert then
    { s with pools := s.pools.modify o.loc.die (· + buffersPages o) }
  else s

/-- R326, R378: every version wait on an object completed with 0x31. -/
def failWaits (s : State) (k : ObjKey) : State :=
  (s.streams.filter fun x => (x.entries.head?).elim false fun e =>
    e.active && entryField e 0 2 == 3 && handleKey (BitVec.ofNat 64 (entryField e 8 8)) == k).foldl
      (fun t x => completeHead t x.number 0x31 0 0 0 0 []) s

/-- R295: the object gone, its number's generation advanced; retained versions keep the number from reuse. -/
def retire (o : Obj) : Obj :=
  { o with present := false, draft := none, subs := [], spilling := []
           generation := if o.generation = 4095 then 1 else o.generation + 1 }

/-- R295, R373, R378: an object destroyed. -/
def destroyNow (s : State) (o : Obj) : State :=
  let s1 := dropSet (returnPages (endDraft s o) o) o.key
  let s2 := startShoot s (dropMoves (modObj s1 o.key retire) o.key) o.key none true
  failWaits { s2 with
    receivers := s2.receivers.filter fun r => r.obj != o.key
    lines := s2.lines.filter fun l => l.obj != o.key } o.key

end Sys2Proof.Machine
end

