-- ==== Sys2Proof/Machine/Services.lean ====
section
/-!
DEFINITION. Rilsia's services (R233, R377 to R383, R401): the checks of a call, its reply and journal entry, and what each service
does.
-/

namespace Sys2Proof.Machine

/-! ## Calls and replies -/

/-- A reply: status, detail, count and the values for the follower registers. -/
structure Reply where
  status : Nat
  detail : Nat
  count : Nat
  values : List (BitVec 64)
  deriving DecidableEq, Repr

/-- A successful reply. -/
def okReply (value : BitVec 64) (count : Nat) : Reply := ⟨0x00, 0, count, [value, 0]⟩
/-- R380: a failure inside the service. -/
def errReply (e : Nat) : Reply := ⟨0x25, e, 0, []⟩

/-- An argument: a handle with the right and the kinds that R401 gives, or a scalar. -/
abbrev ArgSpec := Option (Nat × (Obj → Bool))

/-- Every kind but host buffers. -/
def notHost (o : Obj) : Bool := o.kind != .host
/-- R401: what export lends. -/
def lendable (o : Obj) : Bool := o.kind == .dense || o.kind == .tree || o.kind == .byte

/-- R377, R401: the arguments of each service. -/
def argsOf : Nat → List ArgSpec
  | 0 => [none]
  | 16 => [some (1, kindIs .byte)]
  | 17 => [some (2, anyKind)]
  | 18 => [some (1, kindIs .byte)]
  | 19 => [some (1, kindIs .byte), none]
  | 20 => [some (2, notHost), some (1, kindIs .byte)]
  | 32 => [some (1, anyKind), none, none]
  | 48 => [some (2, kindIs .byte)]
  | 49 => [some (2, dataKind), none]
  | 50 => [some (1, kindIs .byte)]
  | 64 => [some (2, notHost), none, none]
  | 65 => [some (1, notHost), none]
  | 66 => [some (2, notHost)]
  | 67 => [some (2, lendable), none, none]
  | 68 => [some (2, lendable)]
  | 80 => [some (1, kindIs .byte), none]
  | 96 => [none, some (2, kindIs .byte)]
  | _ => []

/-- An argument of a call. -/
def argOf (c : Call) (i : Nat) : BitVec 64 := c.args.getD i 0
/-- An argument as a number. -/
def argNat (c : Call) (i : Nat) : Nat := (argOf c i).toNat

/-- The handle arguments of a call, with their numbers from 0. -/
def handleArgs (c : Call) : List (Nat × Nat × (Obj → Bool)) :=
  (argsOf c.service).zipIdx.filterMap fun a => a.1.map fun n => (a.2, n.1, n.2)

/-- R233: the first handle argument that fails its checks, counted from 1. -/
def badArg (s : State) (c : Call) : Option Nat :=
  ((handleArgs c).find? fun a =>
    match resolveFor s c.partition (argOf c a.1) a.2.1 a.2.2 with | .error _ => true | .ok _ => false).map fun a => a.1 + 1

/-- R377: an argument that the table does not name is not zero. -/
def strayArg (c : Call) : Bool := (c.args.drop (argsOf c.service).length).any (· != 0)

/-- The object of a handle argument. -/
def argObj (s : State) (c : Call) (i : Nat) : Option Obj := objAt s (handleKey (argOf c i))

/-- R233: a handle argument's object is absent; the end of an export does not wait for that export. -/
def argAbsent (s : State) (c : Call) : Bool :=
  (handleArgs c).any fun a => (argObj s c a.1).elim false fun o => absentObj s o && !(c.service == 68 && o.loc.lent)

/-- The call waits for its reply. -/
def unanswered (s : State) (c : Call) : Bool :=
  match c.caller with | .command id => (cmdBy s id).elim false (·.result.isNone) | _ => true

/-- The argument from whose object a service reads a record. -/
def recordArg : Nat → Option Nat
  | 16 | 18 | 19 | 48 | 50 | 80 => some 0
  | 20 => some 1
  | _ => none

/-- R371: uncorrectable data in the record that a service reads: the service waits, as for an absent element. -/
def recordBad (s : State) (c : Call) : Bool :=
  ((recordArg c.service).bind fun i => argObj s c i).any fun o => (badView s o (some o.current) (wholeAddrs o)).isSome

/-- R381: an earlier call on an object of this one waits. -/
def objectBehind (s : State) (c : Call) : Bool :=
  let mine := (handleArgs c).map fun a => handleKey (argOf c a.1)
  s.calls.any fun d => decide (d.id < c.id) && unanswered s d && (handleArgs d).any fun a => mine.contains (handleKey (argOf d a.1))

/-- The journalled result of a call id. -/
def journalled (s : State) (c : Call) : Option Result :=
  (partitionBy s c.partition).bind fun p => (p.journal.find? fun j => some j.callId == c.callId).map (·.result)

/-- R382: the journal has no room for the call. -/
def journalFull (s : State) (c : Call) : Bool :=
  c.callId.isSome && (partitionBy s c.partition).elim false fun p => decide (Config.journalEntries ≤ p.journal.length)

/-- A call that can run: it has no reply, and waits for no other call, no object and no room in the journal. -/
def callReady (s : State) (c : Call) : Bool :=
  unanswered s c && !objectBehind s c &&
    ((journalled s c).isSome || !(journalFull s c || argAbsent s c || recordBad s c))

/-- R381: a call comes before another in its queues: of a higher class, or of the same class and earlier. -/
def callFirst (d c : Call) : Bool := decide (c.cls < d.cls) || (d.cls == c.cls && decide (d.id < c.id))

/-- R381: no Viol core has come to the call: as many calls that can run come before it as there are cores. -/
def violsBusy (s : State) (c : Call) : Bool :=
  decide (Config.violCores ≤ (s.calls.filter fun d => callFirst d c && callReady s d).length)

/-- R381: a call has to wait for calls before it. -/
def callBehind (s : State) (c : Call) : Bool := objectBehind s c || violsBusy s c

/-- A reply as a command's result. -/
def replyResult (r : Reply) : Result := ⟨r.status, r.detail, r.count, r.values, none, none, 0⟩

/-- R382: the reply journalled under the call's id. -/
def writeJournal (s : State) (c : Call) (x : Result) : State :=
  match c.callId with
  | none => s
  | some id => modPartition s c.partition fun p => { p with journal := p.journal ++ [⟨id, x⟩] }

/-- A call taken out of its queue. -/
def removeCall (s : State) (c : Call) : State := { s with calls := s.calls.filter fun d => d.id != c.id }

/-- R329: the record of a service performed without a command: its status, detail and count. -/
def entryRecord (r : Reply) : Nat × Nat × Nat := if r.status ≤ 2 then (0x00, 0, r.count) else (0x32, r.status, r.count)

/-- A reply handed to the caller: a command's completion takes it (R206), an entry or a request completes. -/
def handReply (s : State) (c : Call) (r : Reply) : State :=
  let e := entryRecord r
  match c.caller with
  | .command id => setResult s id (replyResult r)
  | .stream n => completeHead (removeCall s c) n e.1 e.2.1 e.2.2 0 0 []
  | .control tag =>
    { removeCall s c with completions := s.completions ++ [⟨c.partition, some 1, none, tag, e.1, e.2.1, e.2.2, 0, [], false⟩] }

/-- R382: the effect, the journal entry and the reply in one step. -/
def commit (c : Call) (r : Reply) (s : State) : State := handReply (writeJournal s c (replyResult r)) c r

/-- A service's work: the reply and the state after it. -/
abbrev Work := State → Call → Reply × State

/-- R233, R377, R383: a call performed: a journalled id is answered again; the checks; then the service. -/
def serveCall (s : State) (c : Call) (f : Work) : State :=
  match journalled s c with
  | some x => handReply s c ⟨0x02, x.detail, x.count, x.follow⟩
  | none =>
    if journalFull s c then s
    else if strayArg c then commit c (errReply 0x01) s
    else
      match badArg s c with
      | some n => commit c ⟨0x23, n, 0, []⟩ s
      | none => if argAbsent s c || recordBad s c then s else commit c (f s c).1 (f s c).2

/-- R381: a Viol core runs a call of a service. -/
def service (call n : Nat) (f : Work) (s : State) : Out :=
  match s.calls.find? fun c => c.id == call with
  | none => .next s
  | some c => .next (if c.service = n ∧ unanswered s c ∧ !callBehind s c then serveCall s c f else s)

/-- A service on the object of an argument. -/
def onArg (i : Nat) (f : State → Call → Obj → Reply × State) : Work := fun s c =>
  match argObj s c i with
  | none => (errReply 0x01, s)
  | some o => f s c o

/-- The first n bytes of a byte object's current version. -/
def contentOf (o : Obj) (n : Nat) : List Byte := firstBytes o ((versionStore o o.current).getD ⟨[], []⟩) n

/-- A service whose argument holds a record of n bytes: an object that is too short is out of range. -/
def onRecord (i n : Nat) (f : State → Call → List Byte → Reply × State) : Work :=
  onArg i fun s c o => if extentAt o 0 < n then (errReply 0x01, s) else f s c (contentOf o n)

/-- The outcome of a creation. -/
def created (s : State) (count : Obj → Nat) (x : Except Nat (Obj × State)) : Reply × State :=
  match x with
  | .error e => (errReply e, s)
  | .ok y => (okReply (objHandle y.1) (count y.1), y.2)

/-! ## Objects -/

/-- R377: service 0. -/
def execNull (call : Nat) (s : State) : Out := service call 0 (fun s c => (okReply (argOf c 0) 0, s)) s

/-- R378: service 16. -/
def execCreateObject (call : Nat) (s : State) : Out :=
  service call 16 (onRecord 0 128 fun s c bs => created s (fun _ => 1) (createFrom s c.partition (parseDescriptor bs))) s

/-- R378: service 17. -/
def execDestroyObject (call : Nat) (s : State) : Out :=
  service call 17 (onArg 0 fun s _ o => if heldObj s o then (errReply 0x05, s) else (okReply 0 0, destroyNow s o)) s

/-- R244, R402: service 18. -/
def execCreateStageSet (call : Nat) (s : State) : Out :=
  service call 18 (onRecord 0 32 fun s c bs => created s (fun _ => 1) (createSet s c.partition bs)) s

/-- R266, R377: service 19. -/
def execCreateForecastTable (call : Nat) (s : State) : Out :=
  service call 19 (onArg 0 fun s c o =>
    let n := argNat c 1
    if n < 1 ∨ 4096 < n ∨ extentAt o 0 < 64 * n then (errReply 0x01, s)
    else
      let bs := contentOf o (64 * n)
      created s (fun _ => n) (createTable s c.partition o.loc.die ((List.range n).map fun i => (bs.drop (64 * i)).take 64))) s

/-- R304: a hint record, or none when a field is out of its range. -/
def parseHint (bs : List Byte) : Option Hint :=
  let home := recordField bs 0 2
  let flags := recordField bs 2 1
  let n := fieldOf home 12 4
  let mapped := (List.range n).map fun i => fieldOf (recordField bs 3 10) (10 * i) 10
  if 8 < n ∨ 576 ≤ home % 2 ^ 10 ∨ 4 ≤ flags ∨ recordField bs 13 3 ≠ 0 ∨ mapped.any (fun p => decide (576 ≤ p)) then none
  else some ⟨home % 2 ^ 10, fieldOf home 10 2, bitOf flags 0, bitOf flags 1, mapped⟩

/-- R305: the range entries of an object kept, or no longer, as its hint has it. -/
def keepEntries (s : State) (k : ObjKey) : State :=
  (objAt s k).elim s fun o =>
    { s with xlats := s.xlats.map fun x => if x.obj = k ∧ x.page.isNone then { x with kept := keepsEntries s o } else x }

/-- R304: service 20. -/
def execWriteHintRecord (call : Nat) (s : State) : Out :=
  service call 20 (onRecord 1 16 fun s c bs =>
    match parseHint bs with
    | none => (errReply 0x01, s)
    | some h => (okReply 0 0, keepEntries (modObj s (handleKey (argOf c 0)) fun o => { o with hint := some h }) (handleKey (argOf c 0)))) s

/-- R378: retains of a version. -/
def retainsOf (o : Obj) (v : Nat) : Nat := (o.retains.filter (· == v)).length

/-- R378: service 32. -/
def retainWork (s : State) (c : Call) (o : Obj) : Reply × State :=
  let v := if argNat c 1 = 0 then o.current else argNat c 1
  if 2 ^ 32 ≤ argNat c 1 ∨ 1 < argNat c 2 then (errReply 0x01, s)
  else if argNat c 2 = 0 then
    if o.versions.any fun x => x.num == v then
      (okReply (BitVec.ofNat 64 v) (retainsOf o v + 1), modObj s o.key fun o => { o with retains := o.retains ++ [v] })
    else (errReply 0x04, s)
  else if retainsOf o v = 0 then (errReply 0x04, s)
  else
    (okReply (BitVec.ofNat 64 v) (retainsOf o v - 1),
      pruneVersions (modObj s o.key fun o => { o with retains := o.retains.erase v }) o.key)

/-- R378: service 32. -/
def execRetain (call : Nat) (s : State) : Out := service call 32 (onArg 0 retainWork) s

/-! ## Network -/

/-- R353: an endpoint record's fields. -/
def endpointOk (bs : List Byte) : Bool :=
  recordField bs 0x13 1 == 0 && recordField bs 0x17 1 == 0 && decide (1 ≤ recordField bs 0x18 1) && decide (recordField bs 0x18 1 ≤ 15) &&
    recordField bs 0x19 23 == 0

/-- R353: service 48. -/
def execMarkEndpoint (call : Nat) (s : State) : Out :=
  service call 48 (onRecord 0 48 fun s c bs =>
    if endpointOk bs then (okReply 0 0, modObj s (handleKey (argOf c 0)) fun o => { o with endpoint := true })
    else (errReply 0x01, s)) s

/-- R353: a resource index that no receiver bears. -/
def pickResource (s : State) : Option Nat :=
  ((List.range (s.receivers.length + 1)).map fun i => ((Config.resourceIndex s.drawn).toNat + i) % 2 ^ 24).find? fun n =>
    !s.receivers.any fun r => r.resource == n

/-- R353, R380: service 49: a receiver keeps its index, and takes the job named last; with every index taken the table is full. -/
def receiverWork (s : State) (c : Call) (o : Obj) : Reply × State :=
  if 2 ^ 24 ≤ argNat c 1 then (errReply 0x01, s)
  else
    match ((s.receivers.find? fun r => r.obj == o.key).map (·.resource)).or (pickResource s) with
    | none => (errReply 0x06, s)
    | some n =>
      (okReply (BitVec.ofNat 64 n) 0,
        { s with drawn := s.drawn + 1, receivers := (s.receivers.filter fun r => r.obj != o.key) ++ [⟨n, o.key, argNat c 1⟩] })

/-- R353: service 49. -/
def execRegisterReceiver (call : Nat) (s : State) : Out := service call 49 (onArg 0 receiverWork) s

/-- R354: a port record: the port and its settings. -/
def parsePort (bs : List Byte) : Option (Nat × PortRecord) :=
  let p := recordField bs 0 1
  let f := recordField bs 1 1
  let p6 := recordField bs 0x18 1
  let p4 := recordField bs 0x20 1
  if 3 < p ∨ 3 < f ∨ recordField bs 2 6 ≠ 0 ∨ 128 < p6 ∨ recordField bs 0x19 3 ≠ 0 ∨ 32 < p4 ∨ recordField bs 0x21 15 ≠ 0 then none
  else some (p, ⟨bitOf f 0, bitOf f 1, BitVec.ofNat 128 (recordField bs 8 16), p6, BitVec.ofNat 32 (recordField bs 0x1C 4), p4⟩)

/-- R354: the records of the four ports; one without a record is not enabled. -/
def fourPorts (l : List PortRecord) : List PortRecord := (List.range 4).map fun p => l.getD p ⟨false, false, 0, 0, 0, 0⟩

/-- R354: service 50, of the network owner alone. -/
def portWork (s : State) (c : Call) : Reply × State :=
  if c.partition ≠ s.owner then (errReply 0x03, s)
  else
    onRecord 0 48 (fun s _ bs =>
      match parsePort bs with
      | none => (errReply 0x01, s)
      | some x => (okReply 0 0, { s with ports := (fourPorts s.ports).set x.1 x.2 })) s c

/-- R354: service 50. -/
def execConfigurePort (call : Nat) (s : State) : Out := service call 50 portWork s

/-! ## Placement -/

/-- R306, R377: service 64. -/
def migrateWork (s : State) (c : Call) (o : Obj) : Reply × State :=
  let pkg := argNat c 1
  let die := argNat c 2
  if 576 ≤ pkg ∨ 3 < die then (errReply 0x01, s)
  else if unreachable s pkg then (errReply 0x07, s)
  else
    match migrateTo s o pkg die with
    | some t => (okReply 0 0, t)
    | none => (errReply 0x02, s)

/-- R377: service 64. -/
def execMigrate (call : Nat) (s : State) : Out := service call 64 (onArg 0 migrateWork) s

/-- R378, R379: a target of `replicate`: its name among the replicas, or the service error. A group has a name past every
package's. -/
def targetOf (s : State) (part : Nat) (t : Nat) : Except Nat Nat :=
  if 2 ^ 63 ≤ t then
    let pkg := t % 2 ^ 63
    if 576 ≤ pkg then .error 0x01 else if unreachable s pkg then .error 0x07 else .ok pkg
  else if 7 < t ∨ (groupClusters s part t).isEmpty then .error 0x01 else .ok (groupName part t)

/-- R378: service 65. -/
def replicateWork (s : State) (c : Call) (o : Obj) : Reply × State :=
  match targetOf s c.partition (argNat c 1) with
  | .error e => (errReply e, s)
  | .ok t =>
    if t < 1024 ∧ 7 ≤ replicaCount o ∧ !o.replicas.any fun r => r.2 == t then (errReply 0x02, s)
    else
      let add := if o.replicas.contains (o.current, t) then [] else [(o.current, t)]
      (okReply (BitVec.ofNat 64 o.current) 1, modObj s o.key fun o => { o with replicas := o.replicas ++ add })

/-- R378: service 65. -/
def execReplicate (call : Nat) (s : State) : Out := service call 65 (onArg 0 replicateWork) s

/-- R396: the shards whose copy a call begins: those that have storage to copy. -/
def spillShards (o : Obj) : List Nat := if o.loc.materialised && !o.loc.moving && !o.loc.lent then residentShards o else []

/-- R2, R396: service 66: the copy of each shard into a spill image begins (log entry 79), where the far tier has room for the images. -/
def spillWork (s : State) (o : Obj) : Reply × State :=
  let new := (spillShards o).filter fun n => !o.spilling.contains n
  if !unused s o then (errReply 0x05, s)
  else if !farRoom s ((new.map (spillPages s o)).sum) then (errReply 0x02, s)
  else (okReply 0 0, modObj s o.key fun o => { o with spilling := spillShards o })

/-- R396: service 66. -/
def execSpill (call : Nat) (s : State) : Out := service call 66 (onArg 0 fun s _ o => spillWork s o) s

/-- A host buffer of a partition with a window index. -/
def windowOf (s : State) (part n : Nat) : Option Obj :=
  s.objects.find? fun o => o.present && o.kind == .host && o.partition == part && o.geometry.toNat % 2 ^ 32 == n

/-- R275, R319: the bytes of a version's storage that an export lends, over all shards; a compressed one's in its coded form. -/
def lentBytes (o : Obj) (v : Nat) : Nat :=
  if o.compressed then codedBytes (codedBlocks o ((versionStore o v).getD ⟨[], []⟩)) else allBytes o

/-- R319: service 67. -/
def exportWork (s : State) (c : Call) (o : Obj) : Reply × State :=
  let v := argNat c 1
  if 2 ^ 32 ≤ v ∨ (windowOf s c.partition (argNat c 2)).isNone then (errReply 0x01, s)
  else if !(o.versions.any fun x => x.num == v) then (errReply 0x04, s)
  else if !unused s o then (errReply 0x05, s)
  else
    (okReply 0 (Nat.min (lentBytes o v) 0xFFFFFFFF),
      startShoot s (modObj s o.key fun o => { o with loc := { o.loc with lent := true }, lentVersion := v }) o.key none false)

/-- R319: service 67. -/
def execExportObject (call : Nat) (s : State) : Out := service call 67 (onArg 0 exportWork) s

/-- R319: the end of an export. -/
def endLoan (s : State) (k : ObjKey) : State := modObj s k fun o => { o with loc := { o.loc with lent := false }, lentVersion := 0 }

/-- R319: service 68. -/
def execEndExport (call : Nat) (s : State) : Out :=
  service call 68 (onArg 0 fun s _ o => (okReply 0 0, endLoan s o.key)) s

/-- R319: the outside agent returns the storage. -/
def execExportReturn (obj : ObjKey) (s : State) : Out :=
  match objAt s obj with
  | none => .next s
  | some o => .next (if o.loc.lent then resumeAll (endLoan s obj) obj else s)

/-! ## Streams and counters -/

/-- R377: service 80. -/
def submitWork (s : State) (c : Call) (o : Obj) : Reply × State :=
  let n := recordField (contentOf o (Nat.min 8 (extentAt o 0))) 2 2
  match streamBy s (argNat c 1) with
  | none => (errReply 0x01, s)
  | some x =>
    if x.partition ≠ c.partition ∨ n < 8 ∨ extentAt o 0 < n then (errReply 0x01, s)
    else
      let bs := contentOf o n
      (okReply (BitVec.ofNat 64 (recordField bs 4 4)) 0, appendEntry s x.number bs none)

/-- R377: service 80. -/
def execSubmit (call : Nat) (s : State) : Out := service call 80 (onArg 0 submitWork) s

/-- R354: the word of a port. -/
def portWord (s : State) (p : Nat) : BitVec 64 :=
  BitVec.ofNat 64 ((s.macBase.toNat + p) % 2 ^ 48 + (if (s.ports[p]?).elim false (·.enabled) then 2 ^ 63 else 0))

/-- R379: the word of a cluster group. -/
def groupWord (s : State) (part g : Nat) : BitVec 64 := BitVec.ofNat 64 ((groupClusters s part g).foldl (fun m c => m ||| 2 ^ c) 0)

/-- R357: the packets that each port has sent and received. -/
def portValues (s : State) : List Nat := s.portCounts.flatMap fun n => [n.1, n.2]

/-- R354, R357: the counters of each connection: its number, the packets dropped and those acknowledged. -/
def connValues (s : State) : List Nat := s.conns.flatMap fun k => [k.id, k.dropped, k.acks]

/-- R378, R391: for each cluster of the caller, the microseconds at each level and the throttle steps taken. -/
def clockValues (s : State) (part : Nat) : List Nat :=
  (clustersOf s part).flatMap fun k => s.power.residency.getD k [] ++ [s.power.taken.getD k 0]

/-- R378: the words of a counter set; where the manual gives no layout, the layout of the counters is free. -/
def counterSet (s : State) (c : Call) (n : Nat) : List (BitVec 64) :=
  match n with
  | 0 => (c.callId.bind fun id => launchBy s id.1).elim [] fun l => l.counters.map (BitVec.ofNat 64)
  | 1 => (List.range 4).map (portWord s) ++ Config.counterWords 1 (portValues s)
  | 2 => Config.counterWords 2 (connValues s)
  | 4 => (List.range 8).map (groupWord s c.partition)
  | n => Config.counterWords n (clockValues s c.partition)

/-- R378: words written from byte 0 of the open draft, as many as the object holds. -/
def writeWords (s : State) (o : Obj) (ws : List (BitVec 64)) : State :=
  setDraftBytes s o (placeBytes o (draftBytes s o) 0 (ws.flatMap fun w => bytesOfNat 8 w.toNat)) (placedAddrs o 0 (8 * ws.length))

/-- R378: a draft that Rilsia opens for a call, writes and publishes. -/
def writePublished (s : State) (o : Obj) (ws : List (BitVec 64)) : State :=
  match objAt (modObj s o.key (openDraft false)) o.key with
  | none => s
  | some d => publishNow (writeWords (modObj s o.key (openDraft false)) d ws) o.key false

/-- The context that made a call. -/
def callerCtx (s : State) (c : Call) : Option Ctx :=
  match c.caller with | .command id => (cmdBy s id).map (cmdCtx s) | _ => none

/-- R378: service 96. -/
def countersWork (s : State) (c : Call) (o : Obj) : Reply × State :=
  let n := argNat c 0
  let ws := (counterSet s c n).take (extentAt o 0 / 8)
  let reply := okReply (BitVec.ofNat 64 ws.length) ws.length
  if 4 < n then (errReply 0x01, s)
  else
    match callerCtx s c with
    | some x => if liveDraft o x then (reply, writeWords s o ws) else (errReply 0x06, s)
    | none =>
      if n = 0 then (errReply 0x01, s)
      else if o.draft.isSome then (errReply 0x05, s)
      else if 4 ≤ wouldRetain s o ∨ 0xFFFFFFFF ≤ o.current then (errReply 0x02, s)
      else (reply, writePublished s o ws)

/-- R378: service 96. -/
def execReadCounters (call : Nat) (s : State) : Out := service call 96 (onArg 1 countersWork) s

/-! ## Restart (R383) -/

/-- R383: a restarted service: a committed call is answered from the journal with status 0x02; another is executed again. -/
def execServiceRestart (call : Nat) (s : State) : Out :=
  match s.calls.find? fun c => c.id == call with
  | none => .next s
  | some c =>
    match journalled s c, c.caller with
    | some x, .command id => .next (setResult s id { x with status := 0x02 })
    | _, _ => .next s

end Sys2Proof.Machine
end

