-- ==== Sys2Proof/Machine/Waits.lean ====
section
/-!
DEFINITION. The ends of waits: slots that wait on empty tiles or on a free command place (R29, R193), stalled marks (R270),
barriers, supersteps and `wait` (R103 to R105), and issue taken up again (R31).
-/

namespace Sys2Proof.Machine

/-! ## Waiting slots (R29) -/

/-- The operations whose slots may wait, run again. -/
def rerun (i : Instr) (s : State) : Out :=
  match i with
  | .mxlw g t f xs => execMxlw g t f xs s
  | .mxs g b t f r => execMxs g b t f r s
  | .mxrank g b t r => execMxrank g b t r s
  | .acwr g b t r f => execAcwr g b t r f s
  | .acadd g b t r f => execAcadd g b t r f s
  | .tld g v t r => execTld g v t r s
  | .tlds g xs t i z => execTlds g xs t i z s
  | .tfree g t => execTfree g t s
  | .tsetf g t => execTsetf g t s
  | .txfer g t k r c => execTxfer g t k r c s
  | .txferRow g t k r => execTxferRow g t k r s
  | .txferAll g t k => execTxferAll g t k s
  | .tcopy g d xs n => execTcopy g d xs n s
  | .tpack g d xs n => execTpack g d xs n s
  | .hfet g t xs h e => execHfet g t xs h e s
  | .hput g t xs h e => execHput g t xs h e s
  | .hgat g t xs h e => execHgat g t xs h e s
  | .hsca g t xs h e => execHsca g t xs h e s
  | .hcopy g d xs t e c => execHcopy g d xs t e c s
  | .hpfl2 g xs h e => execHpfl2 g xs h e s
  | .hres g xs h e => execHres g xs h e s
  | .hprobe g xs h e => execHprobe g xs h e s
  | .hopen g xs h => execHopen g xs h s
  | .hpub g xs h => execHpub g xs h s
  | .hdisc g xs h => execHdisc g xs h s
  | .hpin g xs h => execHpin g xs h s
  | .hpinV g xs h => execHpinV g xs h s
  | .hunpin g xs h => execHunpin g xs h s
  | .hsub g xs h u => execHsub g xs h u s
  | .hsubV g xs h u => execHsubV g xs h u s
  | .hunsub g xs h => execHunsub g xs h s
  | .hver g xs h => execHver g xs h s
  | .hatom g xs h q o y => execHatom g xs h q o y s
  | .hatomr g xs h q o y => execHatomr g xs h q o y s
  | .hcas g xs h q y => execHcas g xs h q y s
  | .tdesc g t xs h y => execTdesc g t xs h y s
  | .tgrad g t xs h y => execTgrad g t xs h y s
  | .rbind g xs h x => execRbind g xs h x s
  | .rput g t xs h => execRput g t xs h s
  | .rputLast g t xs h => execRputLast g t xs h s
  | .rputUpd g t xs h => execRputUpd g t xs h s
  | .rtake g t xs h x => execRtake g t xs h x s
  | .rdone g xs h x => execRdone g xs h x s
  | .rdoneFail g xs h x => execRdoneFail g xs h x s
  | .rstat g t xs h => execRstat g t xs h s
  | .xsend g t xs h => execXsend g t xs h s
  | .xsendLast g t xs h => execXsendLast g t xs h s
  | .xref g t xs => execXref g t xs s
  | .csnap g t xs => execCsnap g t xs s
  | .cread g t xs => execCread g t xs s
  | .fcbind g xs h => execFcbind g xs h s
  | .fcbindUn g xs => execFcbindUn g xs s
  | .fcstat g t xs => execFcstat g t xs s
  | .nsend g t xs h => execNsend g t xs h s
  | .nexp g xs h => execNexp g xs h s
  | .ncnt g xs h => execNcnt g xs h s
  | .svc g xs n => execSvc g xs n s
  | _ => .next s

/-- The frame in which a waiting slot reads: its registers as they stood before its bundle, and the tiles as they are. The slot
retires in the cycle that has passed: its context's next bundle issues in a later one (R27, R29). -/
def waitFrame (s : State) (w : WaitSlot) : State :=
  let pre := { s.core with ctxs := s.core.ctxs.set s.core.cur { curCtx s with live := w.pre }, cycle := s.core.cycle - 1 }
  let others := (curCtx s).waiting.flatMap fun v => (tileReads s v.op).map fun t => (v.slot, t)
  { s with issue := some ⟨pre, w.index, w.ckpt, w.reads ++ others, true⟩ }

/-- The acting context's waiting slot of a number. -/
def waitOf (s : State) (slot : Nat) : Option WaitSlot := (curCtx s).waiting.find? fun w => w.slot == slot

/-- The acting core when a waiting slot of its acting context retires: the context's late loads have been performed, and it sees
what the contexts that made the slot's tiles full wrote to them (R201, R203). -/
def seenForWait (s : State) (w : WaitSlot) : State :=
  modCore s fun c =>
    (tileReads s w.op).foldl (fun c t => seesOwner (localNo s) t c) (performLoads (localNo s) (fun _ => true) c)

/-- R29: a waiting slot of the acting context run again: it retires, traps, or goes on waiting. -/
def retryWait (slot : Nat) (s : State) : State :=
  match waitOf s slot with
  | none => s
  | some w =>
    match rerun w.op (waitFrame (removeWait (seenForWait s w) w) w) with
    | .next t => if (waitOf t slot).isSome then s else slotRetired w { t with issue := none }
    | _ => s

/-- The team of a core is placed and neither saved nor restored. -/
def standing (s : State) (c : CoreRec) : Bool :=
  (teamBy s c.launch c.team).elim false fun t => t.status == .placed || t.status == .stopping

/-- An operation on a context of a standing team. -/
def onContext (s : State) (core ctx : Nat) (ok : CoreRec → Ctx → Bool) (f : State → State) : State :=
  if h : ctx < 4 then
    match coreOf s core with
    | none => s
    | some c => if ok c (c.ctxs[ctx]) then withActing s core ⟨ctx, h⟩ f else s
  else s

/-- R29: the tile of a waiting slot is full. -/
def execEmptyTileWaitRetire (core ctx slot : Nat) (s : State) : Out :=
  .next (onContext s core ctx (fun c x => x.status == .running && standing s c && slot != 0 && x.waiting.any fun w => w.slot == slot)
    (retryWait slot))

/-! ## Stalled marks (R270) -/

/-- The marker of a waiting `mark`. -/
def markOf (w : WaitSlot) : Option Nat := match w.op with | .mark k _ => some k.toNat | _ => none

/-- R270: the entries that hold the acting context's stalled mark and whose handles have begun to fail, counted as failed; the
others go on holding it. -/
def dropFailed (s : State) (k : Nat) : State :=
  let failed := (missing s s.core.launch s.core.team k).filter fun x =>
    (curCtx s).holds.contains x.1 && !(holding s s.core.launch s.core.team k).contains x
  let s1 := modCtx s fun c => { c with holds := c.holds.filter fun e => !failed.any fun x => x.1 == e }
  modCounters s1 s.core.launch fun c => { c with failedActions := satAdd c.failedActions failed.length }

/-- R270: the stalled mark of the acting context retires, or the movements it waits for are triggered again. -/
def retryMark (s : State) : State :=
  match (waitOf s 0).bind markOf with
  | none => s
  | some k =>
    let s1 := dropFailed s k
    let held := holding s1 s.core.launch s.core.team k
    if held.isEmpty then (waitOf s1 0).elim s1 fun w => slotRetired w (removeWait s1 w)
    else (held.filter fun x => !inProgress s1 s.core.launch x.1).foldl (trigger s.core.launch s.core.team) s1

/-- R270: a `mark` stalled on forecast misses. -/
def execMarkStallRetire (core ctx : Nat) (s : State) : Out :=
  .next (onContext s core ctx (fun c x => x.status == .running && standing s c) retryMark)

/-! ## Barriers, supersteps, `wait` (R103 to R105) -/

/-- R103: every context of a team has arrived at a barrier count or has exited, whether or not what it withheld has been released (log
entry 134). -/
def arrived (s : State) (launch team n : Nat) : Bool :=
  teamAll s launch team fun x => x.ended || decide (n ≤ x.live.barCount.toNat)

/-- R104: the supersteps at which a context has arrived with its withheld effects released: its checkpoint has been taken (log entry
134). -/
def releasedSteps (x : Ctx) : Nat :=
  match x.closing, x.live.pendingWait with
  | some _, some .sstep => x.live.stepCount.toNat - 1
  | _, _ => x.live.stepCount.toNat

/-- R104: every context of every team has, teams that are not placed among them, and what they withheld is with its engines;
a team not yet started has not. -/
def allArrived (s : State) (launch n : Nat) : Bool :=
  (launchBy s launch).elim false fun l => l.teams.all fun t =>
    t.status == .exited || (t.everPlaced && teamAll s launch t.index fun x => x.ended || decide (n ≤ releasedSteps x))

/-- The team of a core is not being saved or restored. -/
def settled (s : State) (c : CoreRec) : Bool := (teamBy s c.launch c.team).elim false fun t => !t.busy

/-- A context that waits with pending wait set, for this operation, its checkpoint taken. -/
def pendingFor (x : Ctx) (k : CloseKind) : Bool := x.status == .running && x.closing.isNone && x.live.pendingWait == some k

/-- R103: `bar` satisfied. -/
def execBarrierSatisfied (core ctx : Nat) (s : State) : Out :=
  .next (onContext s core ctx
    (fun c x => pendingFor x .bar && settled s c && arrived s c.launch c.team x.live.barCount.toNat) passBarrier)

/-- R104: `sstep` satisfied. -/
def execSuperstepSatisfied (core ctx : Nat) (s : State) : Out :=
  .next (onContext s core ctx
    (fun c x => pendingFor x .sstep && settled s c && allArrived s c.launch x.live.stepCount.toNat) passSuperstep)

/-- R105: the token of a `wait` is no longer pending. -/
def tokenReady (x : Ctx) : Bool :=
  match x.live.pendingWait with | some (.wait t) => x.status == .running && !x.live.pending.contains (.s t.toNat) | _ => false

/-- R105: `wait` satisfied. -/
def execWaitSatisfied (core ctx : Nat) (s : State) : Out :=
  .next (onContext s core ctx (fun c x => tokenReady x && settled s c) endWait)

/-! ## Issue taken up again (R31) -/

/-- R31: after a cycle in which no context was ready, issue goes on with the first that becomes ready. -/
def execIssueResume (core : Nat) (s : State) : Out :=
  match coreOf s core, chosen (focus s core) with
  | some c, some x => .next (if c.yielded then modCoreId s core fun c => { c with cur := x, yielded := false } else s)
  | _, _ => .next s

end Sys2Proof.Machine
end

