-- ==== Sys2Proof/Machine/Sched.lean ====
section
/-!
DEFINITION. Placement (R330, R331), relocation (R79, R80), the order of waiting teams (R336, R338), stops, saves and restores (R332
to R335), slices (R336) and pre-emption (R337).
-/

namespace Sys2Proof.Machine

/-! ## Placements (R330) -/

/-- R374: the physical core of a relative core. -/
def physOf (p : Placement) (cols rel : Nat) : Nat :=
  28 * p.cluster + 7 * p.rows.getD (rel / cols) 0 + (p.cols.getD (rel / cols) []).getD (rel % cols) 0

/-- Numbers strictly rising. -/
def rising : List Nat → Bool
  | a :: b :: r => decide (a < b) && rising (b :: r)
  | _ => true

/-- Some team holds a physical core. -/
def coreTaken (s : State) (phys : Nat) : Bool := (allCores s).any fun c => c.place == some phys

/-- R230, R330: an operation on the routing counters: `xsend`, `csnap` or `cread`, by its opcode in the ENG slot. -/
def usesCounters (l : Launch) : Bool :=
  (List.range l.bundles).any fun i =>
    let op := readNat l.code (32 * i + 28) 4 / 2 ^ 26
    op == 0x20 || op == 0x22 || op == 0x23

/-- R330: another team that uses the routing counters stands on a cluster. -/
def countersTaken (s : State) (cluster launch team : Nat) : Bool :=
  s.launches.any fun l => usesCounters l && l.teams.any fun t =>
    !(l.id == launch && t.index == team) && t.place.elim false fun p => p.cluster == cluster

/-- R330: the partition owns the cluster. -/
def ownsCluster (s : State) (part cluster : Nat) : Bool :=
  (partitionBy s part).elim false fun p => p.active && !p.reassigning && p.clusters.contains cluster

/-- R330: the placement has the launch's shape, with columns in ascending order. -/
def shapedFor (l : Launch) (p : Placement) : Bool :=
  p.rows.length == l.rows && p.rows.all (· < 4) && p.rows.eraseDups.length == l.rows && p.cols.length == l.rows &&
    p.cols.all fun c => c.length == l.cols && c.all (· < 7) && rising c

/-- The physical cores of a placement. -/
def placeCores (l : Launch) (p : Placement) : List Nat := (List.range (l.rows * l.cols)).map (physOf p l.cols)

/-- R330, R374: a team may be placed there. -/
def mayPlace (s : State) (l : Launch) (team : Nat) (p : Placement) : Bool :=
  ownsCluster s l.partition p.cluster && decide (p.cluster < Config.clusters) && shapedFor l p &&
    (placeCores l p).all (fun c => !defective s c && !coreTaken s c) &&
    !(usesCounters l && countersTaken s p.cluster l.id team)

/-- Working cores of a row of a cluster, free ones when asked. -/
def workingCols (s : State) (cluster row : Nat) (free : Bool) : Nat :=
  ((List.range 7).filter fun c =>
    let phys := 28 * cluster + 7 * row + c
    !defective s phys && !(free && coreTaken s phys)).length

/-- R330: a cluster holds a team shape. -/
def fitsCluster (s : State) (cluster rows cols : Nat) (free : Bool) : Bool :=
  decide (rows ≤ ((List.range 4).filter fun r => decide (cols ≤ workingCols s cluster r free)).length)

/-- R330: some cluster of the partition holds the shape. -/
def fitsPartition (s : State) (part rows cols : Nat) : Bool := (clustersOf s part).any fun k => fitsCluster s k rows cols false

/-- R337: a placement is free for the launch's team. -/
def placementFree (s : State) (l : Launch) : Bool :=
  (clustersOf s l.partition).any fun k => fitsCluster s k l.rows l.cols true && !(usesCounters l && countersTaken s k l.id l.grid)

/-! ## Relocation (R79, R80) -/

/-- R79: a field of a word replaced. -/
def setField (w lo len x : Nat) : Nat := w - fieldOf w lo len * 2 ^ lo + x % 2 ^ len * 2 ^ lo

/-- R76: the mode of a TX word, none for another word. -/
def txMode (w : Nat) : Option Nat := if w / 2 ^ 26 % 64 = 0x08 ∧ fieldOf w 1 2 ≤ 1 then some (fieldOf w 1 2) else none

/-- R79, R80: a TX word with its relative coordinates made physical. -/
def relocWord (p : Placement) (w : Nat) : Nat :=
  let row := fieldOf w 6 2
  let w1 := setField w 6 2 (p.rows.getD row 0)
  match txMode w with
  | some 0 => setField w1 3 3 ((p.cols.getD row []).getD (fieldOf w 3 3) 0)
  | some _ => w1
  | none => w

/-- R80: the code of a launch rewritten for a placement. -/
def relocate (l : Launch) (p : Placement) : Mem :=
  l.relocs.foldl (fun m r => writeNat m (32 * r.1 + 4 * r.2) 4 (relocWord p (readNat l.code (32 * r.1 + 4 * r.2) 4))) l.code

/-! ## The order of waiting teams (R331, R336, R338) -/

/-- A team waits for a placement: swapped out, or the next of its grid to start. -/
def waitsForPlace (l : Launch) (t : Team) : Bool :=
  !l.ended && (t.status == .out ||
    (t.status == .unstarted && l.teams.all fun u => u.status != .unstarted || decide (t.index ≤ u.index)))

/-- R338: superstep counts at which contexts of a launch wait. -/
def stepWaits (s : State) (launch : Nat) : List Nat :=
  ((allCores s).filter fun c => c.launch == launch).flatMap fun c =>
    c.ctxs.toList.filterMap fun x => if pendingFor x .sstep then some x.live.stepCount.toNat else none

/-- R338: the team has a context whose superstep count is below one at which the launch waits. -/
def stepBehind (s : State) (l : Launch) (t : Team) : Bool :=
  (stepWaits s l.id).any fun n =>
    t.status == .unstarted || !teamAll s l.id t.index fun x => x.ended || decide (n ≤ x.live.stepCount.toNat)

/-- R336, R338: a waiting team that comes before another: by class, then a team behind the superstep at which its launch waits before
every other of the class, then by tokens and by the time waited. -/
def comesBefore (s : State) (l : Launch) (t : Team) (m : Launch) (u : Team) : Bool :=
  if l.cls ≠ m.cls then decide (m.cls < l.cls)
  else if stepBehind s l t ≠ stepBehind s m u then stepBehind s l t
  else if l.tokens ≠ m.tokens then decide (m.tokens < l.tokens)
  else decide (t.waitSince < u.waitSince)

/-- R336: another team of the partition that fits the placement comes first. -/
def outranked (s : State) (l : Launch) (t : Team) (p : Placement) : Bool :=
  s.launches.any fun m => m.partition == l.partition && decide (m.rows ≤ l.rows) && decide (m.cols ≤ l.cols) &&
    m.teams.any fun u => waitsForPlace m u && !(m.id == l.id && u.index == t.index) && comesBefore s m u l t &&
      !(usesCounters m && countersTaken s p.cluster m.id u.index)

/-- A team of a launch that waits and may take a placement. -/
def mayTake (s : State) (l : Launch) (t : Team) (p : Placement) : Bool :=
  waitsForPlace l t && l.firstTrap.isNone && mayPlace s l t.index p && !outranked s l t p

/-! ## The first placement (R13, R15, R88, R331) -/

/-- R13, R15: the registers of a context at its start. -/
def startRegs (l : Launch) (team rel index : Nat) : Regs :=
  let ids : List (BitVec 64) := [BitVec.ofNat 64 team, BitVec.ofNat 64 index, BitVec.ofNat 64 (packCoord l.cols rel)]
  { Reset.regs with
    s := (ids ++ l.scalars).zipIdx.foldl (fun v x => v.setIfInBounds x.2 x.1) Reset.regs.s
    h := l.handles.zipIdx.foldl (fun v x => v.setIfInBounds x.2 x.1) Reset.regs.h
    g := l.shapes.zipIdx.foldl (fun v x => v.setIfInBounds x.2 x.1) Reset.regs.g
    b := l.buckets.zipIdx.foldl (fun v x => v.setIfInBounds x.2 x.1) Reset.regs.b
    srseed := l.seed }

/-- R15: a context of a new core; those past the team's count stay idle. -/
def startCtx (l : Launch) (team rel : Nat) (x : Nat) : Ctx :=
  if l.contexts ≤ x then Reset.ctx
  else
    let index := rel * l.contexts + x
    let r := startRegs l team rel index
    { Reset.ctx with status := .running, index := index, live := r, shadow := r }

/-- R331: a core of a new team. -/
def startCore (l : Launch) (team : Nat) (p : Placement) (id cycle rel : Nat) : CoreRec :=
  { Reset.core with
    id := id, launch := l.id, team := team, rel := rel, place := some (physOf p l.cols rel), cycle := cycle
    ctxs := #v[startCtx l team rel 0, startCtx l team rel 1, startCtx l team rel 2, startCtx l team rel 3] }

/-- A team as its first placement leaves it. -/
def startTeam (s : State) (l : Launch) (p : Placement) (t : Team) : Team :=
  { t with status := .placed, place := some p, code := relocate l p, marker := 0, eta := 0xFFFFFFFF, pass := 0, counters := [],
           sticky := [], placedAt := s.micros, lastMark := s.micros, everPlaced := true, marks := none }

/-- R17: the clock of a cluster as a team comes onto it. While no team stands on a cluster no turn counts its cycles, so that the
clock has gone on by a free number of them. -/
def clockAt (s : State) (cluster : Nat) : Nat :=
  s.clocks.getD cluster 0 + if (allCores s).any fun c => coreCluster c == some cluster then 0 else Config.cycleAt s.drawn

/-- R17: a cluster's clock as a team finds it. -/
def setClock (s : State) (cluster : Nat) : State :=
  { s with drawn := s.drawn + 1, clocks := s.clocks.setIfInBounds cluster (clockAt s cluster) }

/-- R331: a team placed for the first time, and the armed forecasts that its marker reaches triggered (R268). What the binding of the
table has triggered for it stays disarmed, because R284 counts it once (log entry 124). -/
def startPlaced (s : State) (l : Launch) (team : Nat) (p : Placement) : State :=
  let n := l.rows * l.cols
  let cores := (List.range n).map fun i => startCore l team p (s.nextId + i) (clockAt s p.cluster) i
  let s1 := modTeamBy (setClock s p.cluster) l.id team (startTeam s l p)
  triggerReached { s1 with nextId := s.nextId + n, parked := s1.parked ++ cores } l.id team

/-- R331: a team of a grid started. -/
def execTeamStart (launch team : Nat) (place : Placement) (s : State) : Out :=
  match launchBy s launch, teamBy s launch team with
  | some l, some t => .next (if t.status = .unstarted ∧ mayTake s l t place then startPlaced s l team place else s)
  | _, _ => .next s

/-! ## Stops (R332) -/

/-- R332: the swap grace of a context is over: it is rolled back, which writes no trap record. -/
def execSwapGraceExpiry (core ctx : Nat) (s : State) : Out :=
  if h : ctx < 4 then
    match coreOf s core with
    | none => .next s
    | some c =>
      let x := c.ctxs[ctx]
      let stopping := (teamBy s c.launch c.team).elim false fun t => t.status == .stopping
      if stopping && !standsAtCheckpoint x && decide (Config.swapGrace ≤ x.grace) then
        .next (modLaunch (withActing s core ⟨ctx, h⟩ rollback) c.launch fun l => { l with counters := l.counters.modify 2 (· + 1) })
      else .next s
  else .next s

/-! ## Saves and restores (R333 to R335) -/

/-- R332: every core of a team is idle: no stream and no weight load. -/
def arraysIdle (s : State) (launch team : Nat) : Bool :=
  (allCores s).all fun c => !(c.launch == launch && c.team == team) || (c.streams.isEmpty && c.load.isNone)

/-- A team's status changed. -/
def setStatus (s : State) (launch team : Nat) (x : TeamStatus) : State := modTeamBy s launch team fun t => { t with status := x }

/-- R2, R333: where the image of a team goes: the near tier of its die while the partition's quota there has room, else the far tier
while that has. -/
def imageFor (s : State) (l : Launch) (t : Team) : Option SavedImage :=
  let die := t.place.elim 0 fun p => p.cluster / 12
  let n := Config.imagePages (l.rows * l.cols)
  if nearUse s l.partition die + n ≤ quotaOf s l.partition die then some ⟨die, n, false⟩
  else if farRoom s n then some ⟨die, n, true⟩ else none

/-- R333: the save of a stopped team begins. -/
def execTeamSave (launch team : Nat) (s : State) : Out :=
  match launchBy s launch, teamBy s launch team with
  | some l, some t =>
    if t.status = .stopping ∧ teamAll s launch team standsAtCheckpoint ∧ arraysIdle s launch team then
      .next ((imageFor s l t).elim s fun x =>
        modTeamBy s launch team fun t => { t with status := .saving, swapStart := s.micros, image := some x })
    else .next s
  | _, _ => .next s

/-- An arrival that a save or a restore held, applied. -/
def applyArrival (i : Instr) (s : State) : State :=
  match i with
  | .tileLanding c => match execTileLanding c s with | .next t => t | _ => s
  | .txferCompletion c => match execTxferCompletion c s with | .next t => t | _ => s
  | .commandCompletion c => match execCommandCompletion c s with | .next t => t | _ => s
  | .descent c => match execDescent c s with | .next t => t | _ => s
  | _ => s

/-- R334, R335: the arrivals of a team applied in their order. -/
def applyArrivals (s : State) (launch team : Nat) (held : List Instr) : State :=
  held.foldl (fun t i => applyArrival i t) (modTeamBy s launch team fun t => { t with arrivals := [] })

/-- The cores of a team changed. -/
def modTeamCores (s : State) (launch team : Nat) (f : CoreRec → CoreRec) : State :=
  modAllCores s fun c => if c.launch = launch ∧ c.team = team then f c else c

/-- R334, R335: the save is complete: the team is out, its cores are free. -/
def execSaveComplete (launch team : Nat) (s : State) : Out :=
  match teamBy s launch team with
  | none => .next s
  | some t =>
    if t.status = .saving then
      let s1 := modTeamBy s launch team fun t =>
        { t with status := .out, place := none, waitSince := s.micros, swapTime := s.micros - t.swapStart }
      let s2 := modTeamCores s1 launch team fun c => { c with place := none, micro := [] }
      let s3 := modLaunch s2 launch fun l => { l with counters := l.counters.modify 1 (· + 1) }
      .next (applyArrivals s3 launch team t.arrivals)
    else .next s

/-- R334: a swapped-out team's restore begins on a placement, its code rewritten. -/
def restorePlaced (s : State) (l : Launch) (team : Nat) (p : Placement) : State :=
  let s1 := modTeamBy (setClock s p.cluster) l.id team fun t =>
    { t with status := .restoring, place := some p, code := relocate l p, swapStart := s.micros, marks := none }
  modTeamCores s1 l.id team fun c =>
    { c with place := some (physOf p l.cols c.rel), cur := 0, yielded := false, cycle := clockAt s p.cluster }

/-- R334: a team restored on a cluster. -/
def execTeamRestore (launch team : Nat) (place : Placement) (s : State) : Out :=
  match launchBy s launch, teamBy s launch team with
  | some l, some t => .next (if t.status = .out ∧ mayTake s l t place then restorePlaced s l team place else s)
  | _, _ => .next s

/-- R336: the slice of a team: the launch's, raised to four times the last save plus restore where it is shorter than that
(log entry 122). -/
def sliceOf (l : Launch) (t : Team) : Nat := if l.slice < t.swapTime then 4 * t.swapTime else l.slice

/-- R336: a slice that is raised is counted. -/
def countRaise (time : Nat) (l : Launch) : Launch :=
  if l.slice < time then { l with counters := l.counters.modify 0 (· + 1) } else l

/-- R375: a core of a team has been marked failed. -/
def onDefect (s : State) (launch team : Nat) : Bool :=
  (allCores s).any fun c => c.launch == launch && c.team == team && c.place.any (defective s)

/-- R335, R375: the restore is complete: the image is let go, arrivals are applied, and the contexts resume, or stop again where a
core has failed meanwhile. -/
def execRestoreComplete (launch team : Nat) (s : State) : Out :=
  match teamBy s launch team with
  | none => .next s
  | some t =>
    if t.status = .restoring then
      let time := t.swapTime + (s.micros - t.swapStart)
      let s1 := modTeamBy s launch team fun t => { t with status := .placed, placedAt := s.micros, swapTime := time, image := none }
      let s2 := applyArrivals (modLaunch s1 launch (countRaise time)) launch team t.arrivals
      .next (if onDefect s launch team then requestStop s2 launch team else s2)
    else .next s

/-! ## Slices (R336) -/

/-- R336: another team of the launch, or one of the same class of the partition, waits for a placement. -/
def rivalWaits (s : State) (l : Launch) : Bool :=
  s.launches.any fun m => (m.id == l.id || (m.partition == l.partition && m.cls == l.cls)) && m.teams.any (waitsForPlace m)

/-- R336: the context's next bundle is held on a pending token. -/
def heldOnToken (s : State) : Bool :=
  betweenBundles s && match decodeBundle s with
    | .ok ops => namesPending s (ops.filter (slotActive s))
    | .error _ => false

/-- R336: every context of a team waits at a barrier, a superstep, a `wait` or a pending token. -/
def allWait (s : State) (launch team : Nat) : Bool :=
  (allCores s).all fun c => !(c.launch == launch && c.team == team) || ([0, 1, 2, 3] : List (Fin 4)).all fun i =>
    c.ctxs[i].ended || c.ctxs[i].live.pendingWait.isSome || heldOnToken (atCtx (focus s c.id) i)

/-- R338: every context of a team waits at one superstep count at which its launch waits. -/
def allAtStep (s : State) (launch team : Nat) : Bool :=
  (stepWaits s launch).any fun n =>
    teamAll s launch team fun x => x.ended || (pendingFor x .sstep && x.live.stepCount.toNat == n)

/-- R336: the team's slice has ended. -/
def sliceOver (s : State) (l : Launch) (t : Team) : Bool := t.status == .placed && decide (sliceOf l t ≤ s.micros - t.placedAt)

/-- R336, R338: a candidate that the scheduler takes before another: first one that waits whole at the superstep, then one whose
contexts all wait, then the one placed longest ago. -/
def swapsBefore (s : State) (l : Launch) (t u : Team) : Bool :=
  if allAtStep s l.id t.index ≠ allAtStep s l.id u.index then allAtStep s l.id t.index
  else if allWait s l.id t.index ≠ allWait s l.id u.index then allWait s l.id t.index
  else decide (t.placedAt < u.placedAt)

/-- R336: a placed team's slice ends while another waits. -/
def execSliceExpiry (launch team : Nat) (s : State) : Out :=
  match launchBy s launch, teamBy s launch team with
  | some l, some t =>
    .next (if sliceOver s l t && rivalWaits s l && !l.teams.any (fun u => sliceOver s l u && swapsBefore s l u t) then
      requestStop s launch team else s)
  | _, _ => .next s

/-! ## Pre-emption (R337) -/

/-- R337: the team's estimate of the time that remains. -/
def remaining (s : State) (t : Team) : Option Nat :=
  if t.eta = 0xFFFFFFFF then none else some (t.eta.toNat - (s.micros - t.lastMark))

/-- R337: a victim: a placed team of a class below the newcomer's. -/
def victims (s : State) (l : Launch) : List (Launch × Team) :=
  s.launches.flatMap fun m =>
    if m.partition = l.partition ∧ m.cls < l.cls then (m.teams.filter fun t => t.status == .placed).map fun t => (m, t) else []

/-- R337: the victim of lowest class, placed longest ago. -/
def victimOf : List (Launch × Team) → Option (Launch × Team)
  | [] => none
  | x :: r =>
    match victimOf r with
    | none => some x
    | some y => if x.1.cls < y.1.cls ∨ (x.1.cls = y.1.cls ∧ x.2.placedAt ≤ y.2.placedAt) then some x else some y

/-- R337: a victim's launch killed where it may be, or a stop requested of the team. -/
def killOrStop (s : State) (m : Launch) (t : Team) : State :=
  if m.killable then endLaunch s m ⟨0x01, 0, teamsExited m, 0, none⟩ else requestStop s m.id t.index

/-- R337: the decision on a victim with the time that remains. -/
def displace (s : State) (m : Launch) (t : Team) (left : Option Nat) : State :=
  match left with
  | some n =>
    if n < m.drain then modTeamBy s m.id t.index fun t => { t with drainUntil := some (s.micros + 2 * m.drain) }
    else killOrStop s m t
  | none => killOrStop s m t

/-- R337: a newcomer without a free placement displaces a victim. -/
def preempt (s : State) (l : Launch) : State :=
  if placementFree s l then s
  else
    match victimOf (victims s l) with
    | none => s
    | some x => displace s x.1 x.2 (remaining s x.2)

/-- R337: a draining victim that has not exited after twice the threshold is decided again, the time unknown. -/
def execDrainTimeout (launch team : Nat) (s : State) : Out :=
  match launchBy s launch, teamBy s launch team with
  | some l, some t =>
    match t.drainUntil with
    | some n =>
      .next (if t.status = .placed ∧ n ≤ s.micros then
        displace (modTeamBy s launch team fun t => { t with drainUntil := none }) l t none else s)
    | none => .next s
  | _, _ => .next s

end Sys2Proof.Machine
end

