-- ==== Sys2Proof/Machine/Launching.lean ====
section
/-!
DEFINITION. Stream entries (R320 to R329): the launch record and its image (R81 to R83, R323 to R325), object operations, version
waits and conditional nodes.
-/

namespace Sys2Proof.Machine

/-! ## Records of a stream (R321, R322) -/

/-- R320: the head entry of a stream performed, when it is eligible and of a type. -/
def onEntry (s : State) (n type : Nat) (f : CmdStream → Entry → State) : Out :=
  match eligibleEntry s n with
  | none => .next s
  | some (x, e) => .next (if entryField e 0 2 = type then f x e else s)

/-- R322: a record error at a field. -/
def recordError (s : State) (n field : Nat) : State := completeHead s n 0x26 field 0 0 0 []

/-- The first field of a list whose check fails. -/
def badField (l : List (Nat × Bool)) : Option Nat := (l.find? fun x => !x.2).map (·.1)

/-- R321: an entry of this length, as its header tells it. -/
def lengthOk (e : Entry) (n : Nat) : Bool := e.bytes.length == n && entryField e 2 2 == n

/-- A 64-bit word of an entry. -/
def entryWord (e : Entry) (off : Nat) : BitVec 64 := BitVec.ofNat 64 (entryField e off 8)

/-! ## Images (R81 to R83) -/

/-- Section i of an image: its offset and its count. -/
def sectionOf (bs : List Byte) (i : Nat) : Nat × Nat := (recordField bs (0x10 + 8 * i) 4, recordField bs (0x14 + 8 * i) 4)

/-- R82: bytes of an entry of each section. -/
def entrySizes : List Nat := [32, 4, 16, 32, 8, 64, 1]

/-- R83, check 1: the first field of the header that is wrong. An image that is too short for a header is refused at offset 0 (log
entry 128). -/
def badHeader (bs : List Byte) : Option Nat :=
  let f := recordField bs
  if bs.length < 72 then some 0
  else
    badField [(0, f 0 4 == 0x4C50524A), (4, f 4 2 == 1), (8, decide (1 ≤ f 8 1) && decide (f 8 1 ≤ 4)),
      (9, decide (1 ≤ f 9 1) && decide (f 9 1 ≤ 6)), (10, decide (1 ≤ f 10 1) && decide (f 10 1 ≤ 4)), (11, decide (f 11 1 ≤ 1))]

/-- R83, check 2: the first section that passes the end. -/
def badSection (bs : List Byte) : Option Nat :=
  ((List.range 7).find? fun i =>
    decide (bs.length < (sectionOf bs i).1 + (sectionOf bs i).2 * entrySizes.getD i 1)).map fun i => 0x10 + 8 * i

/-- Entry j of a section of an image, n bytes of it. -/
def sectionEntry (bs : List Byte) (i j off n : Nat) : Nat := recordField bs ((sectionOf bs i).1 + entrySizes.getD i 1 * j + off) n

/-- R80: a relocation entry: bundle and slot. -/
def relocOf (bs : List Byte) (j : Nat) : Nat × Nat := (sectionEntry bs 1 j 0 4 / 8, sectionEntry bs 1 j 0 4 % 8)

/-- R83, check 4, of one relocation entry: the offset of what is bad. -/
def badReloc (bs : List Byte) (j : Nat) : Option Nat :=
  let r := relocOf bs j
  let at_ := (sectionOf bs 0).1 + 32 * r.1 + 4 * r.2
  let w := recordField bs at_ 4
  if r.2 ≠ 6 ∨ (sectionOf bs 0).2 ≤ r.1 then some ((sectionOf bs 1).1 + 4 * j)
  else
    match txMode w with
    | none => some ((sectionOf bs 1).1 + 4 * j)
    | some m =>
      if recordField bs 8 1 ≤ fieldOf w 6 2 ∨ (m = 0 ∧ recordField bs 9 1 ≤ fieldOf w 3 3) then some at_ else none

/-- Parameters of a kind in an image (R82). -/
def paramCount (bs : List Byte) (kind : Nat) : Nat :=
  ((List.range (sectionOf bs 2).2).filter fun j => sectionEntry bs 2 j 0 1 == kind).length

/-- R83: an image refused: status and detail. -/
def imageError (bs : List Byte) : Option (Nat × Nat) :=
  match badHeader bs with
  | some d => some (0x20, d)
  | none =>
    match badSection bs with
    | some d => some (0x20, d)
    | none =>
      if (sectionOf bs 0).2 = 0 then some (0x20, 0x14)
      else
        match (List.range (sectionOf bs 1).2).findSome? (badReloc bs) with
        | some d => some (0x20, d)
        | none => if 32 < paramCount bs 0 ∨ 61 < paramCount bs 1 then some (0x21, 0) else none

/-- R121: the bits of a shape entry's low word that are fields; the others are read-only zeros. -/
def shapeFields : Nat := 0x0F0F0F770F3FFF7F

/-- R82, R121: the shape entries of an image, as `gset` packs them: their words, and the valid bit. Of a section of another count than
eight the first eight are taken, and missing ones are left as they are at reset (log entry 129). -/
def imageShapes (bs : List Byte) : List (BitVec 65) :=
  (List.range (Nat.min 8 (sectionOf bs 3).2)).map fun j =>
    let x := sectionEntry bs 3 j 0 8 &&& shapeFields
    BitVec.ofNat 65 (x + if shapeValidOf x then 2 ^ 64 else 0)

/-- R82: the bucket entries of an image, the first eight where there are more (log entry 129). -/
def imageBuckets (bs : List Byte) : List Bucket :=
  (List.range (Nat.min 8 (sectionOf bs 4).2)).map fun j =>
    let t := sectionEntry bs 4 j 4 4
    ⟨BitVec.ofNat 32 (sectionEntry bs 4 j 0 4), if t = 0xFFFFFFFF then none else some (t : Int)⟩

/-- R82, R323: the handle of a parameter of an image: that of its register, where the parameter is a handle. -/
def paramHandle (bs : List Byte) (handles : List (BitVec 64)) (j : Nat) : Option (BitVec 64) :=
  if (sectionOf bs 2).2 ≤ j ∨ sectionEntry bs 2 j 0 1 ≠ 0 then none else handles[sectionEntry bs 2 j 1 1]?

/-- R82, R266: the rows of an image's forecast section, with the handles of the parameters that they name. Where a row's handle field
has another bit than those of its index, or names no handle parameter, it gets reserved handle bits, which the binding refuses
(log entry 111). -/
def imageForecast (bs : List Byte) (handles : List (BitVec 64)) : List (List Byte) :=
  (List.range (sectionOf bs 5).2).map fun j =>
    let row := (bs.drop ((sectionOf bs 5).1 + 64 * j)).take 64
    let h := if recordField row 1 7 = 0 then paramHandle bs handles (recordField row 0 1) else none
    bytesOfNat 8 ((h.getD 0xFFF).toNat) ++ row.drop 8

/-! ## The launch record (R323, R324) -/

/-- R323: handle and scalar parameters of a record. -/
def recordHandles (e : Entry) : List (BitVec 64) := (List.range (entryField e 0x39 1)).map fun i => entryWord e (0x40 + 8 * i)
/-- R323. -/
def recordScalars (e : Entry) : List (BitVec 64) :=
  (List.range (entryField e 0x3A 1)).map fun i => entryWord e (0x40 + 8 * entryField e 0x39 1 + 8 * i)

/-- R323, R324, R372: the first field of a launch record that is wrong. -/
def badRecordField (e : Entry) : Option Nat :=
  let f := entryField e
  let fl := f 0x16 2
  let wd := f 0x38 1
  badField [(2, decide (0x40 ≤ e.bytes.length) && lengthOk e (0x40 + 8 * (f 0x39 1 + f 0x3A 1))),
    (0x10, decide (1 ≤ f 0x10 4) && decide (f 0x10 4 ≤ 16777215)),
    (0x16, fl / 2 ^ 11 == 0 && fl % 8 == 0 && fieldOf fl 5 2 != 3), (0x1C, decide (f 0x1C 4 ≤ 65535)),
    (0x38, wd == 0 || (decide (20 ≤ wd) && decide (wd ≤ 44))), (0x3B, f 0x3B 5 == 0)]

/-- A team of a grid before it starts. -/
def waitingTeam (s : State) (i : Nat) : Team where
  index := i
  status := .unstarted
  place := none
  code := []
  marker := 0
  eta := 0xFFFFFFFF
  pass := 0
  armed := []
  counters := []
  sticky := []
  placedAt := 0
  waitSince := s.micros
  lastMark := 0
  drainUntil := none
  arrivals := []
  everPlaced := false
  swapStart := 0
  swapTime := 0
  image := none
  marks := none

/-- A value, or another where it is zero. -/
def orElse (x y : Nat) : Nat := if x = 0 then y else x

/-- R323: the launch of a record and its image. -/
def launchOfRecord (s : State) (x : CmdStream) (e : Entry) (bs : List Byte) : Launch where
  id := s.nextId
  stream := x.number
  tag := entryTag e
  partition := x.partition
  rows := recordField bs 8 1
  cols := recordField bs 9 1
  contexts := recordField bs 10 1
  code := cellsOf 0 ((bs.drop (sectionOf bs 0).1).take (32 * (sectionOf bs 0).2))
  bundles := (sectionOf bs 0).2
  relocs := (List.range (sectionOf bs 1).2).map (relocOf bs)
  grid := entryField e 0x10 4
  math := orElse (entryField e 0x14 2) (recordField bs 6 2)
  repro := bitOf (entryField e 0x16 2) 3 || bitOf (recordField bs 11 1) 0
  lchk := bitOf (entryField e 0x16 2) 7
  policy := fieldOf (entryField e 0x16 2) 5 2
  killable := bitOf (entryField e 0x16 2) 4
  cls := fieldOf (entryField e 0x16 2) 8 3
  tokens := entryField e 0x18 4
  maxregion := orElse (entryField e 0x1C 4) (recordField bs 12 4)
  seed := entryWord e 0x20
  slice := orElse (entryField e 0x30 4) 2000
  drain := orElse (entryField e 0x34 4) ((partitionBy s x.partition).elim 500 (·.drain))
  watchdog := orElse (entryField e 0x38 1) 36
  handles := recordHandles e
  scalars := recordScalars e
  shapes := imageShapes bs
  buckets := imageBuckets bs
  binding := none
  fc := ⟨0, 0, 0, 0, 0, 0, 0, 0, 0, 0, 0, 0⟩
  teams := (List.range (entryField e 0x10 4)).map (waitingTeam s)
  counters := [0, 0, 0, 0]
  firstTrap := none
  laterTraps := 0
  ending := none
  ended := false

/-- R58, R323, R325: the math version refused: the version named. -/
def badMath (e : Entry) (bs : List Byte) : Option Nat :=
  let r := entryField e 0x14 2
  let img := recordField bs 6 2
  let v := orElse r img
  if v ≠ Config.mathVersion ∨ (r ≠ 0 ∧ r < img) then some v else none

/-- R267, R284: the table of a launch bound: the record's, or one made of the image's forecast section. A refusal is a status and
a detail. -/
def bindLaunch (s : State) (l : Launch) (e : Entry) (bs : List Byte) : Except (Nat × Nat) State :=
  let h := entryWord e 0x28
  if h ≠ 0 then
    match resolveFor s l.partition h 1 (kindIs .forecast) with
    | .error _ => .error (0x25, 0x28)
    | .ok o => (bindTable s l.id h o).mapError fun i => (0x24, i)
  else if (sectionOf bs 5).2 = 0 then .ok s
  else
    match createTable s l.partition 0 (imageForecast bs l.handles) with
    | .error x => .error (if x = 0x01 then (0x24, 4096) else (0x25, 0x28))
    | .ok (o, t) => (bindTable t l.id (objHandle o) o).mapError fun i => (0x24, i)

/-- R325: a launch accepted. -/
def acceptLaunch (s : State) (l : Launch) (e : Entry) (bs : List Byte) : State :=
  match bindLaunch { s with nextId := s.nextId + 1, launches := s.launches ++ [l] } l e bs with
  | .error x => completeHead s l.stream x.1 x.2 0 0 0 []
  | .ok t => preempt (activateHead t l.stream) l

/-- R208, R371: the bytes of an object that Rilsia reads for an entry are not there, or are bad: the entry waits. -/
def contentWaits (s : State) (o : Obj) : Bool := absentObj s o || (badView s o (some o.current) (wholeAddrs o)).isSome

/-- R267, R325: the forecast table that a record names is not there yet. -/
def tableWaits (s : State) (x : CmdStream) (e : Entry) : Bool :=
  entryWord e 0x28 != 0 &&
    match resolveFor s x.partition (entryWord e 0x28) 1 (kindIs .forecast) with
    | .error _ => false
    | .ok o => contentWaits s o

/-- R325: the checks of the image and after. -/
def checkImage (s : State) (x : CmdStream) (e : Entry) (bs : List Byte) : State :=
  match imageError bs, badMath e bs with
  | some z, _ => completeHead s x.number z.1 z.2 0 0 0 []
  | none, some v => completeHead s x.number 0x22 v 0 0 0 []
  | none, none =>
    if fitsPartition s x.partition (recordField bs 8 1) (recordField bs 9 1) then
      if tableWaits s x e then s else acceptLaunch s (launchOfRecord s x e bs) e bs
    else completeHead s x.number 0x23 0 0 0 0 []

/-- R325: a launch entry becomes eligible. -/
def launchEntry (s : State) (x : CmdStream) (e : Entry) : State :=
  match badRecordField e with
  | some f => recordError s x.number f
  | none =>
    if 32 < entryField e 0x39 1 ∨ 61 < entryField e 0x3A 1 then completeHead s x.number 0x21 0 0 0 0 []
    else
      match resolveFor s x.partition (entryWord e 8) 1 (kindIs .byte) with
      | .error _ => completeHead s x.number 0x25 0x08 0 0 0 []
      | .ok o => if contentWaits s o then s else checkImage s x e (contentOf o (extentAt o 0))

/-- R321: a type that no entry has. -/
def badType (e : Entry) : Bool := entryField e 0 2 == 0 || decide (4 < entryField e 0 2)

/-- R325: a launch entry, or one of no type. -/
def execLaunch (stream : Nat) (s : State) : Out :=
  match eligibleEntry s stream with
  | none => .next s
  | some (x, e) =>
    .next (if badType e then recordError s stream 0 else if entryField e 0 2 = 1 then launchEntry s x e else s)

/-- R325: every team has exited and every command of the launch has completed. -/
def launchDone (s : State) (l : Launch) : Bool :=
  !l.ended && l.firstTrap.isNone && l.teams.all (fun t => t.status == .exited) &&
    s.cmds.all fun c => (coreOf s c.core).elim true fun d => d.launch != l.id

/-- R325: a launch completes: its record is written, and nothing of it remains. -/
def execLaunchCompletion (launch : Nat) (s : State) : Out :=
  match launchBy s launch with
  | none => .next s
  | some l =>
    if launchDone s l then
      let s1 := freeCores (dropJournal s l) launch
      .next (completeHead { s1 with launches := s1.launches.filter fun m => m.id != launch } l.stream 0x00 0 (teamsStarted l) 0 0 [])
    else .next s

/-! ## Object operations (R329) -/

/-- R329: an object operation performed as a call without an id. -/
def operationEntry (s : State) (x : CmdStream) (e : Entry) : State :=
  match badField [(2, lengthOk e 0x40), (0x0A, entryField e 0x0A 6 == 0)] with
  | some f => recordError s x.number f
  | none =>
    let n := entryField e 8 2
    if serviceNumbers.contains n then
      let args := (List.range 6).map fun i => entryWord e (0x10 + 8 * i)
      activateHead { s with nextId := s.nextId + 1, calls := s.calls ++ [⟨s.nextId, x.partition, 0, n, args, .stream x.number, none⟩] }
        x.number
    else completeHead s x.number 0x32 0x24 0 0 0 []

/-- R329: an object-operation entry. -/
def execObjectOperation (stream : Nat) (s : State) : Out := onEntry s stream 2 (operationEntry s)

/-! ## Version waits (R326) -/

/-- R326: a version-wait entry: done at once when the version is there. -/
def waitEntry (s : State) (x : CmdStream) (e : Entry) : State :=
  match badField [(2, lengthOk e 0x18), (0x14, entryField e 0x14 4 == 0)] with
  | some f => recordError s x.number f
  | none =>
    match resolveFor s x.partition (entryWord e 8) 1 anyKind with
    | .error _ => completeHead s x.number 0x25 0x08 0 0 0 []
    | .ok o =>
      if entryField e 0x10 4 ≤ o.current then completeHead s x.number 0x00 0 o.current 0 0 [] else activateHead s x.number

/-- R326: a version-wait entry becomes eligible. -/
def execVersionWait (stream : Nat) (s : State) : Out := onEntry s stream 3 (waitEntry s)

/-- R326: the awaited version is there, or the object is gone. -/
def execVersionWaitSatisfied (stream : Nat) (s : State) : Out :=
  match (streamBy s stream).bind (·.entries.head?) with
  | none => .next s
  | some e =>
    if e.active ∧ entryField e 0 2 = 3 then
      match resolveHandle s (entryWord e 8) with
      | .error _ => .next (completeHead s stream 0x31 0 0 0 0 [])
      | .ok o => .next (if entryField e 0x10 4 ≤ o.current then completeHead s stream 0x00 0 o.current 0 0 [] else s)
    else .next s

/-! ## Conditional nodes (R327, R328) -/

/-- R327: the format code of a node's type. -/
def nodeCode (y : Nat) : Nat := [0xC, 0xD, 0xE, 0xF, 0x1, 0x0].getD y 0xC

/-- R52, R69, R328: the condition of a node: integers compare as R69's codes 0 to 5 give, signed. -/
def nodeHolds (y c a b : Nat) : Bool :=
  let w := elemBits (nodeCode y)
  if 4 ≤ y then cmpFloat c (elemVal (nodeCode y) a) (elemVal (nodeCode y) b)
  else
    let x := signedOf w a
    let z := signedOf w b
    match c with
    | 0 => x == z
    | 1 => x != z
    | 2 => decide (x < z)
    | 3 => decide (x ≤ z)
    | 4 => decide (z < x)
    | _ => decide (z ≤ x)

/-- R327: the first field of a node that is wrong. -/
def badNode (e : Entry) : Option Nat :=
  let y := entryField e 0x28 1
  let c := entryField e 0x29 1
  badField [(2, lengthOk e 0x38), (0x28, decide (y ≤ 5)), (0x29, decide (c ≤ 5) || (c == 6 && decide (4 ≤ y))), (0x2C, entryField e 0x2C 4 == 0)]

/-- R327: the element tuple of a node. -/
def nodeTuple (e : Entry) : List Int := coordsAt e.bytes 0x10

/-- R328: the node decided on a version of its object. -/
def decideNode (s : State) (n : Nat) (e : Entry) (o : Obj) (v : Nat) : State :=
  let y := entryField e 0x28 1
  let w := elemBits (nodeCode y)
  let m := if o.kind = .host then hostWindow s o else storeBytes o ((versionStore o v).getD ⟨[], []⟩)
  let a := elemCode o m (natPoint (nodeTuple e))
  let b := entryField e 0x30 8 % 2 ^ w
  if nodeHolds y (entryField e 0x29 1) a b then completeHead s n 0x00 0 1 0 0 []
  else completeHead s n 0x00 0 0 0 (entryField e 0x2A 2) []

/-- R328, R371: the element of a node is absent in a version, or its bytes are bad: the node waits. -/
def nodeWaits (s : State) (e : Entry) (o : Obj) (v : Nat) : Bool :=
  absentElem s o (some v) none (natPoint (nodeTuple e)) || (badView s o (some v) (pointAddrs o (natPoint (nodeTuple e)))).isSome

/-- R328: a node becomes eligible: it selects the latest published version, and waits for an element that is absent. -/
def nodeEntry (s : State) (x : CmdStream) (e : Entry) : State :=
  match badNode e with
  | some f => recordError s x.number f
  | none =>
    match resolveFor s x.partition (entryWord e 8) 1 dataKind with
    | .error _ => completeHead s x.number 0x25 0x08 0 0 0 []
    | .ok o =>
      if o.fmt.toNat ≠ nodeCode (entryField e 0x28 1) then completeHead s x.number 0x32 0x20 0 0 0 []
      else if (outsideFrom o 0 (nodeTuple e)).isSome then completeHead s x.number 0x32 0x21 0 0 0 []
      else if nodeWaits s e o o.current then
        modStream (modObj (activateHead s x.number) o.key fun o => { o with retains := o.retains ++ [o.current] }) x.number fun x =>
          { x with entries := x.entries.modifyHead fun e => { e with selected := o.current } }
      else decideNode s x.number e o o.current

/-- R328: a node that waited for its element. -/
def resumeNode (s : State) (n : Nat) (e : Entry) : State :=
  match objAt s (handleKey (entryWord e 8)) with
  | none => completeHead s n 0x25 0x08 0 0 0 []
  | some o =>
    if nodeWaits s e o e.selected then s
    else
      pruneVersions (modObj (decideNode s n e o e.selected) o.key fun o => { o with retains := o.retains.erase e.selected }) o.key

/-- R328: a conditional node. -/
def execConditionalNode (stream : Nat) (s : State) : Out :=
  match (streamBy s stream).bind (·.entries.head?) with
  | none => .next s
  | some e => if e.active ∧ entryField e 0 2 = 4 then .next (resumeNode s stream e) else onEntry s stream 4 (nodeEntry s)

end Sys2Proof.Machine
end

