-- ==== Sys2Proof/Machine/Sha.lean ====
section
/-!
DEFINITION. SHA-256, which R386, R388 and R390 name: the function of FIPS 180-4 (log entry 40), over whole bytes.
-/

namespace Sys2Proof.Machine

/-- The first constants of the rounds. -/
def shaK0 : List (BitVec 32) :=[
    0x428A2F98, 0x71374491, 0xB5C0FBCF, 0xE9B5DBA5, 0x3956C25B, 0x59F111F1, 0x923F82A4, 0xAB1C5ED5,
    0xD807AA98, 0x12835B01, 0x243185BE, 0x550C7DC3, 0x72BE5D74, 0x80DEB1FE, 0x9BDC06A7, 0xC19BF174,
    0xE49B69C1, 0xEFBE4786, 0x0FC19DC6, 0x240CA1CC, 0x2DE92C6F, 0x4A7484AA, 0x5CB0A9DC, 0x76F988DA,
    0x983E5152, 0xA831C66D, 0xB00327C8, 0xBF597FC7, 0xC6E00BF3, 0xD5A79147, 0x06CA6351, 0x14292967]
/-- The last constants of the rounds. -/
def shaK1 : List (BitVec 32) :=[
    0x27B70A85, 0x2E1B2138, 0x4D2C6DFC, 0x53380D13, 0x650A7354, 0x766A0ABB, 0x81C2C92E, 0x92722C85,
    0xA2BFE8A1, 0xA81A664B, 0xC24B8B70, 0xC76C51A3, 0xD192E819, 0xD6990624, 0xF40E3585, 0x106AA070,
    0x19A4C116, 0x1E376C08, 0x2748774C, 0x34B0BCB5, 0x391C0CB3, 0x4ED8AA4A, 0x5B9CCA4F, 0x682E6FF3,
    0x748F82EE, 0x78A5636F, 0x84C87814, 0x8CC70208, 0x90BEFFFA, 0xA4506CEB, 0xBEF9A3F7, 0xC67178F2]
/-- The initial hash value. -/
def shaInit : List (BitVec 32) := [0x6A09E667, 0xBB67AE85, 0x3C6EF372, 0xA54FF53A, 0x510E527F, 0x9B05688C, 0x1F83D9AB, 0x5BE0CD19]

/-- A word rotated to the right. -/
def rotr (x : BitVec 32) (n : Nat) : BitVec 32 := x.rotateRight n
/-- The small sigma functions. -/
def shaSmall0 (x : BitVec 32) : BitVec 32 := rotr x 7 ^^^ rotr x 18 ^^^ (x >>> 3)
/-- The small sigma functions. -/
def shaSmall1 (x : BitVec 32) : BitVec 32 := rotr x 17 ^^^ rotr x 19 ^^^ (x >>> 10)
/-- The large sigma functions. -/
def shaBig0 (x : BitVec 32) : BitVec 32 := rotr x 2 ^^^ rotr x 13 ^^^ rotr x 22
/-- The large sigma functions. -/
def shaBig1 (x : BitVec 32) : BitVec 32 := rotr x 6 ^^^ rotr x 11 ^^^ rotr x 25

/-- The message schedule, extended by n words. -/
def shaExtend : Nat → List (BitVec 32) → List (BitVec 32)
  | 0, w => w
  | n + 1, w =>
    let t := w.length
    let g := fun i => w.getD (t - i) 0
    shaExtend n (w ++ [shaSmall1 (g 2) + g 7 + shaSmall0 (g 15) + g 16])

/-- One round on the eight working words. -/
def shaRound (v : List (BitVec 32)) (kw : BitVec 32 × BitVec 32) : List (BitVec 32) :=
  match v with
  | [a, b, c, d, e, f, g, h] =>
    let t1 := h + shaBig1 e + ((e &&& f) ^^^ (~~~e &&& g)) + kw.1 + kw.2
    let t2 := shaBig0 a + ((a &&& b) ^^^ (a &&& c) ^^^ (b &&& c))
    [t1 + t2, a, b, c, d + t1, e, f, g]
  | v => v

/-- A word from four bytes, the first the highest. -/
def wordBE (bs : List Byte) : BitVec 32 := BitVec.ofNat 32 (natOfBytes ((bs ++ List.replicate (4 - bs.length) 0).take 4).reverse)

/-- The n words of a run of bytes. -/
def wordsBE : Nat → List Byte → List (BitVec 32)
  | 0, _ => []
  | n + 1, bs => wordBE bs :: wordsBE n (bs.drop 4)

/-- One block of 64 bytes. -/
def shaBlock (h : List (BitVec 32)) (bs : List Byte) : List (BitVec 32) :=
  List.zipWith (· + ·) h (((shaK0 ++ shaK1).zip (shaExtend 48 (wordsBE 16 bs))).foldl shaRound h)

/-- n blocks. -/
def shaBlocks : Nat → List (BitVec 32) → List Byte → List (BitVec 32)
  | 0, h, _ => h
  | n + 1, h, bs => shaBlocks n (shaBlock h (bs.take 64)) (bs.drop 64)

/-- A message padded to whole blocks. -/
def shaPad (bs : List Byte) : List Byte :=
  bs ++ [0x80] ++ List.replicate ((119 - bs.length % 64) % 64) 0 ++ (bytesOfNat 8 (8 * bs.length)).reverse

/-- SHA-256; the digest's first byte is the highest of the number. -/
def sha256 (bs : List Byte) : BitVec 256 :=
  let m := shaPad bs
  BitVec.ofNat 256 ((shaBlocks (m.length / 64) shaInit m).foldl (fun n w => n * 2 ^ 32 + w.toNat) 0)

/-- The 32 bytes of a digest, the highest first. -/
def digestBytes (d : BitVec 256) : List Byte := (bytesOfNat 32 d.toNat).reverse

end Sys2Proof.Machine
end

