-- ==== Sys2Proof/Machine/Host.lean ====
section
/-!
DEFINITION. The virtio devices (R341 to R348): descriptor chains, submit and control requests, host buffers and the event queue;
and the admin queue's SPDM messages and tenant report (R388 to R390).
-/

namespace Sys2Proof.Machine

/-! ## Queues (R341 to R344) -/

/-- R342: the device of a partition makes its queues available. -/
def queuesOpen (s : State) (p : Partition) : Bool := s.device == 1 && p.active && !p.reassigning && p.featuresOk

/-- A request that the device of a partition takes from one of its queues. -/
def onQueue (s : State) (part : Nat) (f : Partition → State) : Out :=
  match partitionBy s part with
  | none => .next s
  | some p => .next (if queuesOpen s p then f p else s)

/-- R344: the bytes of a completion record. -/
def completionBytes : Nat := 24

/-- R344: a chain that is not performed. -/
def malformed (c : Chain) : Bool := decide (c.writable < completionBytes) || decide (1024 < c.bytes.length)

/-- R344: the device-written bytes before the record have room. -/
def dataRoom (c : Chain) : Nat := c.writable - completionBytes

/-- R343: a submit queue holds as many requests that have not completed as it has entries. -/
def queueFull (x : CmdStream) (queue : Nat) : Bool :=
  decide (Config.queueEntries x.partition queue ≤ (x.entries.filter fun e => e.queue == some queue).length)

/-- R343, R344, R345: a submit request appends its stream entry; a malformed one is returned when those before it have been. -/
def execSubmitRequest (part queue : Nat) (chain : Chain) (s : State) : Out :=
  onQueue s part fun p =>
    match (p.streams[queue - 3]?).bind (streamBy s) with
    | none => s
    | some x => if 3 ≤ queue ∧ !queueFull x queue then appendTo s x.number chain.bytes (some queue) (malformed chain) else s

/-! ## Control requests (R346) -/

/-- R346: the tag of a control request. -/
def requestTag (c : Chain) : BitVec 32 := BitVec.ofNat 32 (recordField c.bytes 4 4)

/-- R343, R346: an earlier request of the control queue has not completed: a service without its reply, a release that waits, or a read
that waits and is not this request. -/
def controlBusy (s : State) (p : Partition) (c : Chain) : Bool :=
  s.calls.any (fun c => c.partition == p.number && match c.caller with | .control _ => true | _ => false) ||
    s.objects.any (fun o => o.present && o.partition == p.number && !o.ending.isEmpty) || p.reading.any (· != c)

/-- R344: a control request completed. -/
def completeRequest (s : State) (part : Nat) (tag : BitVec 32) (status detail count : Nat) (data : List Byte) : State :=
  { s with completions := s.completions ++ [⟨part, some 1, none, tag, status, detail, Nat.min count 0xFFFFFFFF, 0, data, false⟩] }

/-- R343, R346: a control request, after those of its queue before it, of an op, with `flags` the bits that its
flags may set and `n` its length; an op outside the table and a field out of range complete it with 0x26. -/
def onControl (s : State) (part : Nat) (c : Chain) (op flags n : Nat) (zeros : List (Nat × Nat)) (f : Partition → State) : Out :=
  onQueue s part fun p =>
    let x := recordField c.bytes 0 2
    if controlBusy s p c then s
    else if malformed c then giveCompletion s (returnedChain part (some 1))
    else if x = 0 ∨ 4 < x then completeRequest s part (requestTag c) 0x26 0 0 []
    else if x ≠ op then s
    else
      match badField ([(0, decide (c.bytes.length = n)), (2, decide (recordField c.bytes 2 2 ≤ flags))] ++
          zeros.map fun z => (z.1, recordField c.bytes z.1 z.2 == 0)) with
      | some i => completeRequest s part (requestTag c) 0x26 i 0 []
      | none => f p

/-- R346: the window index of a new host buffer: one that no host buffer of the partition bears. -/
def pickWindow (s : State) (part : Nat) : Nat :=
  (((List.range (s.objects.length + 1)).map fun i => ((Config.windowIndex s.drawn).toNat + i) % 2 ^ 32).find? fun n =>
    (windowOf s part n).isNone).getD 0

/-- R348: the object of a host buffer. -/
def hostObj (s : State) (part n iova length rights window : Nat) : Obj :=
  let o := withPlane (blankObj s ⟨s.package, n⟩ part .host 0x9 [length])
  { o with
    geometry := BitVec.ofNat 64 window, iova := iova, rights := BitVec.ofNat 128 (rights * 2 ^ (2 * part))
    loc := { o.loc with materialised := true } }

/-- R346, op 1: a host buffer created; its handle is the first device-writable bytes. -/
def createWindow (s : State) (part : Nat) (c : Chain) : State :=
  let f := recordField c.bytes
  let tag := requestTag c
  let window := pickWindow s part
  if f 0x10 8 = 0 ∨ 2 ^ 32 ≤ f 0x10 8 then completeRequest s part tag 0x26 0x10 0 []
  else if 3 < f 0x18 1 then completeRequest s part tag 0x26 0x18 0 []
  else
    match pickNumber s with
    | none => completeRequest s part tag 0x32 0x25 0 []
    | some n =>
      let o := hostObj s part n (f 0x08 8) (f 0x10 8) (f 0x18 1) window
      completeRequest (putObj s o) part tag 0x00 0 window ((bytesOfNat 8 (objHandle o).toNat).take (dataRoom c))

/-- R346, op 1. -/
def execCreateHostBuffer (part : Nat) (chain : Chain) (s : State) : Out :=
  onControl s part chain 1 0 0x20 [(0x19, 7)] fun _ => createWindow s part chain

/-- R346, op 2: a host buffer of the partition asked to end. -/
def askEnd (s : State) (part : Nat) (c : Chain) : State :=
  match resolveHandle s (BitVec.ofNat 64 (recordField c.bytes 8 8)) with
  | .error _ => completeRequest s part (requestTag c) 0x25 8 0 []
  | .ok o =>
    if o.kind = .host ∧ o.partition = part then modObj s o.key fun o => { o with ending := o.ending ++ [requestTag c] }
    else completeRequest s part (requestTag c) 0x25 8 0 []

/-- R346, op 2. -/
def execReleaseHostBuffer (part : Nat) (chain : Chain) (s : State) : Out :=
  onControl s part chain 2 0 0x10 [] fun _ => askEnd s part chain

/-- R348: a command in flight on an object. -/
def cmdNames (k : ObjKey) (c : Cmd) : Bool :=
  !c.done && (needsOf c.op).any fun n => handleKey (needHandle c n) == k

/-- R295, R348: a host buffer ended once no command is in flight on it, and its releases completed. -/
def execHostBufferEnd (obj : ObjKey) (s : State) : Out :=
  match objAt s obj with
  | none => .next s
  | some o =>
    if o.ending.isEmpty || s.cmds.any (cmdNames obj) then .next s
    else .next (o.ending.foldl (fun t tag => completeRequest t o.partition tag 0x00 0 0 []) (destroyNow s o))

/-! ## Reading an object (R318, R346) -/

/-- The bytes of a version, in storage order, shard after shard, as an agent sees them that cannot expand the codec (R318). -/
def versionBytes (s : State) (o : Obj) (st : Store) : List Byte :=
  let m := if o.kind = .host then hostWindow s o else storeBytes o st
  (List.range (shardCount o)).flatMap fun n => readBytes m (shardBase n) (shardBytes o n)

/-- R275: the directory entries of blocks from an offset on. -/
def directory (off : Nat) : List (List Byte) → List Byte
  | [] => []
  | b :: r => bytesOfNat 8 (off + b.length / 8 * 2 ^ 48) ++ directory (off + b.length) r

/-- R318: the image of a compressed version. -/
def rawImage (o : Obj) (st : Store) : List Byte :=
  let blocks := (codedBlocks o st).map paddedBlock
  let n := blocks.length
  bytesOfNat 4 0x4B4C4243 ++ [BitVec.ofNat 8 o.fmt.toNat, if o.epsZero then 1 else 0] ++
    bytesOfNat 2 (if o.epsZero then 0 else (BitVec.ofInt 16 o.epsExp).toNat) ++ bytesOfNat 8 (elemCount o) ++ bytesOfNat 8 n ++
    bytesOfNat 8 (0x20 + 8 * n) ++ directory 0 blocks ++ blocks.flatMap id

/-- R346, op 3: the bytes of a published version, or its image when the request and the driver ask for the raw form. -/
def readVersion (s : State) (p : Partition) (c : Chain) (o : Obj) (v : Nat) : State :=
  let f := recordField c.bytes
  match versionStore o v with
  | none => completeRequest s p.number (requestTag c) 0x32 0x21 0 []
  | some st =>
    let raw := bitOf (f 2 2) 0 && bitOf p.features.toNat 0 && o.compressed
    let all := if raw then rawImage o st else versionBytes s o st
    let out := (all.drop (f 0x18 8)).take (Nat.min (f 0x20 8) (dataRoom c))
    completeRequest s p.number (requestTag c) 0x00 0 out.length out

/-- The first chunk's address, in each shard, of every chunk that holds a byte of a range of a version's bytes in storage order. -/
def rangeAddrs (o : Obj) (off len : Nat) : List Nat :=
  (List.range (shardCount o)).flatMap fun n =>
    let b := ((List.range n).map (shardBytes o)).sum
    (List.range ((shardBytes o n + Config.chunkBytes - 1) / Config.chunkBytes)).filterMap fun i =>
      if b + i * Config.chunkBytes < off + len ∧ off < b + (i + 1) * Config.chunkBytes then some (shardBase n + i * Config.chunkBytes)
      else none

/-- R371: the bytes of a read meet uncorrectable data. -/
def readBad (s : State) (c : Chain) (o : Obj) (v : Nat) : Bool :=
  let f := recordField c.bytes
  (badView s o (some v) (if o.compressed then wholeAddrs o else rangeAddrs o (f 0x18 8) (Nat.min (f 0x20 8) (dataRoom c)))).isSome

/-- R343, R346: a read request that waits keeps its place at the head of the control queue. -/
def holdRead (s : State) (p : Partition) (c : Chain) : State := modPartition s p.number fun p => { p with reading := some c }

/-- R346, op 3: an object that is absent is made present first; a read of uncorrectable data waits (R371). -/
def readRequest (s0 : State) (p : Partition) (c : Chain) : State :=
  let s := modPartition s0 p.number fun p => { p with reading := none }
  let f := recordField c.bytes
  match resolveFor s p.number (BitVec.ofNat 64 (f 8 8)) 1 anyKind with
  | .error _ => completeRequest s p.number (requestTag c) 0x25 8 0 []
  | .ok o =>
    let v := if f 0x10 4 = 0 then o.current else f 0x10 4
    let shards := List.range (shardCount o)
    let t := (shards.find? fun n => absentCause s o n (some v) none != 0).elim s (makePresent s o false)
    match objAt t o.key with
    | none => t
    | some x => if absentAny t x (some v) none shards || readBad t c x v then holdRead t p c else readVersion t p c x v

/-- R346, op 3. -/
def execReadObject (part : Nat) (chain : Chain) (s : State) : Out :=
  onControl s part chain 3 1 0x28 [(0x14, 4)] fun p => readRequest s p chain

/-! ## Services (R346) -/

/-- R346, op 4: a service performed without a call id. -/
def serviceRequest (s : State) (part : Nat) (c : Chain) : State :=
  let n := recordField c.bytes 8 2
  let args := (List.range 6).map fun i => BitVec.ofNat 64 (recordField c.bytes (0x10 + 8 * i) 8)
  if serviceNumbers.contains n then
    { s with nextId := s.nextId + 1, calls := s.calls ++ [⟨s.nextId, part, 0, n, args, .control (requestTag c), none⟩] }
  else completeRequest s part (requestTag c) 0x32 0x24 0 []

/-- R346, op 4. -/
def execService (part : Nat) (chain : Chain) (s : State) : Out :=
  onControl s part chain 4 0 0x40 [(0x0A, 6)] fun _ => serviceRequest s part chain

/-! ## The event queue and the features (R341, R347) -/

/-- R347: the driver supplies buffers, and the held events fill them. -/
def execEventQueueBuffers (part buffers : Nat) (s : State) : Out := onQueue s part fun _ => modPartition s part (fillBuffers buffers)

/-- R341: the features that the device offers. -/
def offered : Nat := 2 ^ 28 + 2 ^ 29 + 2 ^ 32 + 2 ^ 33 + 2 ^ 34 + 2 ^ 0

/-- R341: the features without which FEATURES_OK stays clear, and no feature that is not offered. -/
def featuresAccepted (f : BitVec 64) : Bool :=
  bitOf f.toNat 32 && bitOf f.toNat 33 && f &&& ~~~(BitVec.ofNat 64 offered) == 0

/-- R341, R342: the driver writes its features and FEATURES_OK. -/
def execFeaturesOk (part : Nat) (features : BitVec 64) (s : State) : Out :=
  match partitionBy s part with
  | none => .next s
  | some p =>
    if s.device = 1 ∧ p.active ∧ !p.reassigning then
      .next (modPartition s part fun p =>
        if featuresAccepted features then { p with featuresOk := true, features := features } else { p with featuresOk := false })
    else .next s

/-! ## SPDM (R388, R389) -/

/-- How far a sequence has come. -/
def spdmRank : SpdmState → Nat
  | .none => 0 | .version => 1 | .capabilities => 2 | .algorithms => 3

/-- R344, R388: a response on the admin queue of a partition, and the completion record that ends its request; what it counts as
written is what the model holds of the response (log entry 88). -/
def adminReply (s : State) (part : Nat) (r : AdminReply) : State :=
  { modPartition s part fun p => { p with admin := p.admin ++ [r] } with
    completions := s.completions ++ [⟨part, some 0, none, r.tag, 0x00, 0, 0, 0, r.body, false⟩] }

/-- R389: an ERROR response. -/
def spdmError (s : State) (part : Nat) (q : SpdmRequest) (e : Nat) : State := adminReply s part ⟨q.tag, 0x7F, e, []⟩

/-- R388: the codes of the SPDM requests that the device answers. -/
def spdmCodes : List Nat := [0x84, 0xE1, 0xE3, 0x81, 0x82, 0x83, 0xE0]

/-- R388: an admin request of another op, or with flags that are not zero, completes with 0x26 and the field's offset. -/
def refuseAdmin (s : State) (part : Nat) (tag : BitVec 32) (offset : Nat) : State :=
  { s with completions := s.completions ++ [⟨part, some 0, none, tag, 0x26, offset, 0, 0, [], false⟩] }

/-- R389: an SPDM request of a known code checked: its prerequisite, its version unless it is GET_VERSION, its fields; then
answered. -/
def checkSpdm (s : State) (part : Nat) (q : SpdmRequest) (need : Nat) (anyVersion : Bool) (f : State) (p : Partition) : State :=
  if spdmRank p.spdm < need then spdmError s part q 0x04
  else if !anyVersion && q.version != 0x12 then spdmError s part q 0x41
  else if !q.wellFormed then spdmError s part q 0x01
  else f

/-- R388, R389: an admin request: its op and flags, its code (0x07 where the device answers none such), then what it asks. A
request of another row of the table is not this one's. -/
def onSpdm (s : State) (part : Nat) (q : SpdmRequest) (code need : Nat) (anyVersion : Bool) (f : State) : Out :=
  onQueue s part fun p =>
    if q.op < 1 ∨ 2 < q.op then refuseAdmin s part q.tag 0
    else if q.flags ≠ 0 then refuseAdmin s part q.tag 2
    else if q.op ≠ 1 then s
    else if !spdmCodes.contains q.code then spdmError s part q 0x07
    else if q.code ≠ code then s
    else checkSpdm s part q need anyVersion f p

/-- A sequence that has come to a state, and comes no less far by a request answered before. -/
def reach (x : SpdmState) (p : Partition) : Partition := if spdmRank p.spdm < spdmRank x then { p with spdm := x } else p

/-- A free signature over a digest, as its bytes. -/
def signatureOf (s : State) (d : BitVec 256) : List Byte := bytesOfNat 64 (Config.signature s.drawn d).toNat

/-- The measurement registers' bytes, from register 0 upward. -/
def measureBytes (s : State) : List Byte := s.measure.toList.flatMap digestBytes

/-- R388: GET_VERSION resets the sequence. -/
def execGetVersion (part : Nat) (req : SpdmRequest) (s : State) : Out :=
  onSpdm s part req 0x84 0 true (modPartition (adminReply s part ⟨req.tag, 0x04, 0, [0x12]⟩) part fun p => { p with spdm := .version })

/-- R388: the capabilities: certificates, challenge, and measurements with signature. -/
def execGetCapabilities (part : Nat) (req : SpdmRequest) (s : State) : Out :=
  onSpdm s part req 0xE1 1 false (modPartition (adminReply s part ⟨req.tag, 0x61, 0, bytesOfNat 4 0x16⟩) part (reach .capabilities))

/-- R388: ECDSA P-256 and SHA-256. -/
def execNegotiateAlgorithms (part : Nat) (req : SpdmRequest) (s : State) : Out :=
  onSpdm s part req 0xE3 2 false
    (modPartition (adminReply s part ⟨req.tag, 0x63, 0, bytesOfNat 4 0x10 ++ bytesOfNat 4 0x1⟩) part (reach .algorithms))

/-- R388: the digest of slot 0. -/
def execGetDigests (part : Nat) (req : SpdmRequest) (s : State) : Out :=
  onSpdm s part req 0x81 3 false (adminReply s part ⟨req.tag, 0x01, 0, digestBytes Config.certDigest⟩)

/-- R388: the chain of slot 0. -/
def execGetCertificate (part : Nat) (req : SpdmRequest) (s : State) : Out :=
  onSpdm s part req 0x82 3 false (adminReply s part ⟨req.tag, 0x02, 0, Config.certChain⟩)

/-- R388: a challenge answered with a signature. -/
def execChallenge (part : Nat) (req : SpdmRequest) (s : State) : Out :=
  onSpdm s part req 0x83 3 false
    (adminReply { s with drawn := s.drawn + 1 } part
      ⟨req.tag, 0x03, 0, digestBytes Config.certDigest ++ signatureOf s Config.certDigest⟩)

/-- R388: the measurement registers, signed when requested. -/
def execGetMeasurements (part : Nat) (req : SpdmRequest) (s : State) : Out :=
  onSpdm s part req 0xE0 3 false
    (adminReply { s with drawn := s.drawn + 1 } part
      ⟨req.tag, 0x60, 0, measureBytes s ++ if req.signed then signatureOf s (sha256 (measureBytes s)) else []⟩)

/-! ## The tenant report (R390) -/

/-- R390: the word of a partition in the partition map. -/
def mapWord (s : State) (n : Nat) : Nat :=
  (partitionBy s n).elim 0 fun p => p.clusters.foldl (fun m c => m ||| 2 ^ c) 0 + if p.active then 2 ^ 63 else 0

/-- R390: the partition map. -/
def mapBytes (s : State) : List Byte := (List.range 64).flatMap fun n => bytesOfNat 8 (mapWord s n)

/-- R390: the report before its signature. -/
def reportBody (s : State) (part : Nat) (nonce : BitVec 256) : List Byte :=
  bytesOfNat 4 0x5450574E ++ bytesOfNat 2 1 ++ bytesOfNat 2 Config.part ++ bytesOfNat 2 s.package ++ bytesOfNat 1 part ++ [0] ++
    bytesOfNat 4 Config.firmware.toNat ++ bytesOfNat 32 nonce.toNat ++ measureBytes s ++ digestBytes (sha256 (mapBytes s)) ++
    bytesOfNat 8 s.fuses.toNat ++ bytesOfNat 8 0

/-- R388, R390: the report of the package for a nonce. -/
def execTenantReport (part : Nat) (nonce : BitVec 256) (tag : BitVec 32) (s : State) : Out :=
  onQueue s part fun _ =>
    let b := reportBody s part nonce
    adminReply { s with drawn := s.drawn + 1 } part ⟨tag, 0, 0, b ++ signatureOf s (sha256 b)⟩

end Sys2Proof.Machine
end

