-- ==== Sys2Proof/Machine/Index.lean ====
section
/-!
DEFINITION. The meanings of the index operations (R119 to R123).
-/

namespace Sys2Proof.Machine

/-- A coordinate of a tuple. -/
def coord (q : Vector (BitVec 32) 6) (j : Nat) : Int := (q.getD j 0).toInt
/-- A tuple with one coordinate replaced. -/
def withCoord (q : Vector (BitVec 32) 6) (j : Nat) (x : BitVec 32) : Vector (BitVec 32) 6 := q.setIfInBounds j x

/-- R119: `qset`. -/
def execQset (g : BitVec 5) (q : BitVec 4) (j : BitVec 3) (i : BitVec 14) (s : State) : Out :=
  guarded g s fun _ => .next (setQ s q (withCoord (getQ s q) j.toNat (i.signExtend 32)))
/-- R119: `qadd`, each coordinate saturated. -/
def execQadd (g : BitVec 5) (d a b : BitVec 4) (s : State) : Out :=
  guarded g s fun _ =>
    let x := (Vector.zipWith (fun p r => sat32 (p.toInt + r.toInt)) (getQ s a) (getQ s b))
    .next (raise (setQ s d (x.map (·.1))) (x.toList.foldl (fun f p => f ||| p.2) 0))
/-- R119: `qinc`. -/
def execQinc (g : BitVec 5) (q : BitVec 4) (j : BitVec 3) (i : BitVec 14) (s : State) : Out :=
  guarded g s fun _ =>
    let x := sat32 (coord (getQ s q) j.toNat + i.toInt)
    .next (raise (setQ s q (withCoord (getQ s q) j.toNat x.1)) x.2)
/-- R119, R69: `qcmp`. -/
def execQcmp (g : BitVec 5) (p a b : BitVec 4) (j : BitVec 3) (c : BitVec 4) (s : State) : Out :=
  guarded g s fun _ =>
    .next (setP s p.toNat (cmpInt c.toNat 32 ((getQ s a).getD j.toNat 0).toNat ((getQ s b).getD j.toNat 0).toNat))
/-- R119: `qmov`. -/
def execQmov (g : BitVec 5) (d a : BitVec 4) (s : State) : Out :=
  guarded g s fun _ => .next (setQ s d (getQ s a))
/-- R119: `q2s`. -/
def execQ2s (g : BitVec 5) (d : BitVec 6) (a : BitVec 4) (j : BitVec 3) (s : State) : Out :=
  guarded g s fun _ => .next (setS s d (((getQ s a).getD j.toNat 0).signExtend 64))
/-- R119: `s2q`. -/
def execS2q (g : BitVec 5) (q : BitVec 4) (j : BitVec 3) (a : BitVec 6) (s : State) : Out :=
  guarded g s fun _ =>
    let x := sat32 (getS s a).toInt
    .next (raise (setQ s q (withCoord (getQ s q) j.toNat x.1)) x.2)
/-- R120: `hmov`. -/
def execHmov (g : BitVec 5) (d a : BitVec 5) (s : State) : Out :=
  guarded g s fun _ => .next (setH s d (getH s a))
/-- R120: `hld`. -/
def execHld (g : BitVec 5) (d : BitVec 5) (a : BitVec 6) (s : State) : Out :=
  guarded g s fun _ => .next (setH s d (getS s a))

/-- R121: a field of `len` bits at `lo` replaced. -/
def putField (x lo len v : Nat) : Nat := x - fieldOf x lo len * 2 ^ lo + v * 2 ^ lo

/-- R122: the fields that a selector writes, each with its place, or none when the value is outside their limits. -/
def shapeWrite (sel v x : Nat) : Option Nat :=
  match sel with
  | 0 => if 1 ≤ v ∧ v ≤ 64 then some (putField x 0 7 v) else none
  | 1 => if 1 ≤ v ∧ v ≤ 8192 then some (putField x 8 14 v) else none
  | 2 => if v ≤ 15 then some (putField x 24 4 v) else none
  | 3 => if v < 64 ∧ v % 8 ≤ 5 ∧ v / 8 ≤ 5 then some (putField (putField x 32 3 (v % 8)) 36 3 (v / 8)) else none
  | 4 => if v < 16 ∧ v / 2 ≤ 5 then some (putField (putField x 40 1 (v % 2)) 41 3 (v / 2)) else none
  | 5 => if v < 16 then some (putField (putField x 48 1 (v % 2)) 49 3 (v / 2)) else none
  | _ => if v ≤ 15 then some (putField x 56 4 v) else none

/-- R121: an entry with its valid bit recomputed. -/
def withValid (x : Nat) : BitVec 65 := BitVec.ofNat 65 (x % 2 ^ 64 + (if shapeValidOf x then 2 ^ 64 else 0))

/-- R122: `gset`. -/
def execGset (g : BitVec 5) (d f : BitVec 3) (a : BitVec 6) (s : State) : Out :=
  guarded g s fun _ =>
    let v := (getS s a).toNat
    if f = 7 then
      if v < 8 then .next (setG s d (withValid (getG s (BitVec.ofNat 3 v)).toNat))
      else trapBounds s 2 0x06 (getS s a)
    else
      match shapeWrite f.toNat v (getG s d).toNat with
      | some x => .next (setG s d (withValid x))
      | none => trapBounds s 2 0x06 (getS s a)

/-- R123: `iadd`. -/
def execIadd (g : BitVec 5) (d a b : BitVec 6) (s : State) : Out :=
  guarded g s fun _ => .next (setS s d (getS s a + getS s b))
/-- R123: `imovi`. -/
def execImovi (g : BitVec 5) (d : BitVec 6) (i : BitVec 15) (s : State) : Out :=
  guarded g s fun _ => .next (setS s d (i.signExtend 64))

/-- R123, R236: whether a dot product sends its row right, and the flags. -/
def goesRight (v : FVal) : Bool × Flags :=
  match v with
  | .nan sig => (false, flFormat ||| flIf sig flInvalid)
  | .inf n => (!n, 0)
  | .fin n _ _ => (!n, 0)

/-- R123: `nodc`. -/
def execNodc (g : BitVec 5) (d a b : BitVec 6) (s : State) : Out :=
  guarded g s fun _ =>
    let r := goesRight (decodeFloat f64 (getS s b).toNat)
    .next (raise (setS s d (2 * getS s a + (if r.1 then 2 else 1))) r.2)
/-- R123: `nodl`. -/
def execNodl (g : BitVec 5) (d a : BitVec 6) (s : State) : Out :=
  guarded g s fun _ =>
    let n := (getS s a).toNat
    if 63 < n then .next (raise (setS s d (BitVec.ofNat 64 (2 ^ 63 - 1))) flSaturation)
    else .next (setS s d (BitVec.ofNat 64 (2 ^ n - 1)))

end Sys2Proof.Machine
end

