-- ==== Sys2Proof/Machine/Power.lean ====
section
/-!
DEFINITION. The power arbiter (R391), bring-up (R386, R393, R400), a duplicate package number (R400), and the reassignment and
the making of partitions (R341, R385).
-/

namespace Sys2Proof.Machine

/-! ## The power arbiter (R391) -/

/-- The sum of some numbers. -/
def sumOf (l : List Nat) : Nat := l.foldl (· + ·) 0

/-- The draw of some clusters. -/
def drawOf (draws : List Nat) (cs : List Nat) : Nat := sumOf (cs.map fun c => draws.getD c 0)

/-- R391: the partitions that have a cap. -/
def cappedParts (s : State) : List Partition := s.partitions.filter fun p => p.active && p.cap != 0

/-- R391: the clusters concerned at the end of a window. -/
def concerned (s : State) (draws : List Nat) : List Nat :=
  (List.range Config.clusters).filter fun c =>
    decide (5880 < sumOf draws) || (cappedParts s).any fun p => p.clusters.contains c && decide (p.cap.toNat < drawOf draws p.clusters)

/-- The one of some clusters that draws most, the lowest number on a tie. -/
def heaviest (draws : List Nat) : List Nat → Option Nat
  | [] => none
  | c :: r =>
    match heaviest draws r with
    | none => some c
    | some d => if draws.getD c 0 < draws.getD d 0 then some d else some c

/-- R391: one level raised, or one throttle step taken for the clusters concerned; the package's calm counts from there. -/
def limitPower (draws cs : List Nat) (w : Power) : Power :=
  match heaviest draws (cs.filter fun c => decide (w.level.getD c 0 < 8)) with
  | some c => { w with level := w.level.setIfInBounds c (w.level.getD c 0 + 1), raised := c :: w.raised, calm := 0 }
  | none =>
    let step := cs.filter fun c => decide (w.throttle.getD c 0 < 2)
    if step.isEmpty then w
    else { w with throttle := w.throttle.mapIdx fun c t => if step.contains c then t + 1 else t, stepped := step :: w.stepped
                  taken := w.taken.mapIdx fun c n => if step.contains c then n + 1 else n, calm := 0 }

/-- R391: microseconds of calm after which one level is lowered or one throttle step undone: no more are counted. -/
def calmWindow : Nat := 10

/-- The windows of calm so far. -/
def calmOf (w : Power) (part : Nat) : Nat := ((w.capCalm.find? fun x => x.1 == part).map (·.2)).getD 0

/-- R391: the calm of the package and of each partition with a cap after a window. -/
def countCalm (s : State) (draws : List Nat) (w : Power) : Power :=
  { w with
    calm := if sumOf draws < 5700 then Nat.min calmWindow (w.calm + 1) else 0
    capCalm := (cappedParts s).map fun p =>
      (p.number, if 100 * drawOf draws p.clusters < 95 * p.cap.toNat then Nat.min calmWindow (calmOf w p.number + 1) else 0) }

/-- R378, R391: a microsecond at its level counted for each cluster. -/
def countLevels (w : Power) : Power :=
  { w with residency := w.residency.mapIdx fun c l => l.modify (w.level.getD c 0) (· + 1) }

/-- R391: a window of 1 µs ends: `draws` holds the draw of each cluster in watts, and whatever else of the package draws after
them. -/
def execPowerWindowEnd (draws : List Nat) (s : State) : Out :=
  let w := countCalm s draws { countLevels s.power with estimate := Vector.ofFn fun (i : Fin 48) => draws.getD i 0 % 2 ^ 16 }
  let cs := concerned s draws
  .next { s with micros := s.micros + 1, power := if cs.isEmpty then w else limitPower draws cs w }

/-- R391: 10 µs of calm for a partition with a cap. -/
def capsCalm (s : State) (cs : List Nat) : Bool :=
  (cappedParts s).all fun p => !p.clusters.any cs.contains || decide (calmWindow ≤ calmOf s.power p.number)

/-- 10 µs of calm used. -/
def useCalm (w : Power) : Power := { w with calm := w.calm - calmWindow }

/-- R391: the calm of the partitions of some clusters used. -/
def useCapCalm (s : State) (cs : List Nat) (w : Power) : Power :=
  { w with capCalm := w.capCalm.map fun x =>
      if (partitionBy s x.1).elim false fun p => p.clusters.any cs.contains then (x.1, x.2 - calmWindow) else x }

/-- R391: the throttle step undone next: the last one whose partitions' caps have been calm. -/
def nextUndo (s : State) : Option (List Nat) := s.power.stepped.find? (capsCalm s)

/-- R391: after 10 µs of calm the last throttle step is undone whose partitions have been calm; when no step is left, the level raised
last is lowered. -/
def execPowerRelax (s : State) : Out :=
  let w := s.power
  if w.calm < calmWindow then .next s
  else if w.stepped.isEmpty then
    match w.raised with
    | [] => .next s
    | c :: r => .next { s with power := useCalm { w with level := w.level.setIfInBounds c (w.level.getD c 0 - 1), raised := r } }
  else
    match nextUndo s with
    | none => .next s
    | some cs =>
      .next { s with power := useCapCalm s cs (useCalm
        { w with throttle := w.throttle.mapIdx fun c t => if cs.contains c then t - 1 else t, stepped := w.stepped.erase cs }) }

/-! ## Bring-up (R386, R393, R400) -/

/-- R386: a register extended with a digest. -/
def extend (m d : BitVec 256) : BitVec 256 := sha256 (digestBytes m ++ digestBytes d)

/-- R386: a register extended with digests in order. -/
def extendAll (ds : List (BitVec 256)) : BitVec 256 := ds.foldl extend 0

/-- R387: the fuse state word; its bits 63:8 are zero. -/
def fuseWord (b : BootRecord) : BitVec 64 := b.fuses &&& 0xFF

/-- R374: a cluster's defect word: what is fused or recorded; bits 30:28 are zero. -/
def defectWord (s : State) (b : BootRecord) (i : Nat) : BitVec 32 := (b.defects.getD i 0 ||| s.recorded.getD i 0) &&& 0x8FFFFFFF

/-- R386: the fuse state word and the defect words. -/
def bootWords (s : State) (b : BootRecord) : List Byte :=
  bytesOfNat 8 (fuseWord b).toNat ++ (List.range Config.clusters).flatMap fun i => bytesOfNat 4 (defectWord s b i).toNat

/-- R386, R393: the registers after bring-up has come to a step: step 1 measures the boot loader, step 2 what it starts, step 3 the
words that it loads. The digests come in the order of the registers, four of them for register 4. -/
def measuredBefore (s : State) (step : Nat) (b : BootRecord) : Vector (BitVec 256) 8 :=
  let d := fun i n => extendAll ((b.digests.drop i).take n)
  let at_ := fun k (x : BitVec 256) => if k < step then x else 0
  #v[at_ 1 (d 0 1), at_ 2 (d 1 1), at_ 2 (d 2 1), at_ 2 (d 3 1), at_ 2 (d 4 4), at_ 2 (d 8 1),
    at_ 3 (extend 0 (sha256 (bootWords s b))), 0]

/-- R384, R393: a partition of the stored configuration, with the i-th key drawn. Host memory is the host's and stands. -/
def bootPartition (s : State) (r : PartitionRecord) (i : Nat) : Partition where
  number := r.number
  active := true
  reassigning := false
  clusters := r.clusters
  cap := r.cap
  quotas := r.quotas
  drain := 500
  key := Config.partitionKey (s.drawn + i)
  streams := r.streams
  featuresOk := false
  features := 0
  spdm := .none
  admin := []
  traps := []
  buffers := 0
  pendingEvents := []
  posted := []
  lostEvents := 0
  journal := []
  hostMem := (partitionBy s r.number).elim [] (·.hostMem)
  rejected := (partitionBy s r.number).elim [] (·.rejected)
  reading := none

/-- R320: the streams that a partition has, those of its submit queues among them. -/
def recordStreams (r : PartitionRecord) : List Nat := r.streams ++ r.assigned

/-- R320: the 256 streams, each with its partition. -/
def bootStreams (b : StoredConfig) : List CmdStream :=
  (List.range 256).map fun n => ⟨n, ((b.partitions.find? fun r => (recordStreams r).contains n).map (·.number)).getD 64, [], 0⟩

/-- R265, R320, R330, R342: a partition of a stored configuration: its number, its 1 to 64 submit queues with streams of their own, and
its clusters. -/
def partitionOk (r : PartitionRecord) : Bool :=
  decide (r.number < 64) && r.clusters.all (· < Config.clusters) && (recordStreams r).all (· < 256) &&
    decide (1 ≤ r.streams.length) && decide (r.streams.length ≤ 64) && r.streams.eraseDups.length == r.streams.length

/-- No member of two lists of a list of lists. -/
def disjoint : List (List Nat) → Bool
  | [] => true
  | l :: r => r.all (fun m => !m.any l.contains) && disjoint r

/-- R2: near-tier pages of a die. -/
def diePages : Nat := Config.nearTierPages / 4

/-- R2, R320, R330, R400: a stored configuration that a package can take: its number, partitions that share no number, cluster or
stream, and quotas that the near tier of each die holds (log entry 113). -/
def configOk (c : StoredConfig) : Bool :=
  decide (c.package < 576) && c.partitions.all partitionOk && disjoint (c.partitions.map fun r => [r.number]) &&
    disjoint (c.partitions.map (·.clusters)) && disjoint (c.partitions.map recordStreams) &&
    (List.range 4).all fun d => decide ((c.partitions.map fun r => r.quotas.getD d 0).sum ≤ diePages)

/-- R342, R347: a change of state told to every partition. -/
def tellState (s : State) (state : Nat) : State :=
  s.partitions.foldl (fun t p => if p.active then postEvent t p.number 3 0 (bytesOfNat 1 state) else t) s

/-- R400: the stored configuration: the one that the package has been provisioned with, or the record's. -/
def configOf (s : State) (b : BootRecord) : StoredConfig := s.stored.getD b.config

/-- What stands over a reset: the records of the root of trust (R374, R400), the model's own counts and the turns to come. -/
def afterReset (s : State) (b : BootRecord) : State :=
  { State.reset with
    nextId := s.nextId, drawn := s.drawn, schedule := s.schedule, recorded := s.recorded, stored := some (configOf s b) }

/-- R393: steps 1 to 3 done. -/
def bootMemory (s : State) (b : BootRecord) (step : Nat) : State :=
  { afterReset s b with
    measure := measuredBefore s step b, fuses := fuseWord b
    defects := if 3 < step then Vector.ofFn fun (i : Fin 48) => defectWord s b i else State.reset.defects
    partitions := if 4 < step then [] else (s.partitions.map fun p => bootPartition s ⟨p.number, [], 0, [], [], []⟩ 0).map fun p =>
      { p with active := false, key := 0 } }

/-- R393, R400: step 4 done. -/
def bootConfig (s : State) (b : BootRecord) (step : Nat) : State :=
  let c := configOf s b
  { bootMemory s b step with
    drawn := s.drawn + c.partitions.length, package := c.package, owner := c.owner, pools := c.pools, ports := fourPorts c.ports
    macBase := c.macBase, streams := bootStreams c
    partitions := c.partitions.zipIdx.map fun r => bootPartition s r.1 r.2 }

/-- R393: the step that fails: the one that the record names, or step 4 of a configuration that the package cannot take (log entry
113). -/
def failingStep (s : State) (b : BootRecord) : Option Nat :=
  match b.failStep with
  | some k => if k ≤ 4 ∨ configOk (configOf s b) then some k else some 4
  | none => if configOk (configOf s b) then none else some 4

/-- R393: the device comes up, or a step fails and state 3 holds. -/
def execPackageReset (boot : BootRecord) (s : State) : Out :=
  match failingStep s boot with
  | none => .next (tellState { bootConfig s boot 6 with device := 1 } 1)
  | some k => .next { (if 4 < k then bootConfig s boot k else bootMemory s boot k) with device := 3 }

/-- R342, R400: another package holds the number: the package joins no domain, its state becomes 3, and FEATURES_OK is clear. -/
def execDuplicatePackageNumber (s : State) : Out :=
  if s.device = 1 then
    let t := tellState s 3
    .next { t with
      device := 3, lostLinks := (List.range 576).filter fun p => p != s.package
      partitions := t.partitions.map fun p => { p with featuresOk := false } }
  else .next s

/-! ## Reassignment of a partition (R385) -/

/-- The live launches of a partition. -/
def liveLaunches (s : State) (part : Nat) : List Launch := s.launches.filter fun l => l.partition == part && !l.ended

/-- R362, R385: the record of a launch that ends with its partition and not by a trap: the manual gives it none of the classes 0x01 to
0x0B, and no other; which of them it bears and its other fields are free (log entry 114). -/
def noRecord (s : State) : TrapRecord :=
  let f := Config.reassignField s.drawn
  ⟨1 + (f 0).setWidth 8 % 11, (f 1).setWidth 8, (f 2).setWidth 8, (f 3).setWidth 32, (f 4).setWidth 32, (f 5).setWidth 32, f 6⟩

/-- R367, R385: a launch ended because its partition is taken away. -/
def endReassigned (s : State) (l : Launch) : State :=
  endLaunch { s with drawn := s.drawn + 1 } l (endingBy l (l.firstTrap.getD (noRecord s)))

/-- R385, first step: the device state becomes 2 and every launch ends. -/
def beginReassign (s : State) (part : Nat) : State :=
  let s1 := postEvent ((liveLaunches s part).foldl endReassigned s) part 3 0 (bytesOfNat 1 2)
  modPartition s1 part fun p => { p with reassigning := true, featuresOk := false }

/-- A command in flight of a launch of a partition. -/
def cmdOfPart (s : State) (part : Nat) (c : Cmd) : Bool :=
  !c.done && (coreOf s c.core).elim false fun d => (launchBy s d.launch).elim false fun l => l.partition == part

/-- R385: the clusters of the new assignment: none of another partition. -/
def mayAssign (s : State) (part : Nat) (cs : List Nat) : Bool :=
  cs.all (fun c => decide (c < Config.clusters)) && cs.eraseDups.length == cs.length &&
    s.partitions.all fun p => p.number == part || !p.active || !p.clusters.any cs.contains

/-- R341, R384, R385: the partition with its new key and clusters, and nothing of its last holder; without clusters it is removed. -/
def renewed (key : BitVec 512) (clusters : List Nat) (cap : BitVec 16) (p : Partition) : Partition :=
  { p with
    active := !clusters.isEmpty, reassigning := false, clusters := clusters, cap := cap, key := key, featuresOk := false, features := 0
    spdm := .none, admin := [], traps := [], buffers := 0, pendingEvents := [], posted := [], lostEvents := 0, journal := []
    reading := none }

/-- R385, second and third step: clusters cleared, cache lines invalidated, key replaced, storage released. -/
def finishReassign (s : State) (part : Nat) (clusters : List Nat) (cap : BitVec 16) : State :=
  let gone := s.launches.filter fun l => l.partition == part
  let s0 := gone.foldl (fun t l => freeCores (finishLaunch t l) l.id) s
  let mine := s0.objects.filter fun o => o.present && o.partition == part
  let s1 := mine.foldl destroyNow s0
  let s2 := { s1 with
    drawn := s.drawn + 1
    launches := s1.launches.filter fun l => l.partition != part
    calls := s1.calls.filter fun c => c.partition != part
    streams := s1.streams.map fun x => if x.partition = part then { x with entries := [], skip := 0 } else x
    xlats := s1.xlats.filter fun x => !mine.any fun o => o.key == x.obj }
  postEvent (modPartition s2 part (renewed (Config.partitionKey s.drawn) clusters cap)) part 3 0
    (bytesOfNat 1 (if clusters.isEmpty then 4 else 1))

/-- R320: the streams that no partition has. -/
def freeStreams (s : State) : List Nat := (s.streams.filter fun x => x.partition == 64).map (·.number)

/-- R320, R342: the stream of a new partition's submit queue: one that no partition has. -/
def newStream (s : State) : Option Nat := (freeStreams s)[Config.newStream s.drawn % (freeStreams s).length]?

/-- R341, R342, R384: a partition created: its key drawn, one submit queue with a stream, and its quotas as Rilsia sets them. Near-tier
quotas stay within the tier (R2). -/
def createPartition (s : State) (part : Nat) (clusters : List Nat) (cap : BitVec 16) (stream : Nat) : State :=
  let left := fun d => diePages - ((s.partitions.filter (·.active)).map fun p => p.quotas.getD d 0).sum
  let quotas := (List.range 4).map fun d => Nat.min (Config.newQuota part d) (left d)
  let s1 := { modStream s stream fun x => { x with partition := part } with
    drawn := s.drawn + 1, partitions := s.partitions ++ [bootPartition s ⟨part, clusters, cap, quotas, [stream], []⟩ 0] }
  postEvent s1 part 3 0 (bytesOfNat 1 1)

/-- R341, R384, R385: Rilsia reassigns a partition: its launches end first; once no command of it is in flight, the rest follows. A
partition that does not exist is created. -/
def execPartitionReassignment (part : Nat) (clusters : List Nat) (cap : BitVec 16) (s : State) : Out :=
  match partitionBy s part with
  | none =>
    match newStream s with
    | none => .next s
    | some n =>
      .next (if s.device = 1 ∧ part < 64 ∧ !clusters.isEmpty ∧ mayAssign s part clusters then createPartition s part clusters cap n else s)
  | some p =>
    if s.device ≠ 1 ∨ !mayAssign s part clusters then .next s
    else if !p.reassigning || !(liveLaunches s part).isEmpty then .next (beginReassign s part)
    else if s.cmds.any (cmdOfPart s part) then .next s
    else .next (finishReassign s part clusters cap)

end Sys2Proof.Machine
end

