-- ==== Sys2Proof/Machine/Seq.lean ====
section
/-!
DEFINITION. The meanings of the sequencer's operations (R61, R88 to R110).
-/

namespace Sys2Proof.Machine

/-- R61: nothing. -/
def execNop (s : State) : Out := .next s

/-- R90: the target of a taken branch, from its offset. -/
def branchTarget (s : State) (off : Int) : Int := ownIndex s + off

/-- R90: `br`: to own index + offset when the predicate holds. -/
def execBr (p : BitVec 1) (c : BitVec 4) (o : BitVec 21) (s : State) : Out :=
  .next (if predOn s p c then jump s (branchTarget s o.toInt) else s)

/-- R90, R91: `brp`: as `br`; only the fetch differs. -/
def execBrp (p : BitVec 1) (c : BitVec 4) (o : BitVec 21) (s : State) : Out :=
  .next (if predOn s p c then jump s (branchTarget s o.toInt) else s)

/-- R90: `brx`: the index register, read as signed 64 bits, is added. -/
def execBrx (p : BitVec 1) (c : BitVec 4) (x : BitVec 6) (o : BitVec 15) (s : State) : Out :=
  .next (if predOn s p c then jump s (branchTarget s (o.toInt + (getS s x).toInt)) else s)

/-- R90: `call`: own index + 1 pushed on a stack of 16 entries. -/
def execCall (p : BitVec 1) (c : BitVec 4) (o : BitVec 21) (s : State) : Out :=
  if !predOn s p c then .next s
  else if 16 ≤ (regs s).returns.length then trapBounds s 0 0x03 (BitVec.ofNat 64 (regs s).returns.length)
  else
    let ret := BitVec.ofNat 32 (ownIndex s + 1)
    .next (jumpCall (modLive s fun r => { r with returns := ret :: r.returns }) (branchTarget s o.toInt))

/-- R90: `ret`: to the popped index. -/
def execRet (p : BitVec 1) (c : BitVec 4) (s : State) : Out :=
  if !predOn s p c then .next s
  else
    match (regs s).returns with
    | [] => trapBounds s 0 0x04 0
    | a :: r => .next (jumpCall (modLive s fun x => { x with returns := r }) a.toNat)

/-- A loop counter written (R92). -/
def setCounter (s : State) (l : BitVec 3) (x : BitVec 32) : State :=
  modLive s fun r => { r with n := r.n.setIfInBounds l.toNat x }

/-- R92: `nest` with a count. -/
def execNest (l : BitVec 3) (c : BitVec 16) (s : State) : Out := .next (setCounter s l (c.zeroExtend 32))

/-- R92: `nest` with a register, saturated to 32 bits. -/
def execNestReg (l : BitVec 3) (r : BitVec 6) (s : State) : Out :=
  let x := satU32 (getS s r).toNat
  .next (raise (setCounter s l x.1) x.2)

/-- R93: `lbody`: a body of the n + 1 bundles that follow. -/
def execLbody (l : BitVec 3) (n : BitVec 5) (s : State) : Out :=
  let first := ownIndex s + 1
  let last := ownIndex s + n.toNat + 1
  if codeBundles s ≤ last then trapBounds s 0 0x05 (BitVec.ofNat 64 last)
  else if crossesBody (regs s) l.toNat first last then trapIllegal s 0 0x0F l.toNat
  else if counterOf (regs s) l.toNat = 0 then .next (retireTo s (last + 1))
  else
    .next (modLive s fun r =>
      { r with loops := r.loops.setIfInBounds l.toNat ⟨true, BitVec.ofNat 32 first, BitVec.ofNat 32 last⟩ })

/-- R96: `lbrk`: the level's body and those nested in it end; issue goes on after its last bundle. -/
def execLbrk (p : BitVec 1) (c : BitVec 4) (l : BitVec 3) (s : State) : Out :=
  let b := loopOf (regs s) l.toNat
  if !predOn s p c || !b.active then .next s
  else .next (retireTo (modLive s (breakBodies l.toNat)) (b.last.toNat + 1))

/-- R97: `rot`: both rotation bases decremented. -/
def execRot (s : State) : Out :=
  .next (modLive s fun r => { r with vrot := (regs s).vrot - 1, prot := (regs s).prot - 1 })

/-- R98: `chkpt`. -/
def execChkpt (s : State) : Out := .next (closeAdvance s)

/-- R102: the estimate that `mark` writes. -/
def markEta (x : BitVec 64) : BitVec 32 := if 0xFFFFFFFF ≤ x.toNat then 0xFFFFFFFF else x.truncate 32

/-- R102, R268, R270: `mark`. -/
def execMark (k : BitVec 16) (r : BitVec 6) (s : State) : Out :=
  .next (markRetires s (.mark k r) k.toNat (markEta (getS s r)))

/-- R103: `bar`. -/
def execBar (s : State) : Out := .next (closeWaiting s .bar)

/-- R104: `sstep`. -/
def execSstep (s : State) : Out := .next (closeWaiting s .sstep)

/-- R105: `wait`; issue moves on (R30). -/
def execWait (t : BitVec 6) (s : State) : Out :=
  .next (modCore (closeWaiting s (.wait t)) fun c => { c with yielded := true })

/-- R106: `yield`: issue moves on after the bundle. -/
def execYield (s : State) : Out := .next (modCore s fun c => { c with yielded := true })

/-- R107: `exit`. -/
def execExit (s : State) : Out := .next (closeWith (markPcSet s) (ownIndex s) .exit)

/-- R108: `trap`: a service trap whose detail holds the code. -/
def execTrap (c : BitVec 16) (s : State) : Out := trapOut s 0x0B 0 (0x01 + 2 ^ 16 * c.toNat) 0

/-- R110: `bktj`: to the first bucket that holds the count, rounded up; `p` true on falling through. -/
def execBktj (r : BitVec 6) (p : BitVec 4) (s : State) : Out :=
  match bucketFor (regs s) (getS s r).toNat with
  | some b => .next (jump (setP (setS s r (b.limit.zeroExtend 64)) p.toNat false) (b.target.getD 0))
  | none => .next (setP s p.toNat true)

/-- R109: `setb`: a bucket's limit, saturated, and target. -/
def execSetb (b : BitVec 3) (r : BitVec 6) (o : BitVec 17) (s : State) : Out :=
  let x := satU32 (getS s r).toNat
  .next (raise (modLive s fun g => { g with b := g.b.set b.toNat ⟨x.1, some (branchTarget s o.toInt)⟩ }) x.2)

end Sys2Proof.Machine
end

