-- ==== Sys2Proof/Machine/Vector.lean ====
section
/-!
DEFINITION. The meanings of the vector operations (R125 to R152).
-/

namespace Sys2Proof.Machine

/-- R129: `vadd`. -/
def execVadd (g : BitVec 5) (d a b : BitVec 6) (t : BitVec 2) (m : BitVec 1) (s : State) : Out :=
  vecFloat g d a b t m (fun f r i x y _ => addRound f r i x y) s

/-- R129: `vsub`. -/
def execVsub (g : BitVec 5) (d a b : BitVec 6) (t : BitVec 2) (m : BitVec 1) (s : State) : Out :=
  vecFloat g d a b t m (fun f r i x y _ => addRound f r i x y.negate) s

/-- R129: `vmul`. -/
def execVmul (g : BitVec 5) (d a b : BitVec 6) (t : BitVec 2) (m : BitVec 1) (s : State) : Out :=
  vecFloat g d a b t m (fun f r i x y _ => mulRound f r i x y) s

/-- R129: `vfma`. -/
def execVfma (g : BitVec 5) (d a b : BitVec 6) (t : BitVec 2) (m : BitVec 1) (s : State) : Out :=
  vecFloat g d a b t m (fun f r i x y z => fmaRound f r i x y z) s

/-- R129: `vfms`. -/
def execVfms (g : BitVec 5) (d a b : BitVec 6) (t : BitVec 2) (m : BitVec 1) (s : State) : Out :=
  vecFloat g d a b t m (fun f r i x y z => fmaRound f r i x y z.negate) s

/-- R129: `vfnma`. -/
def execVfnma (g : BitVec 5) (d a b : BitVec 6) (t : BitVec 2) (m : BitVec 1) (s : State) : Out :=
  vecFloat g d a b t m (fun f r i x y z => fmaRound f r i x.negate y z) s

/-- R129: `vdiv`. -/
def execVdiv (g : BitVec 5) (d a b : BitVec 6) (t : BitVec 2) (m : BitVec 1) (s : State) : Out :=
  vecFloat g d a b t m (fun f r i x y _ => divRound f r i x y) s

/-- R130: `vsqrt`. -/
def execVsqrt (g : BitVec 5) (d a : BitVec 6) (t : BitVec 2) (m : BitVec 1) (s : State) : Out :=
  vecFloat g d a a t m (fun f r i x _ _ => sqrtRound f r i x) s

/-- R129, R52: `vmin`. -/
def execVmin (g : BitVec 5) (d a b : BitVec 6) (t : BitVec 2) (m : BitVec 1) (s : State) : Out :=
  vecCodes g d a b t m (fun f x y => minMaxCode f false x y) s

/-- R129, R52: `vmax`. -/
def execVmax (g : BitVec 5) (d a b : BitVec 6) (t : BitVec 2) (m : BitVec 1) (s : State) : Out :=
  vecCodes g d a b t m (fun f x y => minMaxCode f true x y) s

/-- R130: `vabs` clears the sign bit. -/
def execVabs (g : BitVec 5) (d a : BitVec 6) (t : BitVec 2) (m : BitVec 1) (s : State) : Out :=
  vecCodes g d a a t m (fun f x _ => (x % 2 ^ (f.width - 1), 0)) s

/-- R130: `vneg` inverts the sign bit. -/
def execVneg (g : BitVec 5) (d a : BitVec 6) (t : BitVec 2) (m : BitVec 1) (s : State) : Out :=
  vecCodes g d a a t m (fun f x _ => ((x + 2 ^ (f.width - 1)) % 2 ^ f.width, 0)) s

/-- R129: `vcpys`, the magnitude of a with the sign of b. -/
def execVcpys (g : BitVec 5) (d a b : BitVec 6) (t : BitVec 2) (m : BitVec 1) (s : State) : Out :=
  vecCodes g d a b t m (fun f x y => (x % 2 ^ (f.width - 1) + signCode f (bitOf y (f.width - 1)), 0)) s

/-- R133: `vcmp`; bits of inactive lanes and beyond the lanes are 0. -/
def execVcmp (g : BitVec 5) (m : BitVec 3) (a b : BitVec 6) (c : BitVec 3) (t : BitVec 2) (k : BitVec 1) (s : State) : Out :=
  guarded g s fun _ =>
    let w := if t.toNat % 2 = 0 then 64 else 32
    let r := ((vLanes w (getV s a)).zip (vLanes w (getV s b))).zipIdx.map fun p =>
      if laneOn s k w p.2 then cmpLane t.toNat c.toNat p.1.1 p.1.2 else (false, 0)
    .next (raise (setM s m (BitVec.ofNat 64 (packBits (r.map (·.1))))) (orFlags (r.map (·.2))))
/-- R134, R126: `vsel`, by the bits of `m0`. -/
def execVsel (g : BitVec 5) (d a b : BitVec 6) (t : BitVec 2) (s : State) : Out :=
  guarded g s fun _ =>
    let w := widthLane t.toNat
    vecMap s d w 0 (fun i _ x y => (if laneOn s 1 w i then x else y, 0)) (getV s a) (getV s b)
/-- R135: `vcvt`; t is the target's code and c the source's. -/
def execVcvt (g : BitVec 5) (d a : BitVec 6) (t c : BitVec 4) (m : BitVec 1) (s : State) : Out :=
  guarded g s fun _ => convertLanes s d a t.toNat c.toNat m
/-- R131: `vrnd`, in the mode of f, 6 being the mode of `rmode`. -/
def execVrnd (g : BitVec 5) (d a : BitVec 6) (f : BitVec 4) (t : BitVec 2) (m : BitVec 1) (s : State) : Out :=
  guarded g s fun _ =>
    let r : Rounding := if f = 6 then rounding s else ⟨f.toNat, (rounding s).seed⟩
    vecMap s d (floatLane t.toNat) m (fun i _ x _ => roundIntegral (laneFmt t.toNat) r i x) (getV s a) (getV s a)
/-- R132, R58, R59: `vxf`; a code that version 1 does not define is the illegal-bundle trap "math version". -/
def execVxf (g : BitVec 5) (d a : BitVec 6) (f : BitVec 4) (t : BitVec 2) (m : BitVec 1) (s : State) : Out :=
  guarded g s fun _ =>
    if 0xB ≤ f.toNat then trapIllegal s 3 0x0A f.toNat
    else
      vecMap s d (floatLane t.toNat) m
        (fun _ _ x _ => mathFun (laneFmt t.toNat) f.toNat (decodeFloat (laneFmt t.toNat) x)) (getV s a) (getV s a)

/-- R136: `viadd`. -/
def execViadd (g : BitVec 5) (d a b : BitVec 6) (t : BitVec 2) (m : BitVec 1) (s : State) : Out :=
  vecInt g d a b (intLane t.toNat) m (fun w x y => (x + y) % 2 ^ w) s

/-- R136: `visub`. -/
def execVisub (g : BitVec 5) (d a b : BitVec 6) (t : BitVec 2) (m : BitVec 1) (s : State) : Out :=
  vecInt g d a b (intLane t.toNat) m (fun w x y => (x + 2 ^ w - y) % 2 ^ w) s

/-- R136: `vimul`. -/
def execVimul (g : BitVec 5) (d a b : BitVec 6) (t : BitVec 2) (m : BitVec 1) (s : State) : Out :=
  vecInt g d a b (intLane t.toNat) m (fun w x y => x * y % 2 ^ w) s

/-- R136: `vimulh`. -/
def execVimulh (g : BitVec 5) (d a b : BitVec 6) (t : BitVec 2) (m : BitVec 1) (s : State) : Out :=
  vecInt g d a b (intLane t.toNat) m (mulHigh true) s

/-- R137: `vand`. -/
def execVand (g : BitVec 5) (d a b : BitVec 6) (m : BitVec 1) (s : State) : Out :=
  vecInt g d a b 64 m (fun _ x y => x &&& y) s

/-- R137: `vor`. -/
def execVor (g : BitVec 5) (d a b : BitVec 6) (m : BitVec 1) (s : State) : Out :=
  vecInt g d a b 64 m (fun _ x y => x ||| y) s

/-- R137: `vxor`. -/
def execVxor (g : BitVec 5) (d a b : BitVec 6) (m : BitVec 1) (s : State) : Out :=
  vecInt g d a b 64 m (fun _ x y => x ^^^ y) s

/-- R137: `vnot`. -/
def execVnot (g : BitVec 5) (d a : BitVec 6) (m : BitVec 1) (s : State) : Out :=
  vecInt g d a a 64 m (fun w x _ => 2 ^ w - 1 - x) s

/-- R136: `vshl`. -/
def execVshl (g : BitVec 5) (d a b : BitVec 6) (t : BitVec 2) (m : BitVec 1) (s : State) : Out :=
  vecInt g d a b (intLane t.toNat) m (fun w x y => x * 2 ^ (y % w) % 2 ^ w) s

/-- R136: `vshr`. -/
def execVshr (g : BitVec 5) (d a b : BitVec 6) (t : BitVec 2) (m : BitVec 1) (s : State) : Out :=
  vecInt g d a b (intLane t.toNat) m (fun w x y => x / 2 ^ (y % w)) s

/-- R136: `vsar`. -/
def execVsar (g : BitVec 5) (d a b : BitVec 6) (t : BitVec 2) (m : BitVec 1) (s : State) : Out :=
  vecInt g d a b (intLane t.toNat) m sarCode s

/-- R136: `vimin`. -/
def execVimin (g : BitVec 5) (d a b : BitVec 6) (t : BitVec 2) (m : BitVec 1) (s : State) : Out :=
  vecInt g d a b (intLane t.toNat) m (minMaxCodeInt true false) s

/-- R136: `vimax`. -/
def execVimax (g : BitVec 5) (d a b : BitVec 6) (t : BitVec 2) (m : BitVec 1) (s : State) : Out :=
  vecInt g d a b (intLane t.toNat) m (minMaxCodeInt true true) s

/-- R136: `viminn`. -/
def execViminn (g : BitVec 5) (d a b : BitVec 6) (t : BitVec 2) (m : BitVec 1) (s : State) : Out :=
  vecInt g d a b (intLane t.toNat) m (minMaxCodeInt false false) s

/-- R136: `vimaxn`. -/
def execVimaxn (g : BitVec 5) (d a b : BitVec 6) (t : BitVec 2) (m : BitVec 1) (s : State) : Out :=
  vecInt g d a b (intLane t.toNat) m (minMaxCodeInt false true) s

/-- R136: `vpopc`. -/
def execVpopc (g : BitVec 5) (d a : BitVec 6) (t : BitVec 2) (m : BitVec 1) (s : State) : Out :=
  vecInt g d a a (intLane t.toNat) m (fun w x _ => popcCode w x) s

/-- R136: `vclz`. -/
def execVclz (g : BitVec 5) (d a : BitVec 6) (t : BitVec 2) (m : BitVec 1) (s : State) : Out :=
  vecInt g d a a (intLane t.toNat) m (fun w x _ => clzCode w x) s

/-- R137: `vmov`. -/
def execVmov (g : BitVec 5) (d a : BitVec 6) (m : BitVec 1) (s : State) : Out :=
  vecInt g d a a 64 m (fun _ x _ => x) s

/-- R138: `vbcast`. -/
def execVbcast (g : BitVec 5) (d a : BitVec 6) (t : BitVec 2) (m : BitVec 1) (s : State) : Out :=
  guarded g s fun _ =>
    let w := widthLane t.toNat
    vecMap s d w m (fun _ _ _ _ => ((getS s a).toNat % 2 ^ w, 0)) 0 0
/-- R138: `vins` into lane b. -/
def execVins (g : BitVec 5) (d a b : BitVec 6) (t : BitVec 2) (s : State) : Out :=
  guarded g s fun _ =>
    let w := widthLane t.toNat
    vecMap s d w 0 (fun i z _ _ => (if i = b.toNat then (getS s a).toNat % 2 ^ w else z, 0)) 0 0
/-- R138: `vext` of lane b. -/
def execVext (g : BitVec 5) (d a b : BitVec 6) (t : BitVec 2) (s : State) : Out :=
  guarded g s fun _ =>
    let w := widthLane t.toNat
    .next (setS s d (BitVec.ofNat 64 (fieldOf (getV s a).toNat (b.toNat * w) w)))
/-- R139: `vperm`, masked by groups of eight bytes. -/
def execVperm (g : BitVec 5) (d a b : BitVec 6) (m : BitVec 1) (s : State) : Out :=
  guarded g s fun _ =>
    let src := vLanes 8 (getV s a)
    let x := vPack 8 ((vLanes 8 (getV s b)).map fun i => src.getD i 0)
    vecMap s d 64 m (fun _ _ x _ => (x, 0)) x x
/-- R140: `vslide` by the signed field b. -/
def execVslide (g : BitVec 5) (d a b : BitVec 6) (t : BitVec 2) (m : BitVec 1) (s : State) : Out :=
  guarded g s fun _ =>
    let w := widthLane t.toNat
    let src := vLanes w (getV s a)
    vecMap s d w m (fun i _ _ _ =>
      let j := (i : Int) + b.toInt
      (if j < 0 then 0 else src.getD j.toNat 0, 0)) 0 0
/-- R141: `vzip` into vd and the register after it. -/
def execVzip (g : BitVec 5) (d a b : BitVec 6) (s : State) : Out :=
  guarded g s fun _ =>
    let x := interleave (vLanes 32 (getV s a)) (vLanes 32 (getV s b))
    .next (setVAt (setV s d (vPack 32 (x.take 64))) (d.toNat + 1) (vPack 32 (x.drop 64)))
/-- R141: `vunzip`. -/
def execVunzip (g : BitVec 5) (d a b : BitVec 6) (s : State) : Out :=
  guarded g s fun _ =>
    let x := vLanes 32 (getV s a) ++ vLanes 32 (getV s b)
    .next (setVAt (setV s d (vPack 32 (evens x))) (d.toNat + 1) (vPack 32 (evens (x.drop 1))))
/-- R142: `vcompress`. -/
def execVcompress (g : BitVec 5) (d a : BitVec 6) (t : BitVec 2) (s : State) : Out :=
  guarded g s fun _ =>
    let w := widthLane t.toNat
    .next (setV s d (vPack w (compressLanes (maskBits (getM s 0) (2048 / w)) (vLanes w (getV s a)))))
/-- R142: `vexpand`. -/
def execVexpand (g : BitVec 5) (d a : BitVec 6) (t : BitVec 2) (s : State) : Out :=
  guarded g s fun _ =>
    let w := widthLane t.toNat
    .next (setV s d (vPack w (expandLanes (maskBits (getM s 0) (2048 / w)) (vLanes w (getV s a)))))
/-- R144, R145: `vred`; a signed 32-bit integer result is sign-extended. -/
def execVred (g : BitVec 5) (d a : BitVec 6) (f : BitVec 4) (t : BitVec 2) (m : BitVec 1) (s : State) : Out :=
  guarded g s fun _ =>
    let x := treeReduce (combine f.toNat t.toNat (rounding s)) 7 1 (enterLanes s a f.toNat t.toNat m)
    let signed := decide (4 ≤ f.toNat ∧ f.toNat ≠ 7 ∧ f.toNat ≠ 8)
    .next (raise (setS s d (extendTo64 signed (if t = 0 then 64 else 32) x.1)) x.2)
/-- R146, R56: `vscan`; every lane is written. -/
def execVscan (g : BitVec 5) (d a : BitVec 6) (f : BitVec 4) (t : BitVec 2) (m : BitVec 1) (s : State) : Out :=
  guarded g s fun _ =>
    let x := scanSteps (combine f.toNat t.toNat (rounding s)) (if t = 0 then 5 else 6) 0
      (enterLanes s a f.toNat t.toNat m)
    .next (raise (setV s d (vPack (if t = 0 then 64 else 32) x.1)) x.2)
/-- R143: `mand`. -/
def execMand (g : BitVec 5) (d a b : BitVec 3) (s : State) : Out :=
  guarded g s fun _ => .next (setM s d (getM s a &&& getM s b))
/-- R143: `mor`. -/
def execMor (g : BitVec 5) (d a b : BitVec 3) (s : State) : Out :=
  guarded g s fun _ => .next (setM s d (getM s a ||| getM s b))
/-- R143: `mxor`. -/
def execMxor (g : BitVec 5) (d a b : BitVec 3) (s : State) : Out :=
  guarded g s fun _ => .next (setM s d (getM s a ^^^ getM s b))
/-- R143: `mnot`. -/
def execMnot (g : BitVec 5) (d a : BitVec 3) (s : State) : Out := guarded g s fun _ => .next (setM s d (~~~getM s a))
/-- R143: `mpop`. -/
def execMpop (g : BitVec 5) (d : BitVec 6) (a : BitVec 3) (s : State) : Out :=
  guarded g s fun _ => .next (setS s d (BitVec.ofNat 64 (popcCode 64 (getM s a).toNat)))
/-- R143: `mfirst`; 64 for an empty mask. -/
def execMfirst (g : BitVec 5) (d : BitVec 6) (a : BitVec 3) (s : State) : Out :=
  guarded g s fun _ => .next (setS s d (BitVec.ofNat 64 (ctzFrom 64 (getM s a).toNat 64)))

/-- R147: one bin's new count. -/
def histCount (bins : List Nat) (j old : Nat) : Nat × Flags :=
  let n := old + (bins.filter (· == j)).length
  if n ≤ 0xFFFFFFFF then (n, 0) else (0xFFFFFFFF, flSaturation)

/-- R147: `vhist`. -/
def execVhist (g : BitVec 5) (d a : BitVec 6) (t : BitVec 2) (m : BitVec 1) (s : State) : Out :=
  guarded g s fun _ =>
    let w := floatLane t.toNat
    let on := (vLanes w (getV s a)).zipIdx.filter fun p => laneOn s m w p.2
    let bins := on.map fun p => histBin t.toNat p.1
    let r := (vLanes 32 (getV s d)).zipIdx.map fun p => histCount bins p.2 p.1
    .next (raise (setV s d (vPack 32 (r.map (·.1)))) (orFlags (r.map (·.2))))

/-- R148: the upper bound of a bin, as a code. -/
def clipBound (ty : Nat) : Option Nat → Nat
  | some j => if 63 ≤ j then infCode (laneFmt ty) else if ty = 1 then (4 * j + 4) * 2 ^ 23 else (32 * j + 32) * 2 ^ 52
  | none => infCode (laneFmt ty)

/-- R148: `vqclip`. -/
def execVqclip (g : BitVec 5) (d a b : BitVec 6) (t : BitVec 2) (s : State) : Out :=
  guarded g s fun _ =>
    .next (setS s d (BitVec.ofNat 64 (clipBound t.toNat (clipBin (getS s b).toNat 0 0 (vLanes 32 (getV s a))))))
/-- R149 to R151: `vquant` to the code t. -/
def execVquant (g : BitVec 5) (d a : BitVec 6) (t : BitVec 4) (s : State) : Out :=
  guarded g s fun _ =>
    let x := quantRegister t.toNat (rounding s) ((vLanes 32 (getV s a)).map (decodeFloat f32))
    .next (raise (setV s d (BitVec.ofNat 2048 x.1)) x.2)
/-- R152: `vdeq` from the code c. -/
def execVdeq (g : BitVec 5) (d a : BitVec 6) (c : BitVec 4) (s : State) : Out :=
  guarded g s fun _ =>
    let x := dequantValues c.toNat (getV s a).toNat
    let r := x.1.zipIdx.map fun p => toFloatCode f32 (rounding s) p.2 p.1
    .next (raise (setV s d (vPack 32 (r.map (·.1)))) (x.2 ||| orFlags (r.map (·.2))))

end Sys2Proof.Machine
end

