-- ==== Sys2Proof/Machine/Dispatch.lean ====
section
/-! DEFINITION. The meaning of every constructor of Instr: one call for each. -/

namespace Sys2Proof.Machine

def exec (i : Instr) (s : State) : Host.Outcome State Fault Refusal :=
  match i with
  | .nop => Sys2Proof.Machine.execNop s
  | .br p c o => Sys2Proof.Machine.execBr p c o s
  | .brp p c o => Sys2Proof.Machine.execBrp p c o s
  | .brx p c x o => Sys2Proof.Machine.execBrx p c x o s
  | .call p c o => Sys2Proof.Machine.execCall p c o s
  | .ret p c => Sys2Proof.Machine.execRet p c s
  | .nest l c => Sys2Proof.Machine.execNest l c s
  | .nestReg l x => Sys2Proof.Machine.execNestReg l x s
  | .lbody l n => Sys2Proof.Machine.execLbody l n s
  | .lbrk p c l => Sys2Proof.Machine.execLbrk p c l s
  | .rot => Sys2Proof.Machine.execRot s
  | .chkpt => Sys2Proof.Machine.execChkpt s
  | .mark k x => Sys2Proof.Machine.execMark k x s
  | .bar => Sys2Proof.Machine.execBar s
  | .sstep => Sys2Proof.Machine.execSstep s
  | .wait x => Sys2Proof.Machine.execWait x s
  | .yield => Sys2Proof.Machine.execYield s
  | .exit => Sys2Proof.Machine.execExit s
  | .trap c => Sys2Proof.Machine.execTrap c s
  | .bktj x p => Sys2Proof.Machine.execBktj x p s
  | .setb b x o => Sys2Proof.Machine.execSetb b x o s
  | .add g d a b w => Sys2Proof.Machine.execAdd g d a b w s
  | .addi g d a j => Sys2Proof.Machine.execAddi g d a j s
  | .sub g d a b w => Sys2Proof.Machine.execSub g d a b w s
  | .mul g d a b w => Sys2Proof.Machine.execMul g d a b w s
  | .mulh g d a b w => Sys2Proof.Machine.execMulh g d a b w s
  | .mulhn g d a b w => Sys2Proof.Machine.execMulhn g d a b w s
  | .div g d a b w => Sys2Proof.Machine.execDiv g d a b w s
  | .divn g d a b w => Sys2Proof.Machine.execDivn g d a b w s
  | .rem g d a b w => Sys2Proof.Machine.execRem g d a b w s
  | .remn g d a b w => Sys2Proof.Machine.execRemn g d a b w s
  | .and g d a b w => Sys2Proof.Machine.execAnd g d a b w s
  | .or g d a b w => Sys2Proof.Machine.execOr g d a b w s
  | .xor g d a b w => Sys2Proof.Machine.execXor g d a b w s
  | .andn g d a b w => Sys2Proof.Machine.execAndn g d a b w s
  | .shl g d a b w => Sys2Proof.Machine.execShl g d a b w s
  | .shr g d a b w => Sys2Proof.Machine.execShr g d a b w s
  | .sar g d a b w => Sys2Proof.Machine.execSar g d a b w s
  | .rotl g d a b w => Sys2Proof.Machine.execRotl g d a b w s
  | .min g d a b w => Sys2Proof.Machine.execMin g d a b w s
  | .max g d a b w => Sys2Proof.Machine.execMax g d a b w s
  | .minn g d a b w => Sys2Proof.Machine.execMinn g d a b w s
  | .maxn g d a b w => Sys2Proof.Machine.execMaxn g d a b w s
  | .clz g d a w => Sys2Proof.Machine.execClz g d a w s
  | .ctz g d a w => Sys2Proof.Machine.execCtz g d a w s
  | .popc g d a w => Sys2Proof.Machine.execPopc g d a w s
  | .sext g d a k w => Sys2Proof.Machine.execSext g d a k w s
  | .zext g d a k w => Sys2Proof.Machine.execZext g d a k w s
  | .movi g d j => Sys2Proof.Machine.execMovi g d j s
  | .movk g d j => Sys2Proof.Machine.execMovk g d j s
  | .mov g d a w => Sys2Proof.Machine.execMov g d a w s
  | .sel g d a b p => Sys2Proof.Machine.execSel g d a b p s
  | .cmp g p a b c w => Sys2Proof.Machine.execCmp g p a b c w s
  | .pand g d a b x y => Sys2Proof.Machine.execPand g d a b x y s
  | .por g d a b x y => Sys2Proof.Machine.execPor g d a b x y s
  | .pnot g d a => Sys2Proof.Machine.execPnot g d a s
  | .s2p g p a => Sys2Proof.Machine.execS2p g p a s
  | .p2s g d p => Sys2Proof.Machine.execP2s g d p s
  | .rdsr g d r => Sys2Proof.Machine.execRdsr g d r s
  | .wrsr g a r => Sys2Proof.Machine.execWrsr g a r s
  | .sfadd g d a b w => Sys2Proof.Machine.execSfadd g d a b w s
  | .sfmul g d a b w => Sys2Proof.Machine.execSfmul g d a b w s
  | .sffma g d a b w => Sys2Proof.Machine.execSffma g d a b w s
  | .sfcmp g p a b c w => Sys2Proof.Machine.execSfcmp g p a b c w s
  | .sfcvt g d a t x => Sys2Proof.Machine.execSfcvt g d a t x s
  | .sfxf g d a f w => Sys2Proof.Machine.execSfxf g d a f w s
  | .qset g q j z => Sys2Proof.Machine.execQset g q j z s
  | .qadd g d a b => Sys2Proof.Machine.execQadd g d a b s
  | .qinc g q j z => Sys2Proof.Machine.execQinc g q j z s
  | .qcmp g p a b j c => Sys2Proof.Machine.execQcmp g p a b j c s
  | .qmov g d a => Sys2Proof.Machine.execQmov g d a s
  | .q2s g d a j => Sys2Proof.Machine.execQ2s g d a j s
  | .s2q g q j a => Sys2Proof.Machine.execS2q g q j a s
  | .hmov g d a => Sys2Proof.Machine.execHmov g d a s
  | .hld g d a => Sys2Proof.Machine.execHld g d a s
  | .gset g d f a => Sys2Proof.Machine.execGset g d f a s
  | .iadd g d a b => Sys2Proof.Machine.execIadd g d a b s
  | .imovi g d j => Sys2Proof.Machine.execImovi g d j s
  | .nodc g d a b => Sys2Proof.Machine.execNodc g d a b s
  | .nodl g d a => Sys2Proof.Machine.execNodl g d a s
  | .vadd g d a b t m => Sys2Proof.Machine.execVadd g d a b t m s
  | .vsub g d a b t m => Sys2Proof.Machine.execVsub g d a b t m s
  | .vmul g d a b t m => Sys2Proof.Machine.execVmul g d a b t m s
  | .vfma g d a b t m => Sys2Proof.Machine.execVfma g d a b t m s
  | .vfms g d a b t m => Sys2Proof.Machine.execVfms g d a b t m s
  | .vfnma g d a b t m => Sys2Proof.Machine.execVfnma g d a b t m s
  | .vdiv g d a b t m => Sys2Proof.Machine.execVdiv g d a b t m s
  | .vsqrt g d a t m => Sys2Proof.Machine.execVsqrt g d a t m s
  | .vmin g d a b t m => Sys2Proof.Machine.execVmin g d a b t m s
  | .vmax g d a b t m => Sys2Proof.Machine.execVmax g d a b t m s
  | .vabs g d a t m => Sys2Proof.Machine.execVabs g d a t m s
  | .vneg g d a t m => Sys2Proof.Machine.execVneg g d a t m s
  | .vcpys g d a b t m => Sys2Proof.Machine.execVcpys g d a b t m s
  | .vcmp g m a b c t k => Sys2Proof.Machine.execVcmp g m a b c t k s
  | .vsel g d a b t => Sys2Proof.Machine.execVsel g d a b t s
  | .vcvt g d a t x m => Sys2Proof.Machine.execVcvt g d a t x m s
  | .vrnd g d a f t m => Sys2Proof.Machine.execVrnd g d a f t m s
  | .vxf g d a f t m => Sys2Proof.Machine.execVxf g d a f t m s
  | .viadd g d a b t m => Sys2Proof.Machine.execViadd g d a b t m s
  | .visub g d a b t m => Sys2Proof.Machine.execVisub g d a b t m s
  | .vimul g d a b t m => Sys2Proof.Machine.execVimul g d a b t m s
  | .vimulh g d a b t m => Sys2Proof.Machine.execVimulh g d a b t m s
  | .vand g d a b m => Sys2Proof.Machine.execVand g d a b m s
  | .vor g d a b m => Sys2Proof.Machine.execVor g d a b m s
  | .vxor g d a b m => Sys2Proof.Machine.execVxor g d a b m s
  | .vnot g d a m => Sys2Proof.Machine.execVnot g d a m s
  | .vshl g d a b t m => Sys2Proof.Machine.execVshl g d a b t m s
  | .vshr g d a b t m => Sys2Proof.Machine.execVshr g d a b t m s
  | .vsar g d a b t m => Sys2Proof.Machine.execVsar g d a b t m s
  | .vimin g d a b t m => Sys2Proof.Machine.execVimin g d a b t m s
  | .vimax g d a b t m => Sys2Proof.Machine.execVimax g d a b t m s
  | .viminn g d a b t m => Sys2Proof.Machine.execViminn g d a b t m s
  | .vimaxn g d a b t m => Sys2Proof.Machine.execVimaxn g d a b t m s
  | .vpopc g d a t m => Sys2Proof.Machine.execVpopc g d a t m s
  | .vclz g d a t m => Sys2Proof.Machine.execVclz g d a t m s
  | .vmov g d a m => Sys2Proof.Machine.execVmov g d a m s
  | .vbcast g d a t m => Sys2Proof.Machine.execVbcast g d a t m s
  | .vins g d a b t => Sys2Proof.Machine.execVins g d a b t s
  | .vext g d a b t => Sys2Proof.Machine.execVext g d a b t s
  | .vperm g d a b m => Sys2Proof.Machine.execVperm g d a b m s
  | .vslide g d a b t m => Sys2Proof.Machine.execVslide g d a b t m s
  | .vzip g d a b => Sys2Proof.Machine.execVzip g d a b s
  | .vunzip g d a b => Sys2Proof.Machine.execVunzip g d a b s
  | .vcompress g d a t => Sys2Proof.Machine.execVcompress g d a t s
  | .vexpand g d a t => Sys2Proof.Machine.execVexpand g d a t s
  | .vred g d a f t m => Sys2Proof.Machine.execVred g d a f t m s
  | .vscan g d a f t m => Sys2Proof.Machine.execVscan g d a f t m s
  | .mand g d a b => Sys2Proof.Machine.execMand g d a b s
  | .mor g d a b => Sys2Proof.Machine.execMor g d a b s
  | .mxor g d a b => Sys2Proof.Machine.execMxor g d a b s
  | .mnot g d a => Sys2Proof.Machine.execMnot g d a s
  | .mpop g d a => Sys2Proof.Machine.execMpop g d a s
  | .mfirst g d a => Sys2Proof.Machine.execMfirst g d a s
  | .vhist g d a t m => Sys2Proof.Machine.execVhist g d a t m s
  | .vqclip g d a b t => Sys2Proof.Machine.execVqclip g d a b t s
  | .vquant g d a t => Sys2Proof.Machine.execVquant g d a t s
  | .vdeq g d a x => Sys2Proof.Machine.execVdeq g d a x s
  | .mxlw g t f x => Sys2Proof.Machine.execMxlw g t f x s
  | .mxsw g => Sys2Proof.Machine.execMxsw g s
  | .mxs g b t f r => Sys2Proof.Machine.execMxs g b t f r s
  | .mxrank g b t r => Sys2Proof.Machine.execMxrank g b t r s
  | .mxz g => Sys2Proof.Machine.execMxz g s
  | .acz g b r c => Sys2Proof.Machine.execAcz g b r c s
  | .acrd g b t r f => Sys2Proof.Machine.execAcrd g b t r f s
  | .acwr g b t r f => Sys2Proof.Machine.execAcwr g b t r f s
  | .acadd g b t r f => Sys2Proof.Machine.execAcadd g b t r f s
  | .acmv g b v r m => Sys2Proof.Machine.execAcmv g b v r m s
  | .acfmt g b f => Sys2Proof.Machine.execAcfmt g b f s
  | .acscl g b x r => Sys2Proof.Machine.execAcscl g b x r s
  | .acsclE g b x r => Sys2Proof.Machine.execAcsclE g b x r s
  | .acbias g b v r => Sys2Proof.Machine.execAcbias g b v r s
  | .tld g v t r => Sys2Proof.Machine.execTld g v t r s
  | .tst g v t r => Sys2Proof.Machine.execTst g v t r s
  | .tlds g x t j z => Sys2Proof.Machine.execTlds g x t j z s
  | .tsts g x t j z => Sys2Proof.Machine.execTsts g x t j z s
  | .tfill g t x f w => Sys2Proof.Machine.execTfill g t x f w s
  | .tfree g t => Sys2Proof.Machine.execTfree g t s
  | .tsetf g t => Sys2Proof.Machine.execTsetf g t s
  | .txfer g t k r c => Sys2Proof.Machine.execTxfer g t k r c s
  | .txferRow g t k r => Sys2Proof.Machine.execTxferRow g t k r s
  | .txferAll g t k => Sys2Proof.Machine.execTxferAll g t k s
  | .tcopy g d x n => Sys2Proof.Machine.execTcopy g d x n s
  | .tpack g d x n => Sys2Proof.Machine.execTpack g d x n s
  | .tatom g x t o y => Sys2Proof.Machine.execTatom g x t o y s
  | .thdr g t x => Sys2Proof.Machine.execThdr g t x s
  | .tfmt g t x c f => Sys2Proof.Machine.execTfmt g t x c f s
  | .hfet g t x h e => Sys2Proof.Machine.execHfet g t x h e s
  | .hput g t x h e => Sys2Proof.Machine.execHput g t x h e s
  | .hgat g t x h e => Sys2Proof.Machine.execHgat g t x h e s
  | .hsca g t x h e => Sys2Proof.Machine.execHsca g t x h e s
  | .hcopy g d x t e c => Sys2Proof.Machine.execHcopy g d x t e c s
  | .hpfl2 g x h e => Sys2Proof.Machine.execHpfl2 g x h e s
  | .hres g x h e => Sys2Proof.Machine.execHres g x h e s
  | .hprobe g x h e => Sys2Proof.Machine.execHprobe g x h e s
  | .hopen g x h => Sys2Proof.Machine.execHopen g x h s
  | .hpub g x h => Sys2Proof.Machine.execHpub g x h s
  | .hdisc g x h => Sys2Proof.Machine.execHdisc g x h s
  | .hpin g x h => Sys2Proof.Machine.execHpin g x h s
  | .hpinV g x h => Sys2Proof.Machine.execHpinV g x h s
  | .hunpin g x h => Sys2Proof.Machine.execHunpin g x h s
  | .hsub g x h u => Sys2Proof.Machine.execHsub g x h u s
  | .hsubV g x h u => Sys2Proof.Machine.execHsubV g x h u s
  | .hunsub g x h => Sys2Proof.Machine.execHunsub g x h s
  | .hver g x h => Sys2Proof.Machine.execHver g x h s
  | .hatom g x h q o y => Sys2Proof.Machine.execHatom g x h q o y s
  | .hatomr g x h q o y => Sys2Proof.Machine.execHatomr g x h q o y s
  | .hcas g x h q y => Sys2Proof.Machine.execHcas g x h q y s
  | .tdesc g t x h y => Sys2Proof.Machine.execTdesc g t x h y s
  | .tgrad g t x h y => Sys2Proof.Machine.execTgrad g t x h y s
  | .rbind g y h x => Sys2Proof.Machine.execRbind g y h x s
  | .rput g t x h => Sys2Proof.Machine.execRput g t x h s
  | .rputLast g t x h => Sys2Proof.Machine.execRputLast g t x h s
  | .rputUpd g t x h => Sys2Proof.Machine.execRputUpd g t x h s
  | .rtake g t y h x => Sys2Proof.Machine.execRtake g t y h x s
  | .rdone g y h x => Sys2Proof.Machine.execRdone g y h x s
  | .rdoneFail g y h x => Sys2Proof.Machine.execRdoneFail g y h x s
  | .rstat g t x h => Sys2Proof.Machine.execRstat g t x h s
  | .xsend g t x h => Sys2Proof.Machine.execXsend g t x h s
  | .xsendLast g t x h => Sys2Proof.Machine.execXsendLast g t x h s
  | .xref g t x => Sys2Proof.Machine.execXref g t x s
  | .csnap g t x => Sys2Proof.Machine.execCsnap g t x s
  | .cread g t x => Sys2Proof.Machine.execCread g t x s
  | .fcbind g x h => Sys2Proof.Machine.execFcbind g x h s
  | .fcbindUn g x => Sys2Proof.Machine.execFcbindUn g x s
  | .fcstat g t x => Sys2Proof.Machine.execFcstat g t x s
  | .nsend g t x h => Sys2Proof.Machine.execNsend g t x h s
  | .nexp g x h => Sys2Proof.Machine.execNexp g x h s
  | .ncnt g x h => Sys2Proof.Machine.execNcnt g x h s
  | .svc g x n => Sys2Proof.Machine.execSvc g x n s
  | .emptyTileWaitRetire core ctx slot => Sys2Proof.Machine.execEmptyTileWaitRetire core ctx slot s
  | .markStallRetire core ctx => Sys2Proof.Machine.execMarkStallRetire core ctx s
  | .barrierSatisfied core ctx => Sys2Proof.Machine.execBarrierSatisfied core ctx s
  | .superstepSatisfied core ctx => Sys2Proof.Machine.execSuperstepSatisfied core ctx s
  | .waitSatisfied core ctx => Sys2Proof.Machine.execWaitSatisfied core ctx s
  | .issueResume core => Sys2Proof.Machine.execIssueResume core s
  | .accumulatorRowUpdate core => Sys2Proof.Machine.execAccumulatorRowUpdate core s
  | .weightLoadComplete core => Sys2Proof.Machine.execWeightLoadComplete core s
  | .handleResolution cmd => Sys2Proof.Machine.execHandleResolution cmd s
  | .tileLanding cmd => Sys2Proof.Machine.execTileLanding cmd s
  | .txferCompletion cmd => Sys2Proof.Machine.execTxferCompletion cmd s
  | .commandCompletion cmd => Sys2Proof.Machine.execCommandCompletion cmd s
  | .elementAtomic cmd => Sys2Proof.Machine.execElementAtomic cmd s
  | .publishStep cmd => Sys2Proof.Machine.execPublishStep cmd s
  | .xsendAdmission cmd => Sys2Proof.Machine.execXsendAdmission cmd s
  | .descent cmd => Sys2Proof.Machine.execDescent cmd s
  | .routingStep cmd => Sys2Proof.Machine.execRoutingStep cmd s
  | .forecastAction act => Sys2Proof.Machine.execForecastAction act s
  | .tierPageSwitch move => Sys2Proof.Machine.execTierPageSwitch move s
  | .packetArrival pkt => Sys2Proof.Machine.execPacketArrival pkt s
  | .selectiveAcknowledgement cmd acked missing => Sys2Proof.Machine.execSelectiveAcknowledgement cmd acked missing s
  | .retransmissionTimeout cmd packet => Sys2Proof.Machine.execRetransmissionTimeout cmd packet s
  | .flitCheckFailure => Sys2Proof.Machine.execFlitCheckFailure s
  | .linkLoss pkg => Sys2Proof.Machine.execLinkLoss pkg s
  | .linkReturn pkg => Sys2Proof.Machine.execLinkReturn pkg s
  | .packageFailure pkg => Sys2Proof.Machine.execPackageFailure pkg s
  | .replicaBuild obj version target => Sys2Proof.Machine.execReplicaBuild obj version target s
  | .spillSwitch obj => Sys2Proof.Machine.execSpillSwitch obj s
  | .shootdownAcknowledge shoot cluster => Sys2Proof.Machine.execShootdownAcknowledge shoot cluster s
  | .missingObjectResolution obj => Sys2Proof.Machine.execMissingObjectResolution obj s
  | .forecastMissResolution core ctx => Sys2Proof.Machine.execForecastMissResolution core ctx s
  | .uncorrectableDataRepair bad => Sys2Proof.Machine.execUncorrectableDataRepair bad s
  | .launchTermination launch => Sys2Proof.Machine.execLaunchTermination launch s
  | .doldrumsWatchdog core ctx => Sys2Proof.Machine.execDoldrumsWatchdog core ctx s
  | .coreFailure phys readable => Sys2Proof.Machine.execCoreFailure phys readable s
  | .sliceExpiry launch team => Sys2Proof.Machine.execSliceExpiry launch team s
  | .swapGraceExpiry core ctx => Sys2Proof.Machine.execSwapGraceExpiry core ctx s
  | .teamSave launch team => Sys2Proof.Machine.execTeamSave launch team s
  | .saveComplete launch team => Sys2Proof.Machine.execSaveComplete launch team s
  | .teamRestore launch team place => Sys2Proof.Machine.execTeamRestore launch team place s
  | .restoreComplete launch team => Sys2Proof.Machine.execRestoreComplete launch team s
  | .teamStart launch team place => Sys2Proof.Machine.execTeamStart launch team place s
  | .drainTimeout launch team => Sys2Proof.Machine.execDrainTimeout launch team s
  | .launch stream => Sys2Proof.Machine.execLaunch stream s
  | .launchCompletion launch => Sys2Proof.Machine.execLaunchCompletion launch s
  | .objectOperation stream => Sys2Proof.Machine.execObjectOperation stream s
  | .versionWait stream => Sys2Proof.Machine.execVersionWait stream s
  | .versionWaitSatisfied stream => Sys2Proof.Machine.execVersionWaitSatisfied stream s
  | .conditionalNode stream => Sys2Proof.Machine.execConditionalNode stream s
  | .submitRequest part queue chain => Sys2Proof.Machine.execSubmitRequest part queue chain s
  | .createHostBuffer part chain => Sys2Proof.Machine.execCreateHostBuffer part chain s
  | .releaseHostBuffer part chain => Sys2Proof.Machine.execReleaseHostBuffer part chain s
  | .hostBufferEnd obj => Sys2Proof.Machine.execHostBufferEnd obj s
  | .readObject part chain => Sys2Proof.Machine.execReadObject part chain s
  | .service part chain => Sys2Proof.Machine.execService part chain s
  | .getVersion part req => Sys2Proof.Machine.execGetVersion part req s
  | .getCapabilities part req => Sys2Proof.Machine.execGetCapabilities part req s
  | .negotiateAlgorithms part req => Sys2Proof.Machine.execNegotiateAlgorithms part req s
  | .getDigests part req => Sys2Proof.Machine.execGetDigests part req s
  | .getCertificate part req => Sys2Proof.Machine.execGetCertificate part req s
  | .challenge part req => Sys2Proof.Machine.execChallenge part req s
  | .getMeasurements part req => Sys2Proof.Machine.execGetMeasurements part req s
  | .tenantReport part nonce tag => Sys2Proof.Machine.execTenantReport part nonce tag s
  | .null call => Sys2Proof.Machine.execNull call s
  | .createObject call => Sys2Proof.Machine.execCreateObject call s
  | .destroyObject call => Sys2Proof.Machine.execDestroyObject call s
  | .createStageSet call => Sys2Proof.Machine.execCreateStageSet call s
  | .createForecastTable call => Sys2Proof.Machine.execCreateForecastTable call s
  | .writeHintRecord call => Sys2Proof.Machine.execWriteHintRecord call s
  | .retain call => Sys2Proof.Machine.execRetain call s
  | .markEndpoint call => Sys2Proof.Machine.execMarkEndpoint call s
  | .registerReceiver call => Sys2Proof.Machine.execRegisterReceiver call s
  | .configurePort call => Sys2Proof.Machine.execConfigurePort call s
  | .migrate call => Sys2Proof.Machine.execMigrate call s
  | .replicate call => Sys2Proof.Machine.execReplicate call s
  | .spill call => Sys2Proof.Machine.execSpill call s
  | .exportObject call => Sys2Proof.Machine.execExportObject call s
  | .endExport call => Sys2Proof.Machine.execEndExport call s
  | .exportReturn obj => Sys2Proof.Machine.execExportReturn obj s
  | .submit call => Sys2Proof.Machine.execSubmit call s
  | .readCounters call => Sys2Proof.Machine.execReadCounters call s
  | .serviceRestart call => Sys2Proof.Machine.execServiceRestart call s
  | .powerWindowEnd draws => Sys2Proof.Machine.execPowerWindowEnd draws s
  | .powerRelax => Sys2Proof.Machine.execPowerRelax s
  | .packageReset boot => Sys2Proof.Machine.execPackageReset boot s
  | .duplicatePackageNumber => Sys2Proof.Machine.execDuplicatePackageNumber s
  | .partitionReassignment part clusters cap => Sys2Proof.Machine.execPartitionReassignment part clusters cap s
  | .migrationSwitch obj => Sys2Proof.Machine.execMigrationSwitch obj s
  | .eventQueueBuffers part buffers => Sys2Proof.Machine.execEventQueueBuffers part buffers s
  | .featuresOk part features => Sys2Proof.Machine.execFeaturesOk part features s

end Sys2Proof.Machine
end

