-- ==== Sys2Proof/Machine/Views.lean ====
section
/-!
DEFINITION. The records that the manual lays out and the state holds by field: an object's descriptor (R296 to R300) with its hint
record (R304), the device configuration (R342), the completion record (R344) and the event (R347), each as its bytes. No
operation reads them: they are what Rilsia and the host see of the state.
-/

namespace Sys2Proof.Machine

/-! ## The descriptor (R296 to R300) -/

/-- A bit at a place of a word. -/
def bitAt (b : Bool) (n : Nat) : Nat := if b then 2 ^ n else 0

/-- R297: the class word. -/
def classWord (o : Obj) : Nat :=
  o.generation * 2 ^ 44 + o.partition * 2 ^ 38 + o.dims * 2 ^ 35 + kindCode o.kind * 2 ^ 32 + o.fmt.toNat * 2 ^ 28 +
    bitAt o.scaled 27 + bitAt o.compressed 26 + o.point * 2 ^ 24 + bitAt o.epsZero 23 + (o.epsExp % 2 ^ 12).toNat * 2 ^ 11

/-- R299: the version word. -/
def versionWord (o : Obj) : Nat :=
  bitAt o.draft.isSome 63 + (o.versions.length - 1) * 2 ^ 61 + bitAt o.started 60 + o.marks * 2 ^ 52 + o.draftNo % 2 ^ 16 * 2 ^ 36

/-- R300: the placement word; the place of the hint record in the home's hint table is a free value (log entry 74). -/
def placementWord (o : Obj) : Nat :=
  o.loc.die * 2 ^ 56 + bitAt o.loc.materialised 55 + bitAt o.loc.far 54 + bitAt (!o.loc.spilled.isEmpty) 53 + bitAt o.loc.lent 52 +
    bitAt o.loc.moving 51 + replicaCount o * 2 ^ 48 + bitAt o.hint.isSome 47 +
    (if o.hint.isSome then (Config.hintIndex o.key.number).toNat else 0)

/-- R300: the network word. -/
def networkWord (o : Obj) : Nat :=
  o.counter.toNat * 2 ^ 32 + o.pendingBytes * 2 ^ 8 + bitAt o.overrun 7 + bitAt o.endpoint 6

/-- R296: the version that the open draft aliases, 0 when none is open. -/
def baseWord (o : Obj) : Nat := o.draft.elim 0 (·.base)

/-- R296: the descriptor's 128 bytes. -/
def descriptorBytes (o : Obj) : List Byte :=
  bytesOfNat 8 (classWord o) ++ (List.range 6).flatMap (fun j => bytesOfNat 4 (o.extent.getD j 1)) ++
    bytesOfNat 8 o.geometry.toNat ++ bytesOfNat 8 o.storage ++ bytesOfNat 8 o.scalePlane ++ bytesOfNat 4 o.current ++
    bytesOfNat 4 (baseWord o) ++ bytesOfNat 8 (versionWord o) ++ bytesOfNat 8 o.shard.toNat ++ bytesOfNat 8 (placementWord o) ++
    bytesOfNat 8 (networkWord o) ++ List.replicate 16 0 ++ bytesOfNat 16 o.rights.toNat

/-- R304: the hint record's 16 bytes. -/
def hintBytes (h : Hint) : List Byte :=
  bytesOfNat 2 (h.package + h.die * 2 ^ 10 + h.mapped.length * 2 ^ 12) ++
    bytesOfNat 1 (bitAt h.unwritten 0 + bitAt h.far 1) ++
    bytesOfNat 10 ((List.range 8).map fun i => h.mapped.getD i 0 * 2 ^ (10 * i)).sum ++ List.replicate 3 0

/-! ## What the device shows its host -/

/-- R341: the PCI device ID, the subsystem device ID, and the next function of the ARI chain. -/
def pciDevice : Nat := 0x10BC
/-- R341. -/
def subsystemDevice : Nat := 0x4E58
/-- R341: function 63 names 0, which ends the chain. -/
def nextFunction (p : Nat) : Nat := (p + 1) % 64

/-- R342: the state field of function p. -/
def deviceState (s : State) (p : Nat) : Nat :=
  if s.device ≠ 1 then s.device
  else match partitionBy s p with
    | none => 4
    | some x => if !x.active then 4 else if x.reassigning then 2 else 1

/-- R320, R342: the streams of the submit queues of function p. -/
def submitStreams (s : State) (p : Nat) : List Nat := (partitionBy s p).elim [] (·.streams)

/-- R342: the device-specific configuration of function p, 144 bytes. -/
def deviceConfig (s : State) (p : Nat) : List Byte :=
  bytesOfNat 2 Config.part ++ bytesOfNat 1 p ++ bytesOfNat 1 (deviceState s p) ++ bytesOfNat 2 s.package ++
    bytesOfNat 2 (submitStreams s p).length ++ bytesOfNat 4 Config.firmware.toNat ++ List.replicate 4 0 ++
    (List.range 64).flatMap fun i => bytesOfNat 2 ((submitStreams s p).getD i 0xFFFF)

/-- R344: the completion record's 24 bytes. -/
def completionRecord (c : Completion) : List Byte :=
  bytesOfNat 4 c.tag.toNat ++ bytesOfNat 1 c.status ++ bytesOfNat 3 c.detail ++ bytesOfNat 4 c.count ++
    bytesOfNat 4 c.data.length ++ bytesOfNat 4 c.fault ++ List.replicate 4 0

/-- R344: the used length of the chain that a completion record ends, or that is returned unperformed. -/
def usedLength (c : Completion) : Nat := if c.returned then 0 else c.data.length + completionBytes

/-- R347: the event's 32 bytes. -/
def eventBytes (e : HostEvent) : List Byte :=
  bytesOfNat 2 e.type ++ List.replicate 2 0 ++ bytesOfNat 4 e.tag.toNat ++ payload24 e.payload

end Sys2Proof.Machine
end

