-- ==== Sys2Proof/Safety.lean ====
section
/-!
DEFINITION. The terms in which claims about the machine are stated: what of the state an operation leaves alone, which steps
run, the results of operations in plain bit-vector and integer arithmetic, and the invariants. None of it is part of the
machine.
-/

namespace Sys2Proof.Claims

open Sys2Proof.Machine

/-! ## What changes -/

/-- The live registers of the acting context. -/
def live (s : State) : Regs := (curCtx s).live

/-- Nothing but the live registers of the acting context differs: every byte of every memory, every other context, core,
object, launch and device stands as it stood. -/
def OnlyLive (s t : State) : Prop := t = modLive s fun _ => live t

/-- As `OnlyLive`, but for the frame of the bundle that issues, in which a transfer of control is noted. -/
def OnlyLiveAndFrame (s t : State) : Prop := { t with issue := s.issue } = modLive s fun _ => live t

/-- Nothing but the acting core differs. -/
def OnlyCore (s t : State) : Prop := t = { s with core := t.core }

/-- Nothing but the acting context differs. -/
def OnlyCtx (s t : State) : Prop := t = modCtx s fun _ => curCtx t

/-- The acting context has not trapped, or had trapped before. -/
abbrev NoNewTrap (s t : State) : Prop := (curCtx t).trap = (curCtx s).trap

/-! ## Control transfer and loop bodies (R90, R93, R94) -/

/-- R90: a loop-table entry after a transfer to the target: a body that the target leaves ends. -/
def leftBy (target : Nat) (x : Loop) : Loop :=
  if x.active ∧ (target < x.first.toNat ∨ x.last.toNat < target) then { x with active := false } else x

/-- R95: a loop-table entry after a taken call or return in the bundle: a body that ends there ends. -/
def endedAt (index : Nat) (x : Loop) : Loop := if x.active ∧ x.last.toNat = index then { x with active := false } else x

/-- R90: the target lies in the acting context's code section. -/
abbrev inCode (s : State) (target : Int) : Prop := 0 ≤ target ∧ target < codeBundles s

/-- R90: the outcome is a state in which the live registers are those of `f`, and nothing else but the bundle's frame
differs. -/
def GoesTo (i : Instr) (s : State) (f : Regs → Regs) : Prop :=
  ∃ t, exec i s = .next t ∧ OnlyLiveAndFrame s t ∧ live t = f (live s)

/-- The outcome is a state in which the live registers are those of `f`, and nothing else differs. -/
def Writes (i : Instr) (s : State) (f : Regs → Regs) : Prop := ∃ t, exec i s = .next t ∧ OnlyLive s t ∧ live t = f (live s)

/-! ## Scalar results (R111, R113) -/

/-- R111: an operation of width 64 (w = 0) or 32 (w = 1); a 32-bit result is sign-extended or zero-extended. -/
def atWidth (signed : Bool) (f : (n : Nat) → BitVec n → BitVec n → BitVec n) (w : BitVec 3) (x y : BitVec 64) : BitVec 64 :=
  if w = 1 then
    let r := f 32 (x.truncate 32) (y.truncate 32)
    if signed then r.signExtend 64 else r.zeroExtend 64
  else f 64 x y

/-- Leading zero bits (R113). -/
def leadingZeros (n : Nat) (x : BitVec n) : Nat := ((List.range n).find? fun i => x.getMsbD i).getD n
/-- Trailing zero bits (R113). -/
def trailingZeros (n : Nat) (x : BitVec n) : Nat := ((List.range n).find? fun i => x.getLsbD i).getD n
/-- One bits (R113). -/
def oneBits (n : Nat) (x : BitVec n) : Nat := ((List.range n).filter fun i => x.getLsbD i).length

/-- R113: a count at width 64 or 32. -/
def countAt (f : (n : Nat) → BitVec n → Nat) (w : BitVec 3) (x : BitVec 64) : BitVec 64 :=
  BitVec.ofNat 64 (if w = 1 then f 32 (x.truncate 32) else f 64 x)

/-- R69: the comparisons of two's complement (codes 0 to 5) and of unsigned numbers (6 to 9). -/
def compares (c : Nat) (n : Nat) (x y : BitVec n) : Bool :=
  match c with
  | 0 => x == y
  | 1 => x != y
  | 2 => x.slt y
  | 3 => x.sle y
  | 4 => y.slt x
  | 5 => y.sle x
  | 6 => x.ult y
  | 7 => x.ule y
  | 8 => y.ult x
  | _ => y.ule x

/-- R14: the place of a predicate in the file. -/
def placeP (r : Regs) (p : Nat) : Nat := if p < 8 then p else 8 + (p + r.prot.toNat) % 8

/-- R13, R14: the outcome writes the predicate, at its place before the bundle, and nothing else; a write to `p0` is
ignored. -/
def WritesP (i : Instr) (s : State) (p : BitVec 4) (x : Bool) (fl : Flags) : Prop :=
  Writes i s fun r =>
    { r with p := if p = 0 then r.p else r.p.setIfInBounds (placeP (regs s) p.toNat) x, fflags := r.fflags ||| fl }

/-- The outcome writes the scalar register, raises the flags, and changes nothing else. -/
def WritesS (i : Instr) (s : State) (d : BitVec 6) (x : BitVec 64) (fl : Flags) : Prop :=
  Writes i s fun r => { r with s := r.s.set d.toNat x, fflags := r.fflags ||| fl }

/-- The outcome writes the tuple register, raises the flags, and changes nothing else. -/
def WritesQ (i : Instr) (s : State) (d : BitVec 4) (x : Vector (BitVec 32) 6) (fl : Flags) : Prop :=
  Writes i s fun r => { r with q := r.q.set d.toNat x, fflags := r.fflags ||| fl }

/-- R53, R119: an integer clamped to 32 signed bits, and the saturation flag when it is clamped. -/
def clamp32 (x : Int) : BitVec 32 × Flags :=
  if x < -2147483648 then (0x80000000, flSaturation) else if 2147483647 < x then (0x7FFFFFFF, flSaturation)
  else (BitVec.ofInt 32 x, 0)

/-! ## Lanes (R14, R125 to R127) -/

/-- R14: the place of a vector in the file. -/
def placeV (r : Regs) (n : Nat) : Nat := if n < 32 then n else 32 + (n + r.vrot.toNat) % 32

/-- R125: lane n of w bits. -/
def laneBits (w : Nat) (v : V2048) (n : Nat) : BitVec w := v.extractLsb' (w * n) w

/-- R126: lane n of w bits is active. -/
abbrev activeLane (s : State) (mk : BitVec 1) (w n : Nat) : Prop :=
  mk = 0 ∨ ((regs s).m[0]).getLsbD (if 32 ≤ w then n else n * w / 32) = true

/-- R126 is decided bit by bit. -/
def activeLaneB (s : State) (mk : BitVec 1) (w n : Nat) : Bool :=
  mk == 0 || ((regs s).m[0]).getLsbD (if 32 ≤ w then n else n * w / 32)

/-- The outcome writes the vector register, raises the flags, and changes nothing else. -/
def WritesV (i : Instr) (s : State) (d : BitVec 6) (x : V2048) (fl : Flags) : Prop :=
  Writes i s fun r => { r with v := r.v.setIfInBounds (placeV (regs s) d.toNat) x, fflags := r.fflags ||| fl }

/-- The outcome writes the mask register, raises the flags, and changes nothing else. -/
def WritesM (i : Instr) (s : State) (d : BitVec 3) (x : BitVec 64) (fl : Flags) : Prop :=
  Writes i s fun r => { r with m := r.m.set d.toNat x, fflags := r.fflags ||| fl }

/-- R127: exactly the flags that an active lane raises. -/
def flagsOf (fl : Flags) (lanes : Nat) (active : Nat → Prop) (f : Nat → Flags) : Prop :=
  ∀ k, fl.getLsbD k = true ↔ ∃ n < lanes, active n ∧ (f n).getLsbD k = true

/-- R127: each active lane takes its result, each inactive lane keeps its value, the flags are those of the active lanes,
and nothing else changes. -/
def LaneWise (i : Instr) (s : State) (d : BitVec 6) (w : Nat) (mk : BitVec 1) (f : Nat → Nat × Flags) : Prop :=
  ∃ (x : V2048) (fl : Flags), WritesV i s d x fl ∧
    (∀ n < 2048 / w, laneBits w x n = if activeLaneB s mk w n then BitVec.ofNat w (f n).1 else laneBits w (getV s d) n) ∧
    flagsOf fl (2048 / w) (activeLane s mk w) fun n => (f n).2

/-- The outcome gives every lane of the vector register a value, raises no flag, and changes nothing else. -/
def LanesAre (i : Instr) (s : State) (d : BitVec 6) (w : Nat) (f : (n : Nat) → BitVec w) : Prop :=
  ∃ x : V2048, WritesV i s d x 0 ∧ ∀ n < 2048 / w, laneBits w x n = f n

/-- R125: the lane width of the integer class and of the width class. -/
def intWidth (t : BitVec 2) : Nat := if t = 0 then 64 else if t = 1 then 32 else 8
/-- R125. -/
def classWidth (t : BitVec 2) : Nat := if t = 0 then 64 else if t = 1 then 32 else if t = 2 then 16 else 8

/-- R36, R125: the formats of the floating class. -/
def floatClass (t : BitVec 2) : FloatFmt :=
  if t = 0 then f64 else if t = 1 then f32 else if t = 2 then ⟨16, 5, 10, 15, true, 1⟩ else ⟨16, 8, 7, 127, true, 1⟩

/-- R142: the places of the set bits among the first n bits of `m0`. -/
def setBits (s : State) (n : Nat) : List Nat := (List.range n).filter fun j => ((regs s).m[0]).getLsbD j

/-! ## Tiles and their bytes (R173 to R187) -/

/-- Byte k of a value. -/
def byteAt {w : Nat} (x : BitVec w) (k : Nat) : Byte := x.extractLsb' (8 * k) 8

/-- The scratchpads of the acting core, now and as the bundle found it, are in canonical form. -/
abbrev Canonical (s : State) : Prop := Memory.wf s.core.scratch = true ∧ Memory.wf (frame s).scratch = true

/-- R13, R201: byte k of tile t as a slot of the acting context reads it. -/
def tileByte (s : State) (t k : Nat) : Byte := readByte (seen (frame s)) (8192 * t + k)

/-- R201: the acting context's loads are performed as they issue, and none is outstanding. -/
abbrev LoadsAtOnce (s : State) : Prop := (curCtx s).defers = false ∧ (curCtx s).loads = []

/-- R201: a write of the acting context to n bytes of its core, as the other contexts come to see it. -/
def written (s : State) (at' n : Nat) : CoreRec :=
  noteWrite s.core.cur.val (live s).barCount.toNat (live s).stepCount.toNat at' n s.core

/-- R29, R182: a slot may read tile n: it is full and not reserved, and its contents are sound (R371). -/
abbrev readableAt (s : State) (n : Nat) : Prop :=
  ((frame s).tiles.getD n Reset.tile).full = true ∧ ((frame s).tiles.getD n Reset.tile).reserved = false ∧
    BadLoc.tile s.core.id n ∉ s.bad

/-- As `readableAt`, for a tile named in a slot. -/
abbrev readable (s : State) (t : BitVec 7) : Prop := readableAt s t.toNat

/-- R187: the tile has not been read: not by the context in its region, and not by another slot of the bundle. -/
abbrev unread (s : State) (slot : Nat) (t : BitVec 7) : Prop :=
  (s.core.tiles.getD t.toNat Reset.tile).readBits &&& ctxBit s.core.cur.val = 0 ∧
    ∀ i ∈ s.issue, ∀ r ∈ i.reads, r.1 = slot ∨ r.2 ≠ t.toNat

/-- R187: the context's read bit of a tile, set unless it wrote the tile whole. -/
def readBy (x : Fin 4) (h : Tile) : Tile :=
  if h.writtenBits &&& ctxBit x.val = 0 then { h with readBits := h.readBits ||| ctxBit x.val } else h

/-- A tile of the acting core changed. -/
def onTile (s : State) (t : BitVec 7) (f : Tile → Tile) : State :=
  { s with core := { s.core with tiles := s.core.tiles.setIfInBounds t.toNat (f (s.core.tiles.getD t.toNat Reset.tile)) } }

/-- The outcome stores `len` bytes from address `at` of the acting core's scratchpad, leaves every other byte of it, and does
what `rest` says besides; contexts that writes reach late do not see the bytes yet (R201). -/
def Stores (i : Instr) (s : State) (at' len : Nat) (byte : Nat → Byte) (rest : State → State) : Prop :=
  ∃ m : Mem, exec i s = .next (rest { s with core := { written s at' len with scratch := m } }) ∧ Memory.wf m = true ∧
    ∀ a, readByte m a = if at' ≤ a ∧ a < at' + len then byte (a - at') else readByte s.core.scratch a

/-- R203: the acting core once the full bit of a tile has changed: the writes of the acting context to it are shown to the slots that
wait on it, or those of every context are so no longer. -/
def afterFull (s : State) (t : BitVec 7) (on : Bool) : State :=
  { s with core := { s.core with unseen := s.core.unseen.map fun u =>
      if u.word / 1024 = t.toNat ∧ (on = false ∨ u.writer = s.core.cur.val) then { u with shown := on } else u } }

/-- The four header fields taken from another tile. -/
def headerFrom (src h : Tile) : Tile :=
  { h with rows := src.rows, rowbytes := src.rowbytes, fmt := src.fmt, scaled := src.scaled }

/-! ## Accumulator banks (R164 to R172) -/

/-- The acting core's accumulator elements, now and as the bundle found them, are in canonical form. -/
abbrev CanonicalBanks (s : State) : Prop := bankWfFrom 0 s.core.banks = true ∧ bankWfFrom 0 (frame s).banks = true

/-- The code of an accumulator element of a core. -/
def element (c : CoreRec) (bank row col : Nat) : Nat := (bankGet c.banks (1024 * bank + 16 * row + col)).toNat

/-- R28, R167, R371: an ACC slot may use the bank: no early access to it is checked for or no `mxs` is to write it, the context has
not read the bank in its region when the slot writes, and its contents are sound. -/
abbrev bankFree (s : State) (b : BitVec 4) : Prop :=
  (isLchk s = false ∨ ∀ st ∈ s.core.streams, st.rank = true ∨ st.bank ≠ bankOf s b) ∧ s.core.bankRead.getD (bankOf s b) 0 &&& ctxBit s.core.cur.val = 0 ∧
    BadLoc.bank s.core.id (bankOf s b) ∉ s.bad

/-- R167: the context has written the row in its region. -/
abbrev rowWritten (s : State) (b : BitVec 4) (row : Nat) : Prop :=
  (s.core.rowWritten.getD (16 * s.core.cur.val + bankOf s b) 0).toNat.testBit row = true

/-- R164, R167: the outcome rewrites the rows of the bank element by element, marks them written, raises the flags, and leaves
every other element, every tile and every register. -/
def RewritesRows (i : Instr) (s : State) (b : BitVec 4) (rows : Nat → Prop) [DecidablePred rows]
    (f : Nat → Nat → Nat × Flags) (rest : CoreRec → CoreRec) : Prop :=
  ∃ (m : Bank64) (w : Vector (BitVec 64) 64) (fl : Flags),
    exec i s = .next (modLive { s with core := rest { s.core with banks := m, rowWritten := w } } fun r =>
      { r with fflags := r.fflags ||| fl }) ∧
    bankWfFrom 0 m = true ∧
    (∀ bank row col, row < 64 → col < 16 → (bankGet m (1024 * bank + 16 * row + col)).toNat =
      if bank = bankOf s b ∧ rows row then (f row col).1 % 2 ^ 64 else element s.core bank row col) ∧
    (∀ k, fl.getLsbD k = true ↔ ∃ row < 64, rows row ∧ ∃ col < 16, (f row col).2.getLsbD k = true) ∧
    (∀ n (hn : n < 64), ∀ k < 64, w[n].getLsbD k =
      (s.core.rowWritten[n].getLsbD k || decide (n = 16 * s.core.cur.val + bankOf s b ∧ rows k)))

/-- R154: the format of a bank as the bundle found it, as an element code (R34). -/
def bankCode (s : State) (b : BitVec 4) : Nat :=
  match (frame s).tags.getD (bankOf s b) .f32 with
  | .f64 => 0
  | .f32 => 1
  | .i32 => 12

/-- R169: the code of element `col` of row `row` of a tile that holds rows of sixteen elements. -/
def tileElementCode (s : State) (t : BitVec 7) (f : BitVec 4) (row col : Nat) : Nat :=
  elemAt f.toNat (readBytes (seen (frame s)) (8192 * t.toNat + row * (2 * elemBits f.toNat)) (2 * elemBits f.toNat)) col

/-! ## Checkpoints, waits and traps (R98 to R107, R363 to R366) -/

/-- No slot of the acting context waits, none of its effects is withheld, no load of it is late, and no command of it is on
record. -/
abbrev NothingOutstanding (s : State) : Prop :=
  (curCtx s).waiting = [] ∧ (curCtx s).withheld = [] ∧ (curCtx s).loads = [] ∧ ∀ c ∈ s.cmds, c.core = s.core.id → c.ctx ≠ s.core.cur.val

/-- R94: no active loop body ends at the acting bundle. -/
abbrev NoBodyEnds (s : State) : Prop :=
  ∀ l < 6, ((live s).loops.getD l ⟨false, 0, 0⟩).active = true → ((live s).loops.getD l ⟨false, 0, 0⟩).last.toNat ≠ ownIndex s

/-- R195: the release of a command only hands it to its engine. -/
def handedOver : Instr → Bool
  | .xsend .. | .xsendLast .. | .csnap .. | .rtake .. | .nsend .. | .svc .. => false
  | _ => true

/-- R98: the region of the acting context has closed: the live registers are these, the shadow is the live registers, the
region count is 0, the context's read and written bits are clear, and tiles' bytes, banks, objects and commands stand as they
stood. -/
def RegionClosed (s t : State) (r : Regs) : Prop :=
  (curCtx t).live = r ∧ (curCtx t).shadow = r ∧ (curCtx t).region = 0 ∧ (curCtx t).closing = none ∧
    (curCtx t).waiting = [] ∧ (curCtx t).withheld = [] ∧ (curCtx t).trap = (curCtx s).trap ∧
    (curCtx t).refusals = (curCtx s).refusals.filter (fun x => !x.marked) ∧
    t.core.tiles = s.core.tiles.map (fun h =>
      { h with readBits := h.readBits &&& ~~~ctxBit s.core.cur.val, writtenBits := h.writtenBits &&& ~~~ctxBit s.core.cur.val }) ∧
    t.core.bankRead = s.core.bankRead.map (fun b => b &&& ~~~ctxBit s.core.cur.val) ∧
    (∀ (n : Nat) (h : n < 64), t.core.rowWritten[n] = if n / 16 = s.core.cur.val then 0 else s.core.rowWritten[n]) ∧
    t.core.planeRead &&& ctxBit s.core.cur.val = 0 ∧ t.core.preSwap &&& ctxBit s.core.cur.val = 0 ∧
    t.core.scratch = s.core.scratch ∧ t.core.banks = s.core.banks ∧ t.cmds = s.cmds ∧ t.objects = s.objects ∧
    t.launches = s.launches

/-- The context of a core changes, and no other context, core or device does. -/
def OneContext (s t : State) (core ctx : Nat) (f : Ctx → Ctx) : Prop :=
  (∀ c, ctxOf s core ctx = some c → ctxOf t core ctx = some (f c)) ∧
    { t with core := s.core, parked := s.parked, issue := s.issue } = s ∧
    (((allCores s).map (·.id)).Nodup → ∀ id x, id ≠ core ∨ x ≠ ctx → ctxOf t id x = ctxOf s id x)

/-! ## Commands at issue (R190 to R196, R206) -/

/-- R193, R198: the acting context may issue a command: the core has fewer than 64 in flight, and no orphan of the context waits
to be adopted. -/
abbrev MayIssue (s : State) : Prop :=
  inFlight s s.core.id < 64 ∧ ∀ c ∈ s.cmds, c.orphan = true → c.core = s.core.id → c.ctx ≠ s.core.cur.val

/-- R187: the tiles marked read by the acting context. -/
def reads (s : State) (ts : List Nat) : State :=
  ts.foldl (fun u n => { u with core := { u.core with
    tiles := u.core.tiles.setIfInBounds n (readBy s.core.cur (u.core.tiles.getD n Reset.tile)) } }) s

/-- R195: the capture of a command that reads no operand but its token. -/
def noOperands (s : State) : Capture where
  handle := 0
  source := 0
  shape := 0
  tuple := Vector.replicate 6 0
  mask := 0
  args := []
  tile := []
  next := []
  rows := 0
  rowbytes := 0
  fmt := 0
  scaled := false
  trace := ⟨Vector.replicate 64 0, 0, 0⟩
  seed := 0
  ckcount := (regs s).ckcount
  dests := []

/-- R195: a handle captured. -/
def named (s : State) (h : BitVec 5) : Capture := { noOperands s with handle := getH s h }

/-- R195, R212: a handle, a shape entry with its start tuple and, where the conversion is stochastic, the seed captured. -/
def shaped (s : State) (h : BitVec 5) (e : BitVec 3) : Capture :=
  { named s h with
    shape := getG s e
    tuple := getQ s (BitVec.ofNat 4 (shapeIndex (getG s e)))
    seed := if shapeConv (getG s e) = true ∧ shapeConvMode (getG s e) = 5 then (regs s).srseed else 0 }

/-- R195: `m0` captured. -/
def masked (s : State) (c : Capture) : Capture := { c with mask := getM s 0 }

/-- R195: the registers after the token captured. -/
def following (s : State) (r : BitVec 6) (n : Nat) (c : Capture) : Capture :=
  { c with args := (List.range n).map fun i => (regs s).s.getD (r.toNat + 1 + i) 0 }

/-- R195: a tile captured, with its header. -/
def carrying (s : State) (t : BitVec 7) (c : Capture) : Capture :=
  let h := (frame s).tiles.getD t.toNat Reset.tile
  { c with tile := sliceMem (seen (frame s)) (8192 * t.toNat) 8192, rows := h.rows.toNat, rowbytes := h.rowbytes.toNat,
           fmt := h.fmt, scaled := h.scaled }

/-- R195: the tile after a tile captured. -/
def indexed (s : State) (t : BitVec 7) (c : Capture) : Capture :=
  { c with next := sliceMem (seen (frame s)) (8192 * (t.toNat + 1)) 8192 }

/-- R206: the record of a new command. -/
def record (s : State) (op : Instr) (kind : CmdKind) (token : BitVec 6) (writes : List RegName) (cap : Capture)
    (resolved : Bool) : Cmd where
  id := s.nextId
  core := s.core.id
  ctx := s.core.cur.val
  op := op
  kind := kind
  index := BitVec.ofNat 32 (ownIndex s)
  token := token.toNat
  writes := .s token.toNat :: writes
  cap := cap
  resolved := resolved
  released := decide (kind = .free ∨ kind = .transfer)
  order := s.nextId
  reserved := false
  result := none
  inRegion := true
  orphan := false
  adopted := false
  done := false
  discarded := false

/-- R190, R206: a command on record, with its registers pending. -/
def onRecord (s : State) (c : Cmd) : State :=
  modLive { s with nextId := s.nextId + 1, cmds := s.cmds ++ [c] } fun r => { r with pending := r.pending ++ c.writes }

/-- R213: a tile that a command may reserve. -/
abbrev vacant (s : State) (t : Nat) : Prop :=
  ((frame s).tiles.getD t Reset.tile).full = false ∧ ((frame s).tiles.getD t Reset.tile).reserved = false

/-- R187: the acting context has not read the tile in its region. -/
abbrev notRead (s : State) (t : Nat) : Prop :=
  ((frame s).tiles.getD t Reset.tile).readBits &&& ctxBit s.core.cur.val = 0

/-- R213: a tile reserved. -/
def reserveTile (s : State) (t : Nat) : State :=
  let h := s.core.tiles.getD t Reset.tile
  { s with core := { s.core with tiles := s.core.tiles.setIfInBounds t { h with reserved := true } } }

/-- A free command and its issue (R206, R213): the operation, the registers beside its token that it makes pending, its capture,
whether it names no handle for resolution, the tile that it lands in and the tiles that it reads. -/
structure FreeForm where
  op : Instr
  token : BitVec 6
  writes : List RegName
  cap : Capture
  resolved : Bool
  dest : Option Nat
  sources : List Nat

/-- R194: the free commands of the ENG slot, those with a shape when their entry is valid, and the statistics in a launch that is
not reproducible. -/
def freeForms (s : State) (g : BitVec 5) (t : BitVec 7) (r : BitVec 6) (h : BitVec 5) (e : BitVec 3) : List FreeForm :=
  let mask := if shapeProbe (getG s e) then [RegName.m (shapeMask (getG s e))] else []
  (if shapeValid (getG s e) then
    [⟨.hfet g t r h e, r, mask, shaped s h e, false, some t.toNat, []⟩,
     ⟨.hgat g t r h e, r, mask, indexed s t (masked s (shaped s h e)), false, some t.toNat, [t.toNat + 1]⟩,
     ⟨.hpfl2 g r h e, r, [], following s r 1 (shaped s h e), false, none, []⟩,
     ⟨.hres g r h e, r, [], following s r 1 (shaped s h e), false, none, []⟩,
     ⟨.hprobe g r h e, r, [.m (shapeMask (getG s e))], shaped s h e, false, none, []⟩]
  else []) ++
  [⟨.hver g r h, r, [], named s h, false, none, []⟩,
   ⟨.tdesc g t r h e, r, [.y e.toNat], carrying s t (named s h), false, some (t.toNat + 1), [t.toNat]⟩,
   ⟨.xref g t r, r, [], noOperands s, true, some t.toNat, []⟩,
   ⟨.cread g t r, r, [], noOperands s, true, some t.toNat, []⟩,
   ⟨.ncnt g r h, r, [], named s h, false, none, []⟩] ++
  (if isRepro s then [] else
    [⟨.rstat g t r h, r, [], named s h, false, some t.toNat, []⟩,
     ⟨.fcstat g t r, r, [], noOperands s, true, some t.toNat, []⟩])

/-- A withheld or checkpoint command and its issue (R194, R195), as `FreeForm`; `checked` is a tile that the command may not
have read. -/
structure HeldForm where
  op : Instr
  token : BitVec 6
  writes : List RegName
  cap : Capture
  resolved : Bool
  checked : Option Nat
  sources : List Nat

/-- R194: the withheld commands. -/
def withheldForms (s : State) (g : BitVec 5) (t : BitVec 7) (r : BitVec 6) (h d : BitVec 5) (e x : BitVec 3) (m : BitVec 2)
    (q : BitVec 4) : List HeldForm :=
  let plain := fun (op : Instr) => HeldForm.mk op r [] (named s h) false none []
  let sends := fun (op : Instr) => HeldForm.mk op r [] (carrying s t (named s h)) false none [t.toNat]
  (if shapeValid (getG s e) then
    [⟨.hput g t r h e, r, [], carrying s t (shaped s h e), false, none, [t.toNat]⟩,
     ⟨.hsca g t r h e, r, [], indexed s t (carrying s t (masked s (shaped s h e))), false, none, [t.toNat, t.toNat + 1]⟩,
     ⟨.hcopy g h d r e m, r, [], following s r 1 { shaped s h e with source := getH s d }, false, none, []⟩]
  else []) ++
  [plain (.hopen g r h), plain (.hpub g r h), plain (.hdisc g r h), plain (.hunpin g r h), plain (.hunsub g r h),
   plain (.hpin g r h), plain (.hsub g r h 0), plain (.hsub g r h 1), plain (.rbind g r h x), plain (.rdone g r h x),
   plain (.rdoneFail g r h x), plain (.fcbind g r h),
   sends (.rput g t r h), sends (.rputLast g t r h), sends (.rputUpd g t r h),
   ⟨.xsend g t r h, r, [], carrying s t (masked s (named s h)), false, none, [t.toNat]⟩,
   ⟨.xsendLast g t r h, r, [], carrying s t (masked s (named s h)), false, none, [t.toNat]⟩,
   ⟨.tgrad g t r h e, r, [], { indexed s t (carrying s t (named s h)) with trace := (regs s).y.getD e.toNat ⟨Vector.replicate 64 0, 0, 0⟩ },
     false, none, [t.toNat, t.toNat + 1]⟩,
   ⟨.csnap g t r, r, [], noOperands s, true, some t.toNat, []⟩,
   ⟨.fcbindUn g r, r, [], noOperands s, true, none, []⟩,
   ⟨.nsend g t r h, r, [], carrying s t (following s r 1 (named s h)), false, none, [t.toNat]⟩,
   ⟨.nexp g r h, r, [], following s r 1 (named s h), false, none, []⟩] ++
  if isRepro s = true ∧ 4 ≤ x.toNat then [] else
    [⟨.hatom g r h q e x, r, [], following s r 1 { named s h with tuple := getQ s q }, false, none, []⟩]

/-- R194: the checkpoint commands. -/
def checkpointForms (s : State) (g : BitVec 5) (t : BitVec 7) (r : BitVec 6) (h : BitVec 5) (o y : BitVec 3) (q : BitVec 4)
    (u : BitVec 1) (n : BitVec 10) : List HeldForm :=
  let next := [RegName.s (r.toNat + 1)]
  (if isRepro s = true ∧ 4 ≤ y.toNat then [] else
    [⟨.hatomr g r h q o y, r, next, following s r 1 { named s h with tuple := getQ s q }, false, none, []⟩,
     ⟨.hcas g r h q y, r, next, following s r 2 { named s h with tuple := getQ s q }, false, none, []⟩]) ++
  [⟨.rtake g t r h o, r, [], named s h, false, some t.toNat, []⟩,
   ⟨.svc g r n, r, next ++ [RegName.s (r.toNat + 2)], following s r 6 (noOperands s), true, none, []⟩,
   ⟨.hpinV g r h, r, [], named s h, false, none, []⟩, ⟨.hsubV g r h u, r, [], named s h, false, none, []⟩]

/-! ## The life of a command (R190, R191, R206, R208) -/

/-- No bundle is in issue, every core has a number of its own, and no context has a checkpoint that waits to close. -/
abbrev Quiet (s : State) : Prop :=
  s.issue = none ∧ ((allCores s).map (·.id)).Nodup ∧ ∀ c ∈ allCores s, ∀ x : Fin 4, (c.ctxs.get x).closing = none

/-- R334: the command's team is neither being saved nor restored. -/
abbrev NotBusy (s : State) (c : Cmd) : Prop := ∀ t ∈ cmdTeam s c, t.busy = false

/-- R208: a command that the engine has on record, whose context still runs. -/
abbrev Standing (s : State) (c : Cmd) : Prop :=
  cmdBy s c.id = some c ∧ c.done = false ∧ c.discarded = false ∧ c.orphan = false

/-- R206, R213: a command whose landing is due: its tile reserved, released, resolved and not yet performed. -/
abbrev LandingDue (s : State) (c : Cmd) : Prop :=
  Standing s c ∧ c.reserved = true ∧ c.released = true ∧ c.resolved = true ∧ c.result = none

/-- R177, R201: no slot of a context waits for a landing in tile n to change its full bit, and no late load is of tile n. -/
abbrev Undisturbed (s : State) (n : Nat) : Prop :=
  ∀ c ∈ allCores s, ∀ x : Fin 4, (∀ w ∈ (c.ctxs.get x).waiting, waitingFull n w = none) ∧ ∀ l ∈ (c.ctxs.get x).loads, l.tile ≠ n

/-- R206: a command whose engine may perform it now. -/
abbrev Due (s : State) (c : Cmd) : Prop :=
  Standing s c ∧ Quiet s ∧ NotBusy s c ∧ mayPerform s c = true ∧ c.kind = kindOf c.op ∧ (ctxOf s c.core c.ctx).isSome = true

/-- R191: a completion word. -/
def wordOf (status detail count : Nat) : BitVec 64 :=
  BitVec.ofNat 64 (status % 256 * 2 ^ 56 + detail % 2 ^ 24 * 2 ^ 32 + count % 2 ^ 32)

/-- R190, R191: the registers after a completion: the word in the token register, and the command's registers no longer pending. -/
def delivered (c : Cmd) (status detail count : Nat) (r : Regs) : Regs :=
  { r with s := r.s.setIfInBounds c.token (wordOf status detail count), pending := r.pending.filter fun w => !c.writes.contains w }

/-- R191, R198, R206: the engine performs the command and writes its completion word live, and in the shadow alike unless the command
belongs to the open region; `rest` says what else it does, with the command's context before and after. -/
def Completes (s : State) (c : Cmd) (status detail count : Nat) (rest : State → Ctx → Ctx → Prop) : Prop :=
  ∃ t k y, exec (.commandCompletion c.id) s = .next t ∧ ctxOf s c.core c.ctx = some k ∧ ctxOf t c.core c.ctx = some y ∧
    y.live = delivered c status detail count k.live ∧
    y.shadow = (if c.inRegion then k.shadow else delivered c status detail count k.shadow) ∧ rest t k y

/-- Nothing of an object changes, nor of the contexts' object state (R210). -/
def ObjectsStand (s t : State) (k y : Ctx) : Prop := t.objects = s.objects ∧ y.drafts = k.drafts ∧ y.pins = k.pins

/-- R213, R215: tile n of a core is full and no longer reserved, with this header, and owned by the context. -/
def Landed (d : CoreRec) (n ctx rows rowbytes : Nat) (fmt : BitVec 4) (scaled : Bool) : Prop :=
  let h := d.tiles.getD n Reset.tile
  h.full = true ∧ h.reserved = false ∧ h.rows = BitVec.ofNat 7 rows ∧ h.rowbytes = BitVec.ofNat 14 rowbytes ∧ h.fmt = fmt ∧
    h.scaled = scaled ∧ h.owner = BitVec.ofNat 2 ctx

/-- R215: the masks of a probing fetch: a bit for each of its rows that met an absent element. -/
def ProbeMask (t : State) (id : Nat) (probe : Bool) (rows : Nat → Prop) : Prop :=
  ∃ d x, cmdBy t id = some d ∧ d.result = some x ∧
    if probe then ∃ k, x.mask = some k ∧ ∀ i < 64, k.getLsbD i = true ↔ rows i else x.mask = none

/-- R202, R213, R215: the step lands data in tile n of the command's core, with this header; `rest` says more of the state and the core
after. -/
def Lands (i : Instr) (s : State) (c : Cmd) (n rows rowbytes : Nat) (fmt : BitVec 4) (scaled : Bool) (rest : State → CoreRec → Prop) :
    Prop :=
  ∃ u x, exec i s = .next u ∧ coreOf u c.core = some x ∧ Landed x n c.ctx rows rowbytes fmt scaled ∧ rest u x

/-- R239: the node of level l that a path word leads to. -/
def nodeOnPath (path l : Nat) : Nat := (List.range l).foldl (fun i j => 2 * i + 1 + (if path.testBit j then 1 else 0)) 0

/-- R191: the result of a performed command stands on its record. -/
def Answered (t : State) (id status detail count : Nat) : Prop :=
  ∃ d x, cmdBy t id = some d ∧ d.result = some x ∧ x.status = status ∧ x.detail = detail ∧ x.count = count

/-- R306: the objects of a command are present, and no error stands in what it would read. -/
def Reachable (s : State) (c : Cmd) (o : Obj) : Prop :=
  cmdObj s c = some o ∧ objAt s o.key = some o ∧ handleKey c.cap.handle = o.key ∧ (∀ n v r, absentCause s o n v r = 0) ∧
    ∀ v as, badView s o v as = none

/-- R34: the bits of a code. -/
def codeBits (f : Nat) : Nat := if f = 6 ∨ f = 7 then 6 else elemBits f

/-- R35, R42, R301: the first bit of an element in an object's storage. -/
def bitPlace (o : Obj) (q : List Nat) : Nat :=
  8 * elemAddr o q +
    if o.fmt = 0xB then 16 + 4 * ((shardLocal o q).headD 0 % 32)
    else if elemBits o.fmt.toNat = 4 then 4 * (linearIndex o q % 2) else 0

/-- A bit of memory. -/
def bitOfMem (m : Mem) (a : Nat) : Bool := (readByte m (a / 8)).getLsbD (a % 8)

/-- Bytes written beside elements, headers and scales: each with its address, and its value where the manual gives one. -/
abbrev Beside := List (Nat × Option Byte)

/-- R301, R314: elements written, in order, each with its code, and bytes beside them: any two elements are the same or lie apart, and
none lies in a byte beside them. -/
abbrev Apart (o : Obj) (ps : List (List Nat × Nat)) (bs : Beside) : Prop :=
  let w := elemBits o.fmt.toNat
  (∀ p ∈ ps, ∀ q ∈ ps, p.1 = q.1 ∨ bitPlace o p.1 + w ≤ bitPlace o q.1 ∨ bitPlace o q.1 + w ≤ bitPlace o p.1) ∧
    ∀ p ∈ ps, ∀ b ∈ bs, bitPlace o p.1 + w ≤ 8 * b.1 ∨ 8 * b.1 + 8 ≤ bitPlace o p.1

/-- R217, R314: each element holds the last code written to it and each byte beside them the last value, and every other bit stands. -/
def PutsElements (o : Obj) (m m' : Mem) (ps : List (List Nat × Nat)) (bs : Beside) : Prop :=
  Memory.wf m' = true ∧
    (∀ p ∈ ps, ∀ q, (ps.reverse.find? fun x => x.1 == p.1) = some q → elemCode o m' p.1 = q.2) ∧
    (∀ a x, (bs.reverse.find? fun b => b.1 == a) = some (a, some x) → readByte m' a = x) ∧
    ∀ a, (∀ p ∈ ps, a < bitPlace o p.1 ∨ bitPlace o p.1 + elemBits o.fmt.toNat ≤ a) → (∀ b ∈ bs, a / 8 ≠ b.1) →
      bitOfMem m' a = bitOfMem m a

/-- R217: the object's draft has changed its bytes so, and its versions stand. -/
def DraftBecomes (t : State) (o : Obj) (f : Store → Prop) : Prop :=
  ∃ b d, objAt t o.key = some b ∧ b.draft = some d ∧ b.versions = o.versions ∧ b.current = o.current ∧ f d.store

/-- R217: the object's draft has taken the elements and the bytes beside them, and its versions stand. -/
def DraftTakes (t : State) (o : Obj) (ps : List (List Nat × Nat)) (bs : Beside) : Prop :=
  DraftBecomes t o fun st => PutsElements o (draftStore o).bytes st.bytes ps bs

/-- R42, R301: the OX4 blocks of some elements: two of them have one block or blocks that lie apart, and a block's elements have one
address. -/
abbrev BlocksApart (o : Obj) (ps : List (List Nat)) : Prop :=
  (∀ p ∈ ps, ∀ q ∈ ps, elemAddr o p = elemAddr o q ∧ blockPoints o p = blockPoints o q ∨
    elemAddr o p + 18 ≤ elemAddr o q ∨ elemAddr o q + 18 ≤ elemAddr o p) ∧
    ∀ p ∈ ps, ∀ q ∈ blockPoints o p, elemAddr o q = elemAddr o p

/-- R41, R42, R212: the headers of a row of OX4 blocks, or the scales of a row with stored scales, beside its elements: the bytes that
`from_` gives for each block, where the row starts at a block of the object, and no value given where it does not. -/
def rowBeside (o : Obj) (m : TileMap) (point : Nat → List Nat) (from_ : Nat → Nat → Byte) : Beside :=
  let value := fun (x : Byte) => if m.start.getD m.elemCoord 0 % 32 = 0 then some x else none
  (List.range ((m.elems + 31) / 32)).flatMap fun k =>
    if o.fmt = 0xB then [0, 1].map fun b => (elemAddr o (point (32 * k)) + b, value (from_ k b))
    else if m.scales then [(scaleAddr o (point (32 * k)), value (from_ k 0))] else []

/-- R226: the new element of an atomic: 0 add, 1 min, 2 max, 3 and, 4 or, 5 xor, 6 swap; types 0 and 1 are signed, 2 and 3
unsigned, 4 and 5 floating. -/
def atomicValue (op y old operand : Nat) : Nat :=
  let w := if y % 2 = 0 then 32 else 64
  let a := BitVec.ofNat w old
  let b := BitVec.ofNat w operand
  let f := if y = 4 then f32 else f64
  match op with
  | 0 =>
    if y < 4 then (a + b).toNat else (addRound f nearestEven 0 (decodeFloat f a.toNat) (decodeFloat f b.toNat)).1 % 2 ^ w
  | 1 =>
    if y < 2 then (if a.sle b then a else b).toNat else if y < 4 then (if a.ule b then a else b).toNat
    else (minMaxCode f false a.toNat b.toNat).1 % 2 ^ w
  | 2 =>
    if y < 2 then (if a.sle b then b else a).toNat else if y < 4 then (if a.ule b then b else a).toNat
    else (minMaxCode f true a.toNat b.toNat).1 % 2 ^ w
  | 3 => (a &&& b).toNat
  | 4 => (a ||| b).toNat
  | 5 => (a ^^^ b).toNat
  | _ => b.toNat

/-- R253: a router command takes its step at a set that is open and on which nothing waits. -/
abbrev AtRouter (s : State) (c : Cmd) (w : StageSet) : Prop :=
  setBy s (handleKey c.cap.handle) = some w ∧ setPresent s w = true ∧ registered s c = false ∧ w.waiters = [] ∧
    w.closes + 1 < w.producers ∧ 1 ≤ w.stages ∧ w.stages ≤ 8

/-- R253: the outcome of a router command's step: its result, the set after it, and the context's held record. -/
def Routes (s : State) (c : Cmd) (status detail count : Nat) (rest : State → StageSet → Ctx → Prop) : Prop :=
  ∃ u w z, exec (.routingStep c.id) s = .next u ∧ Answered u c.id status detail count ∧
    setBy u (handleKey c.cap.handle) = some w ∧ ctxOf u c.core c.ctx = some z ∧ rest u w z

/-- R251: the verdicts of a stage's open window once one more is counted. -/
def verdicts (w : StageSet) (st : Nat) (pass : Bool) : Nat × Nat :=
  let p := w.passCur.getD st 0 + if pass then 1 else 0
  let f := w.failCur.getD st 0 + if pass then 0 else 1
  if 2 ^ w.window ≤ p + f then (0, 0) else (p, f)

/-! ## Tiers, faults and the network (R262 to R273, R350 to R356, R368 to R373) -/

/-- R9: an integer brought into the range of int32. -/
def intoInt32 (x : Int) : Int := if x < -(2 ^ 31) then -(2 ^ 31) else if 2 ^ 31 - 1 < x then 2 ^ 31 - 1 else x

/-- The forecast counters of a launch. -/
def forecastCounts (s : State) (launch : Nat) : Option ForecastCounters := (launchBy s launch).map (·.fc)

/-- R269: an action that its tier engine may start: no earlier one waits. -/
abbrev FirstAction (s : State) (a : Action) : Prop :=
  (s.actions.find? fun b => b.id == a.id) = some a ∧ ∀ b ∈ s.actions, a.id ≤ b.id

/-- R269: the object of an action's range. -/
def actionObject (s : State) (a : Action) : Option Obj := resolveEntry s ((launchBy s a.launch).elim 0 (·.partition)) a.op

/-- R366: context x of a core, with number `core`, awaits Rilsia with this trap record. -/
abbrev Awaits (s : State) (core : Nat) (x : Fin 4) (d : Ctx) (r : TrapRecord) : Prop :=
  ctxOf s core x.val = some d ∧ d.status = .awaiting ∧ d.trap = some r

/-- R366: the context goes on with the registers that the rollback left it. -/
def Resumed (t : State) (core : Nat) (x : Fin 4) (d : Ctx) : Prop :=
  ∃ e, ctxOf t core x.val = some e ∧ e.status = .running ∧ e.trap = none ∧ e.live = d.live ∧ e.shadow = d.shadow

/-- R306: one shard's worth of an object that this package holds, with no hint, neither lent nor moving. -/
abbrev HeldHere (s : State) (o : Obj) : Prop :=
  objAt s o.key = some o ∧ o.hint = none ∧ o.shardMap = [] ∧ o.loc.package = s.package ∧ o.loc.moving = false ∧ o.loc.lent = false

/-! ## Launches, teams and streams (R320 to R340) -/

/-- The team's cores are exactly those that were there, changed by f; every other core stands. -/
def TeamCores (s t : State) (launch team : Nat) (f : CoreRec → CoreRec) : Prop :=
  allCores t = (allCores s).map fun c => if c.launch = launch ∧ c.team = team then f c else c

/-- A team of a launch, by their numbers. -/
abbrev TeamIs (s : State) (l : Launch) (tm : Team) : Prop := launchBy s l.id = some l ∧ teamBy s l.id tm.index = some tm

/-- R320: entry e stands at the head of a stream, before the entries `rest`, and nothing is left to skip. -/
abbrev AtHead (s : State) (x : CmdStream) (e : Entry) (rest : List Entry) : Prop :=
  streamBy s x.number = some x ∧ x.entries = e :: rest ∧ x.skip = 0 ∧ e.unperformed = false

/-- The record of an entry (R322): its tag is the word at byte 4. -/
def entryRecordOf (x : CmdStream) (e : Entry) (status detail count fault : Nat) : Completion :=
  ⟨x.partition, e.queue, some x.number, BitVec.ofNat 32 (entryField e 4 4), status, detail, count, fault, [], false⟩

/-- R344: a chain of queue `queue` returned unperformed, with used length 0. -/
def unperformedRecord (part : Nat) (queue : Option Nat) : Completion := ⟨part, queue, none, 0, 0, 0, 0, 0, [], true⟩

/-- R320, R322, R343: the head entry has completed with this record, and after it the malformed requests that waited for their turn
behind it; the entries after them stand. -/
def HeadDone (s t : State) (x : CmdStream) (e : Entry) (rest : List Entry) (status detail count fault : Nat) : Prop :=
  t.completions = s.completions ++ entryRecordOf x e status detail count fault ::
      (rest.takeWhile (·.unperformed)).map (fun g => unperformedRecord x.partition g.queue) ∧
    streamBy t x.number = some { x with entries := rest.dropWhile (·.unperformed) }

/-- R325: the head entry has been accepted, and its completion is awaited. -/
def HeadActive (s t : State) (x : CmdStream) (e : Entry) (rest : List Entry) : Prop :=
  t.completions = s.completions ∧ streamBy t x.number = some { x with entries := { e with active := true } :: rest }

/-- R327, R328: the comparison of a conditional node, by its code. -/
abbrev nodeCompares (c : Nat) (a b : Int) : Prop :=
  c = 0 ∧ a = b ∨ c = 1 ∧ a ≠ b ∨ c = 2 ∧ a < b ∨ c = 3 ∧ a ≤ b ∨ c = 4 ∧ b < a ∨ c = 5 ∧ b ≤ a

/-! ## Services (R233, R377 to R383, R401) -/

/-- R377: service n performs a call by operation i. -/
def Performs (n call : Nat) (i : Instr) : Prop :=
  (n, i) ∈ [(0, .null call), (16, .createObject call), (17, .destroyObject call), (18, .createStageSet call),
    (19, .createForecastTable call), (20, .writeHintRecord call), (32, .retain call), (48, .markEndpoint call),
    (49, .registerReceiver call), (50, .configurePort call), (64, .migrate call), (65, .replicate call), (66, .spill call),
    (67, .exportObject call), (68, .endExport call), (80, .submit call), (96, .readCounters call)]

/-- R377: how many arguments a service takes. -/
def serviceArity (n : Nat) : Nat :=
  if n ∈ [0, 16, 17, 18, 48, 50, 66, 68] then 1 else if n ∈ [19, 20, 49, 65, 80, 96] then 2 else if n ∈ [32, 64, 67] then 3 else 0

/-- R401: the handle arguments of a service, from 0, with the right and the kinds that it asks for. -/
def serviceHandles (n : Nat) : List (Nat × Nat × (Obj → Bool)) :=
  if n = 0 then [] else if n = 96 then [(1, 2, kindIs .byte)]
  else if n = 20 then [(0, 2, notHost), (1, 1, kindIs .byte)]
  else if n ∈ [16, 18, 19, 50, 80] then [(0, 1, kindIs .byte)]
  else if n = 48 then [(0, 2, kindIs .byte)] else if n = 17 then [(0, 2, anyKind)] else if n = 32 then [(0, 1, anyKind)]
  else if n = 49 then [(0, 2, dataKind)] else if n ∈ [64, 66] then [(0, 2, notHost)] else if n = 65 then [(0, 1, notHost)]
  else if n ∈ [67, 68] then [(0, 2, lendable)] else []

/-- R381, R382: a call at the front of its queue whose id is in no journal, with a journal that has room. -/
abbrev Called (s : State) (c : Call) (service : Nat) : Prop :=
  (s.calls.find? fun d => d.id == c.id) = some c ∧ c.service = service ∧ c.args.length ≤ 6 ∧ unanswered s c = true ∧
    callBehind s c = false ∧ journalled s c = none ∧ journalFull s c = false ∧ recordBad s c = false

/-- R233, R401: argument i of a call names a present object on which the caller's partition has the right, of a kind that the
service takes. -/
abbrev Names (s : State) (c : Call) (i right : Nat) (kinds : Obj → Bool) (o : Obj) : Prop :=
  resolveFor s c.partition (c.args.getD i 0) right kinds = .ok o ∧ absentObj s o = false

/-- R377: the arguments after the first n are zero. -/
abbrev ZeroAfter (c : Call) (n : Nat) : Prop := (c.args.drop n).all (fun a => a == 0) = true

/-- R295: an object of this package with a new handle, which no present object has. -/
def NewObject (s t : State) (o : Obj) : Prop :=
  objAt s o.key = none ∧ objAt t o.key = some o ∧ o.present = true ∧ o.key.home = s.package ∧ o.current = 1 ∧ o.draft = none

/-- R380: an error inside a service. -/
def serviceError (e : Nat) : Reply := ⟨0x25, e, 0, []⟩

/-- R377: a service's success, with the value of its first follower register. -/
def serviceOk (value : BitVec 64) (count : Nat) : Reply := ⟨0x00, 0, count, [value, 0]⟩

/-! ## Queues of the administration, power and bring-up (R384 to R393, R400) -/

/-- R388: an administrative request finds its queue open. -/
abbrev AdminOpen (s : State) (p : Partition) : Prop :=
  partitionBy s p.number = some p ∧ s.device = 1 ∧ p.active = true ∧ p.reassigning = false ∧ p.featuresOk = true

/-- How far an SPDM sequence has come (R388). -/
def sequenceRank : SpdmState → Nat
  | .none => 0
  | .version => 1
  | .capabilities => 2
  | .algorithms => 3

/-- R344, R388: the request is answered: one reply is on the queue, its completion record has status 0x00 and carries the response,
and nothing but the partition and the model's count of free values
differs. -/
def AdminAnswers (s t : State) (p : Partition) (state : SpdmState) (r : AdminReply) : Prop :=
  partitionBy t p.number = some { p with admin := p.admin ++ [r], spdm := state } ∧
    t.completions = s.completions ++ [⟨p.number, some 0, none, r.tag, 0x00, 0, 0, 0, r.body, false⟩] ∧
    { t with partitions := s.partitions, drawn := s.drawn, completions := s.completions } = s

/-- The bytes of a 256-bit word, the first the most significant (R386). -/
def wordBytes (x : BitVec 256) : List Byte := (List.range 32).map fun i => x.extractLsb' (8 * (31 - i)) 8

/-- R386, R387: what the root of trust holds. -/
def rootOfTrust (s : State) : Vector (BitVec 256) 8 × BitVec 64 × Nat × Nat := (s.measure, s.fuses, s.package, s.owner)

/-! ## Words, bundles and steps (R21 to R24, R60 to R78, R88) -/

/-- A bundle whose slots hold `nop` but for slot k. -/
def alone (k : Nat) (i : Instr) : List Instr := (List.replicate 8 Instr.nop).set k i

/-- The words of the acting context's next bundle: zero but for slot k. -/
abbrev WordAlone (s : State) (k w : Nat) : Prop := bundleWords (bundleBytes s (live s).pc.toNat) = (List.replicate 8 0).set k w

/-- The turn is the acting core's: no stream of it is under way, its clock is its cluster's (R17), no load of the acting context is
late (R201), and the acting context goes on. -/
abbrev ActingTurn (s : State) (rest : List Turn) : Prop :=
  s.schedule = .run s.core.id :: rest ∧ s.core.streams = [] ∧ s.core.yielded = false ∧ s.issue = none ∧ (curCtx s).trap = none ∧
    (curCtx s).loads = [] ∧ cyclesBehind s = 0

/-- R372: no context of the acting core becomes silent for too long within n cycles. -/
abbrev NoneFires (s : State) (n : Nat) : Prop :=
  ∀ l, launchOf s = some l → ∀ x : Fin 4, (s.core.ctxs.get x).silence + n < 2 ^ l.watchdog

/-- The acting context takes up a bundle: it no longer stands at its checkpoint. -/
def takenUp (s : State) (rest : List Turn) : State :=
  modCtx { s with schedule := rest } fun c => { c with draining := false, atCheckpoint := false }

/-- The frame of the bundle (R23): what every slot of it reads. -/
def bundleFrame (s : State) (ops : List Instr) : State := openIssue s ops

/-- The bundle retires (R88, R90, R100) and the cycle of the core passes. -/
def retired (t : State) : State := tick (closeIssue (retireBundle t))

/-- The steps that are no slot operation: an engine, Rilsia, the host or the network moves. -/
abbrev isEvent (i : Instr) : Prop := slotOf i = none

/-- The least count of bundles in a region that overflows it (R100). -/
def regionLimit (s : State) : Nat := (launchOf s).elim 4096 (·.maxregion)

end Sys2Proof.Claims
end

