-- ==== Sys2Proof/Certificates/Slice0/Obligations.lean ====
section
/-!
DEFINITION. The statements for the provers. Each docstring names the rules of spec/ that it formalises, or the log entry of
the choice that it rests on; Sys2Proof/Safety.lean holds the terms.
-/

open Sys2Proof Sys2Proof.Machine Sys2Proof.Claims

/-- R21 to R23, R88, R90: A STEP RUNS THE DECODED INSTRUCTION. When the acting context's next bundle holds one word that decodes to
i beside `nop`s, and the context is ready, a turn of its core is `exec i` in the frame of the bundle, then the fall to the next
bundle, the bundle's retirement and the passing of a cycle; a trap of i is taken from the state before the bundle. A turn that
is an event is `exec` of it. -/
def Obligations.StepRunsTheDecodedInstruction : Prop :=
  ∀ (s : State) (rest : List Turn) (k w : Nat) (i : Instr),
    (ActingTurn s rest → 1 ≤ k → k < 8 → ctxReady s = true → WordAlone s k w → decodeSlot k w = .ok i →
      slotError (bankShare (contextsPer s)) k false i = none → isCheckpointOp i = false →
      let b := bundleFrame (takenUp s rest) (alone k i)
      ∀ t, exec i b = .next t →
        ((curCtx t).trap = none → (curCtx (advance t)).trap = none → pcIsSet t = false → step s = .next (retired (advance t))) ∧
        (∀ r, (curCtx t).trap = some r → step s = .next (tick (takeTrapAt (takenUp s rest) r.cls.toNat r.slot.toNat r.bundle.toNat
          r.detail.toNat r.operand)))) ∧
    (ActingTurn s rest → ctxReady s = true → WordAlone s 0 w → decodeSlot 0 w = .ok i →
      let b := bundleFrame (takenUp s rest) (alone 0 i)
      ∀ t, exec i b = .next t → (curCtx t).trap = none → (curCtx (advance t)).trap = none →
        step s = .next (retired (if pcIsSet t then t else advance t))) ∧
    (isEvent i → s.schedule = .event i :: rest → step s = exec i { s with schedule := rest })

/-- R62, R63, R65 to R78: words written out from the encodings, one or more of each slot, with the operations that they stand for;
and words that are refused, by name. -/
def Obligations.WrittenWordsDecode : Prop :=
  decodeSlot 0 0x60640000 = .ok (.bktj 6 4) ∧ decodeSlot 0 0x24800011 = .ok (.lbody 1 17) ∧ decodeSlot 0 0x44001CC0 = .ok (.mark 7 12) ∧
    decodeSlot 0 0x50900000 = .ok (.wait 9) ∧ decodeSlot 1 0x04028C39 = .ok (.add 0 5 6 7 1) ∧
    decodeSlot 2 0x04065FFF = .ok (.qset 0 3 1 0x1FFF) ∧ decodeSlot 3 0xE00308A2 = .ok (.vquant 0 6 4 5) ∧
    decodeSlot 4 0x10045040 = .ok (.mxrank 0 2 20 0) ∧ decodeSlot 5 0x08025003 = .ok (.acrd 0 1 20 0 3) ∧
    decodeSlot 6 0x04028338 = .ok (.tld 0 5 3 7) ∧ decodeSlot 6 0x14014706 = .ok (.tfill 0 5 7 1 2) ∧
    decodeSlot 7 0x04029411 = .ok (.hfet 0 10 20 2 1) ∧ decodeSlot 7 0xA8014C18 = .ok (.nsend 0 5 12 3) ∧
    decodeSlot 7 0xE0190820 = .ok (.svc 0 50 65) ∧ (∀ k < 8, decodeSlot k 0 = .ok .nop) ∧
    decodeSlot 2 0x3C000000 = .error (.unassigned 15) ∧ decodeSlot 0 0x50900001 = .error (.reserved 19 0) ∧
    decodeSlot 6 0x04006000 = .error (.tileRange 8)

/-- R60 to R78: DECODE AND ENCODE AGREE. The word that the encoder gives a well-formed slot operation decodes, in its slot, to that
operation; and every word that a slot accepts is the word of the operation that it decodes to, which is well-formed. -/
def Obligations.EncodedOperationsDecode : Prop :=
  (∀ (i : Instr) (k : Nat), slotOf i = some k → i.wellFormed = true → encodeNat i < 2 ^ 32 ∧ decodeSlot k (encodeNat i) = .ok i) ∧
  ∀ (i : Instr) (k w : Nat), k < 8 → w < 2 ^ 32 → decodeSlot k w = .ok i → encodeNat i = w ∧ i.wellFormed = true ∧
    (slotOf i = some k ∨ i = .nop)

/-- R61: `nop` is opcode 0x00 in every slot: its word is zero, it does nothing and it adds no issue condition; another word of that
opcode is a reserved-field error. A bundle of eight is legal, is no checkpoint bundle, and only goes on to the next bundle. -/
def Obligations.NopsDoNothing : Prop :=
  ∀ (s : State), (∀ k < 8, decodeSlot k 0 = .ok .nop ∧
      ∀ x, 0 < x → x < 2 ^ 26 → ∃ hi lo, decodeSlot k x = .error (.reserved hi lo)) ∧
    exec .nop s = .next s ∧
    (∀ ops, namesPending s (.nop :: ops) = namesPending s ops ∧ arrayHolds s (.nop :: ops) = arrayHolds s ops ∧
      commandsOf s (.nop :: ops) = commandsOf s ops) ∧
    (∀ rest, ActingTurn s rest → ctxReady s = true → bundleWords (bundleBytes s (live s).pc.toNat) = List.replicate 8 0 →
      decodeBundle s = .ok (List.replicate 8 .nop) ∧ isCheckpointOp .nop = false ∧
      (ownIndex s + 1 < codeBundles s → NoBodyEnds s → (curCtx s).region + 1 < regionLimit s → NoneFires s 1 → ∃ t, step s = .next t ∧
        live t = { live s with pc := BitVec.ofNat 32 (ownIndex s + 1) } ∧ (curCtx t).shadow = (curCtx s).shadow ∧
        (curCtx t).region = (curCtx s).region + 1 ∧ (curCtx t).trap = none ∧ t.core.scratch = s.core.scratch ∧
        t.core.tiles = s.core.tiles ∧ t.core.banks = s.core.banks ∧ t.objects = s.objects ∧ t.cmds = s.cmds ∧
        t.parked = s.parked ∧ t.core.cycle = s.core.cycle + 1))

/-- R22: an operation whose guard does not hold does nothing, whatever else stands in its word. -/
def Obligations.FailedGuardsDoNothing : Prop :=
  ∀ (s : State) (i : Instr) (g : BitVec 5), guardField i = some g → guardOn s g = false → exec i s = .next s

/-- R23, R128, R167, R173, R194: what the operations of a slot leave alone when they take no trap. Slots 1 to 3 change only live registers
of their context; slots 4 and 5 change only their core; slot 6 changes no object and no launch, and no other core
but the destinations of a transfer, cores of the sender's team in which it may reserve the tile. Slot 7 changes the records of
commands and its own core, whose bytes and banks stand; slot 0 changes no object, stage set, bank or other core's tiles, and
but at a checkpoint no command and no byte. -/
def Obligations.SlotsKeepTheirFrame : Prop :=
  ∀ (s t : State) (i : Instr) (k : Nat), slotOf i = some k → exec i s = .next t → (curCtx t).trap = none →
    (1 ≤ k → k ≤ 3 → OnlyLive s t) ∧
    (k = 4 ∨ k = 5 → OnlyCore s t) ∧
    (k = 6 → t.objects = s.objects ∧ t.launches = s.launches ∧ t.partitions = s.partitions ∧ (transferTile i = none → t.parked = s.parked) ∧
      t.sets = s.sets ∧ t.core.banks = s.core.banks ∧ t.core.active = s.core.active ∧ t.parked.length = s.parked.length ∧
      (((allCores s).map (·.id)).Nodup → ∀ (n : Nat) (c d : CoreRec), s.parked[n]? = some c → t.parked[n]? = some d → d ≠ c →
        c.launch = s.core.launch ∧ c.team = s.core.team ∧ { d with tiles := c.tiles } = c ∧
        ∀ m < 96, d.tiles.getD m Reset.tile = c.tiles.getD m Reset.tile ∨
          transferTile i = some m ∧ d.tiles.getD m Reset.tile = { c.tiles.getD m Reset.tile with reserved := true })) ∧
    (k = 7 → { t with core := s.core, cmds := s.cmds, nextId := s.nextId } = s ∧ t.core.scratch = s.core.scratch ∧
      t.core.banks = s.core.banks ∧ t.core.active = s.core.active ∧ (∀ x, x ≠ s.core.cur → t.core.ctxs.get x = s.core.ctxs.get x)) ∧
    (k = 0 → i ≠ .exit → t.objects = s.objects ∧ t.sets = s.sets ∧ t.core.banks = s.core.banks ∧ t.core.active = s.core.active ∧
      t.parked.map (·.tiles) = s.parked.map (·.tiles) ∧ t.parked.map (·.scratch) = s.parked.map (·.scratch) ∧
      (isCheckpointOp i = false → t.cmds = s.cmds ∧ t.parked = s.parked ∧ t.partitions = s.partitions ∧
        t.core.scratch = s.core.scratch ∧ t.core.tiles = s.core.tiles ∧
        (∀ x, x ≠ s.core.cur → t.core.ctxs.get x = s.core.ctxs.get x) ∧ (curCtx t).shadow = (curCtx s).shadow))

/-- R24, R62, R63, R363: a bundle that does not decode traps with class 0x01 and has no effect; its first error is named. A word whose opcode
the slot does not assign is such an error.

R33, R371, R372: turns that are no bundle: cycles in which a core issues nothing pass its cycle count, and a register parity error
takes a context back to its shadow without a trap record. -/
def Obligations.IllegalBundlesTrapAndTurnsPass : Prop :=
  (∀ (s : State) (rest : List Turn), ActingTurn s rest →
     (∀ n d x, ctxReady s = true → decodeBundle s = .error (n, d, x) → ∃ t r, step s = .next t ∧ (curCtx t).trap = some r ∧
       r.cls = 0x01 ∧ r.slot = BitVec.ofNat 8 n ∧ r.detail = BitVec.ofNat 32 d ∧ r.operand = x ∧ r.bundle = (live s).pc ∧
       live t = (curCtx s).shadow ∧ t.core.scratch = s.core.scratch ∧ t.core.banks = s.core.banks ∧ t.objects = s.objects) ∧
     (∀ k w, k < 8 → WordAlone s k w → rowOf k w = none → decodeBundle s = .error (k, 1 + 256 * (w / 2 ^ 26 % 64), 0))) ∧
  (∀ (s : State) (rest : List Turn) (x : Fin 4),
     (∀ n, s.schedule = .idle s.core.id n :: rest → s.core.streams = [] → NoneFires s n → ∃ t, step s = .next t ∧ t.schedule = rest ∧
       t.core.cycle = s.core.cycle + n ∧ t.core.scratch = s.core.scratch ∧ t.parked = s.parked ∧ t.objects = s.objects ∧
       ∀ y : Fin 4, (t.core.ctxs.get y).live = (s.core.ctxs.get y).live ∧ (t.core.ctxs.get y).trap = (s.core.ctxs.get y).trap) ∧
     (s.schedule = .parity s.core.id x.val :: rest → (s.core.ctxs.get x).status = .running → ∃ t, step s = .next t ∧
       (t.core.ctxs.get x).live = (s.core.ctxs.get x).shadow ∧ (t.core.ctxs.get x).status = .running ∧
       (t.core.ctxs.get x).trap = (s.core.ctxs.get x).trap ∧ t.partitions = s.partitions ∧ t.core.scratch = s.core.scratch ∧
       (∀ y, y ≠ x → t.core.ctxs.get y = s.core.ctxs.get y) ∧
       ∀ p, s.core.place = some p → t.parity = s.parity ++ [(p, s.micros)]))

/-- R3, R363: nothing stops the machine: every step of it answers a next state, and so does every operation and every event. The
model's choice (log entry 2): an operation or an event whose conditions do not hold answers the state that it found, which neither
rule says. -/
def Obligations.EveryStepAnswersANextState : Prop :=
  (∀ s : State, ∃ t, step s = .next t) ∧ ∀ (i : Instr) (s : State), ∃ t, exec i s = .next t

/-- R386, R387, R393: AN INVARIANT OF EVERY STEP. Measurement register 7, which nothing extends, reads zero; and the measurement
registers, the fuse word, the package's number and the owner of its configuration change in no step but one whose turn is the
bring-up of the package, and in no other operation or event. -/
def Obligations.TheRootOfTrustChangesOnlyInBringUp : Prop :=
  (∀ s t : State, s.measure.get 7 = 0 → step s = .next t → t.measure.get 7 = 0) ∧
  (∀ s t : State, step s = .next t → (∀ b rest, s.schedule ≠ .event (.packageReset b) :: rest) → rootOfTrust t = rootOfTrust s) ∧
  ∀ (s t : State) (i : Instr), (∀ b, i ≠ .packageReset b) → exec i s = .next t → rootOfTrust t = rootOfTrust s

/-- R13, R88, R154, R185, R342, R386, R391: what reset leaves, where the manual gives it: the package is in bring-up; no partition, object or
launch stands; the measurement registers, levels and throttle steps are zero; `p0` is true, every mask is all ones and every tile
is empty. The manual gives the registers, masks, tiles and tags at the start of a context or a team (R13, R88, R154, R185); that
a core which holds no team has them too is the model's choice (log entry 71). -/
def Obligations.ResetLeavesThePackageInBringUp : Prop :=
  let s := State.reset
  s.device = 0 ∧ s.partitions = [] ∧ s.objects = [] ∧ s.launches = [] ∧ s.cmds = [] ∧ (∀ i : Fin 8, s.measure.get i = 0) ∧
    (∀ i : Fin 48, s.power.level.get i = 0 ∧ s.power.throttle.get i = 0) ∧
    (∀ x : Fin 4, let r := (s.core.ctxs.get x).live
      r.p.getD 0 false = true ∧ (∀ n : Fin 16, n ≠ 0 → r.p.get n = false) ∧ (∀ n : Fin 8, r.m.get n = BitVec.allOnes 64) ∧
      (∀ n : Fin 64, r.s.get n = 0) ∧ r.fflags = 0 ∧ r.rmode = 0 ∧ r.vrot = 0 ∧ r.prot = 0 ∧ r.ckcount = 0 ∧ r.pc = 0) ∧
    (∀ t : Fin 96, (s.core.tiles.get t).full = false ∧ (s.core.tiles.get t).reserved = false) ∧ s.core.scratch = [] ∧
    (∀ b : Fin 16, s.core.tags.get b = .f32) ∧ s.core.fresh = false

/-- R90, R91: `br`, `brp` and `brx` whose predicate holds go to their own index plus the offset (and, for `brx`, the index
register), when that lies in the code section. Every body that the target leaves ends; no counter and nothing else
changes.

R90, R95: a taken `call` pushes its own index + 1 and goes to own index + offset; a taken `ret` pops the index pushed
last and goes there. A body that ends at the bundle ends; the others stay active.

R90: where control transfer traps: a taken branch, call or return outside the code section, a call at depth 16, a return from
an empty stack; and R22, R90: a transfer whose predicate fails does nothing. That the operands of the last two traps are 16 and 0
is the model's reading of "the offending value" (log entry 102). -/
def Obligations.BranchesCallsAndReturns : Prop :=
  (∀ (s : State) (p : BitVec 1) (c : BitVec 4) (o : BitVec 21) (x : BitVec 6) (k : BitVec 15), predOn s p c = true →
     (∀ target : Int, target = ownIndex s + o.toInt → inCode s target →
       ∀ i ∈ [Instr.br p c o, .brp p c o], GoesTo i s fun r =>
         { r with loops := r.loops.map (leftBy target.toNat), pc := BitVec.ofNat 32 target.toNat }) ∧
     (∀ target : Int, target = ownIndex s + (k.toInt + (getS s x).toInt) → inCode s target →
       GoesTo (.brx p c x k) s fun r =>
         { r with loops := r.loops.map (leftBy target.toNat), pc := BitVec.ofNat 32 target.toNat })) ∧
  (∀ (s : State) (p : BitVec 1) (c : BitVec 4) (o : BitVec 21), predOn s p c = true →
     (∀ target : Int, target = ownIndex s + o.toInt → inCode s target → (regs s).returns.length < 16 →
       GoesTo (.call p c o) s fun r =>
         { r with
           returns := BitVec.ofNat 32 (ownIndex s + 1) :: r.returns
           loops := r.loops.map (endedAt (ownIndex s)), pc := BitVec.ofNat 32 target.toNat }) ∧
     (∀ (a : BitVec 32) (rest : List (BitVec 32)), (regs s).returns = a :: rest → inCode s a.toNat →
       GoesTo (.ret p c) s fun r =>
         { r with returns := rest, loops := r.loops.map (endedAt (ownIndex s)), pc := a })) ∧
  (∀ (s : State) (p : BitVec 1) (c : BitVec 4) (o : BitVec 21) (x : BitVec 6) (k : BitVec 15),
     (predOn s p c = false → ∀ i ∈ [Instr.br p c o, .brp p c o, .brx p c x k, .call p c o, .ret p c], exec i s = .next s) ∧
     (predOn s p c = true → ¬inCode s (ownIndex s + o.toInt) → ∀ i ∈ [Instr.br p c o, .brp p c o],
       exec i s = .next (takeTrap s 0x06 0 0x02 (BitVec.ofInt 64 (ownIndex s + o.toInt)))) ∧
     (∀ target : Int, target = ownIndex s + (k.toInt + (getS s x).toInt) → predOn s p c = true → ¬inCode s target →
       exec (.brx p c x k) s = .next (takeTrap s 0x06 0 0x02 (BitVec.ofInt 64 target))) ∧
     (predOn s p c = true → ¬inCode s (ownIndex s + o.toInt) → (regs s).returns.length < 16 → (curCtx s).trap = none →
       exec (.call p c o) s = .next (takeTrap s 0x06 0 0x02 (BitVec.ofInt 64 (ownIndex s + o.toInt)))) ∧
     (∀ (a : BitVec 32) (rest : List (BitVec 32)), predOn s p c = true → (regs s).returns = a :: rest → ¬inCode s a.toNat →
       (curCtx s).trap = none → exec (.ret p c) s = .next (takeTrap s 0x06 0 0x02 (a.zeroExtend 64))) ∧
     (predOn s p c = true → (regs s).returns.length = 16 → exec (.call p c o) s = .next (takeTrap s 0x06 0 0x03 16)) ∧
     (predOn s p c = true → (regs s).returns = [] → exec (.ret p c) s = .next (takeTrap s 0x06 0 0x04 0)))

/-- R92, R93, R97, R109: `nest` writes a loop counter, its register form saturated to 32 bits; `lbody` enters the body of the
bundles that follow when it lies in the code and crosses no active body, its counter not zero; `rot` decrements both
rotation bases; `setb` writes a bucket's limit, saturated, and its target.

R110: `bktj` finds the first bucket that has a target and holds the count as unsigned: the count is rounded up to its
limit, the predicate becomes false and the context goes to its target, or takes the bounds trap where that lies outside the
code; with no such bucket the predicate becomes true and nothing else changes.

R96, R97 and R61, R106: `lbrk` of a level that is not active, or whose predicate fails, and `nop` change nothing; `lbrk`
of an active level goes on at the index after the level's last bundle, and the body and those nested in it end, where the bundle is
the last of one of these as well; where it is the last of an enclosing body, that body is evaluated as at any end. `yield` only asks that issue move on.

R93: `lbody` of a level whose counter is 0 skips its body; a body past the code section, and one that crosses an active body, trap.

R94: the end of a bundle in which active bodies end: innermost first, the counter goes down by one and, when it is not 0 then, the
context jumps back to the body's first bundle; at 0 the body ends and the next one out is evaluated. That the operand of the loop-body trap is the last bundle of the body is the
model's reading of "the offending value" (log entry 102). -/
def Obligations.LoopsAndBuckets : Prop :=
  (∀ (s : State) (l b : BitVec 3) (c : BitVec 16) (a : BitVec 6) (n : BitVec 5) (o : BitVec 17),
     Writes (.nest l c) s (fun r => { r with n := r.n.setIfInBounds l.toNat (c.zeroExtend 32) }) ∧
     ((getS s a).toNat ≤ 0xFFFFFFFF →
       Writes (.nestReg l a) s (fun r => { r with n := r.n.setIfInBounds l.toNat ((getS s a).truncate 32) })) ∧
     (0xFFFFFFFF < (getS s a).toNat →
       Writes (.nestReg l a) s (fun r =>
         { r with n := r.n.setIfInBounds l.toNat 0xFFFFFFFF, fflags := r.fflags ||| flSaturation })) ∧
     (ownIndex s + n.toNat + 1 < codeBundles s → (regs s).n.getD l.toNat 0 ≠ 0 →
       (∀ m < 6, m ≠ l.toNat → ((regs s).loops.getD m ⟨false, 0, 0⟩).active = true →
         ((regs s).loops.getD m ⟨false, 0, 0⟩).first.toNat ≤ ownIndex s + 1 ∧
         ownIndex s + n.toNat + 1 ≤ ((regs s).loops.getD m ⟨false, 0, 0⟩).last.toNat) →
       Writes (.lbody l n) s (fun r =>
         { r with
           loops := r.loops.setIfInBounds l.toNat
             ⟨true, BitVec.ofNat 32 (ownIndex s + 1), BitVec.ofNat 32 (ownIndex s + n.toNat + 1)⟩ })) ∧
     Writes .rot s (fun r => { r with vrot := (regs s).vrot - 1, prot := (regs s).prot - 1 }) ∧
     ((getS s a).toNat ≤ 0xFFFFFFFF →
       Writes (.setb b a o) s (fun r =>
         { r with b := r.b.set b.toNat ⟨(getS s a).truncate 32, some (ownIndex s + o.toInt)⟩ })) ∧
     (0xFFFFFFFF < (getS s a).toNat →
       Writes (.setb b a o) s (fun r =>
         { r with b := r.b.set b.toNat ⟨0xFFFFFFFF, some (ownIndex s + o.toInt)⟩, fflags := r.fflags ||| flSaturation }))) ∧
  (∀ (s : State) (a : BitVec 6) (p : BitVec 4),
     (∀ (k : Nat) (hk : k < 8) (target : Int), (regs s).b[k].target = some target →
       (getS s a).toNat ≤ (regs s).b[k].limit.toNat →
       (∀ (j : Nat) (hj : j < k), (regs s).b[j].target = none ∨ (regs s).b[j].limit.toNat < (getS s a).toNat) →
       inCode s target →
       GoesTo (.bktj a p) s fun r =>
         { r with
           s := r.s.set a.toNat ((regs s).b[k].limit.zeroExtend 64)
           p := if p = 0 then r.p else r.p.setIfInBounds (placeP (regs s) p.toNat) false
           loops := r.loops.map (leftBy target.toNat), pc := BitVec.ofNat 32 target.toNat }) ∧
     ((∀ (k : Nat) (hk : k < 8), (regs s).b[k].target = none ∨ (regs s).b[k].limit.toNat < (getS s a).toNat) →
       WritesP (.bktj a p) s p true 0) ∧
     (∀ (k : Nat) (hk : k < 8) (target : Int), (regs s).b[k].target = some target → (getS s a).toNat ≤ (regs s).b[k].limit.toNat →
       (∀ (j : Nat) (hj : j < k), (regs s).b[j].target = none ∨ (regs s).b[j].limit.toNat < (getS s a).toNat) →
       ¬inCode s target → (curCtx s).trap = none →
       exec (.bktj a p) s = .next (takeTrap s 0x06 0 0x02 (BitVec.ofInt 64 target)))) ∧
  (∀ (s : State) (p : BitVec 1) (c : BitVec 4) (l : BitVec 3) (b : Loop),
     exec .nop s = .next s ∧
     exec .yield s = .next { s with core := { s.core with yielded := true } } ∧
     (predOn s p c = false → exec (.lbrk p c l) s = .next s) ∧
     (b = (regs s).loops.getD l.toNat ⟨false, 0, 0⟩ → b.active = false → exec (.lbrk p c l) s = .next s) ∧
     (predOn s p c = true → l.toNat < 6 → regs s = live s → b = (live s).loops.getD l.toNat ⟨false, 0, 0⟩ →
       b.active = true → b.last.toNat + 1 < codeBundles s →
       (∀ m < 6, ((live s).loops.getD m ⟨false, 0, 0⟩).active = true →
         ((live s).loops.getD m ⟨false, 0, 0⟩).last.toNat = ownIndex s → m = l.toNat ∨
           b.first.toNat ≤ ((live s).loops.getD m ⟨false, 0, 0⟩).first.toNat ∧
           ((live s).loops.getD m ⟨false, 0, 0⟩).last.toNat ≤ b.last.toNat) →
       GoesTo (.lbrk p c l) s fun r =>
         { r with
           loops := r.loops.mapIdx fun m x =>
             if m = l.toNat ∨ (x.active ∧ b.first.toNat ≤ x.first.toNat ∧ x.last.toNat ≤ b.last.toNat) then
               { x with active := false }
             else x
           pc := BitVec.ofNat 32 (b.last.toNat + 1) }) ∧
     (∀ (m : Nat) (x : Loop), predOn s p c = true → l.toNat < 6 → regs s = live s →
       b = (live s).loops.getD l.toNat ⟨false, 0, 0⟩ → b.active = true → m < 6 → m ≠ l.toNat →
       x = (live s).loops.getD m ⟨false, 0, 0⟩ → x.active = true → x.last.toNat = ownIndex s →
       ¬(b.first.toNat ≤ x.first.toNat ∧ x.last.toNat ≤ b.last.toNat) → x.first.toNat < codeBundles s →
       (∀ j < 6, j ≠ m → ((live s).loops.getD j ⟨false, 0, 0⟩).active = true →
         ((live s).loops.getD j ⟨false, 0, 0⟩).last.toNat = ownIndex s → j = l.toNat ∨
           b.first.toNat ≤ ((live s).loops.getD j ⟨false, 0, 0⟩).first.toNat ∧
           ((live s).loops.getD j ⟨false, 0, 0⟩).last.toNat ≤ b.last.toNat) →
       1 < ((live s).n.getD m 0).toNat →
       GoesTo (.lbrk p c l) s fun r =>
         { r with
           n := r.n.setIfInBounds m ((live s).n.getD m 0 - 1)
           loops := r.loops.mapIdx fun j y =>
             if j = l.toNat ∨ (y.active ∧ b.first.toNat ≤ y.first.toNat ∧ y.last.toNat ≤ b.last.toNat) then
               { y with active := false }
             else y
           pc := x.first })) ∧
  (∀ (s : State) (l : BitVec 3) (n : BitVec 5), l.toNat < 6 →
     let last := ownIndex s + n.toNat + 1
     let loop := fun (m : Nat) => (regs s).loops.getD m ⟨false, 0, 0⟩
     let crosses := ∃ m < 6, m ≠ l.toNat ∧ (loop m).active = true ∧ ((loop m).last.toNat < last ∨ ownIndex s + 1 < (loop m).first.toNat)
     (codeBundles s ≤ last → exec (.lbody l n) s = .next (takeTrap s 0x06 0 0x05 (BitVec.ofNat 64 last))) ∧
     (last < codeBundles s → crosses → exec (.lbody l n) s = .next (takeTrap s 0x01 0 (0x0F + 256 * l.toNat) 0)) ∧
     (last + 1 < codeBundles s → ¬crosses → (regs s).n.getD l.toNat 0 = 0 → NoBodyEnds s →
       GoesTo (.lbody l n) s fun r => { r with pc := BitVec.ofNat 32 (last + 1) })) ∧
  (∀ (s : State) (l m : Nat), l < 6 → m < 6 → l ≠ m →
     let loop := fun (j : Nat) => (live s).loops.getD j ⟨false, 0, 0⟩
     let count := fun (j : Nat) => ((live s).n.getD j 0).toNat
     let ends := fun (j : Nat) => (loop j).active = true ∧ (loop j).last.toNat = ownIndex s
     let becomes := fun (f : Regs → Regs) => OnlyLiveAndFrame s (advance s) ∧ live (advance s) = f (live s)
     let ended := fun (r : Regs) => { r with n := r.n.setIfInBounds l 0, loops := r.loops.setIfInBounds l { loop l with active := false } }
     ends l →
     ((∀ j < 6, j ≠ l → ¬ends j) →
       (1 < count l → (loop l).first.toNat < codeBundles s → becomes fun r =>
         { r with n := r.n.setIfInBounds l ((live s).n.getD l 0 - 1), pc := (loop l).first }) ∧
       (count l ≤ 1 → ownIndex s + 1 < codeBundles s → becomes fun r => { ended r with pc := BitVec.ofNat 32 (ownIndex s + 1) })) ∧
     (ends m → (∀ j < 6, j ≠ l → j ≠ m → ¬ends j) → (loop m).first.toNat < (loop l).first.toNat →
       (1 < count l → (loop l).first.toNat < codeBundles s → becomes fun r =>
         { r with n := r.n.setIfInBounds l ((live s).n.getD l 0 - 1), pc := (loop l).first }) ∧
       (count l ≤ 1 → 1 < count m → (loop m).first.toNat < codeBundles s → becomes fun r =>
         { ended r with n := (ended r).n.setIfInBounds m ((live s).n.getD m 0 - 1), pc := (loop m).first })))

/-- R111: the integer results of every width-w operation but division, as a 64-bit value: the operation on the low 32 bits,
sign- or zero-extended, for w = 1. No flag and nothing else changes.

R57, R111: division truncates toward zero and the remainder takes the dividend's sign; the minimum divided by −1 gives the
minimum and remainder 0; division by zero gives all ones and the dividend, and raises divzero. -/
def Obligations.ScalarIntegerResults : Prop :=
  (∀ (s : State) (g : BitVec 5) (d a b : BitVec 6) (w : BitVec 3), guardOn s g = true → w = 0 ∨ w = 1 →
     ∀ (i : Instr) (signed : Bool) (f : (n : Nat) → BitVec n → BitVec n → BitVec n),
       (i, signed, f) ∈ [
         (Instr.add g d a b w, true, fun _ x y => x + y), (.sub g d a b w, true, fun _ x y => x - y),
         (.mul g d a b w, true, fun _ x y => x * y),
         (.mulh g d a b w, true, fun n x y => BitVec.ofInt n (x.toInt * y.toInt / 2 ^ n)),
         (.mulhn g d a b w, false, fun n x y => BitVec.ofNat n (x.toNat * y.toNat / 2 ^ n)),
         (.and g d a b w, true, fun _ x y => x &&& y), (.or g d a b w, true, fun _ x y => x ||| y),
         (.xor g d a b w, true, fun _ x y => x ^^^ y), (.andn g d a b w, true, fun _ x y => x &&& ~~~y),
         (.shl g d a b w, true, fun n x y => x <<< (y.toNat % n)), (.shr g d a b w, false, fun n x y => x >>> (y.toNat % n)),
         (.sar g d a b w, true, fun n x y => x.sshiftRight (y.toNat % n)),
         (.rotl g d a b w, true, fun n x y => x.rotateLeft (y.toNat % n)),
         (.min g d a b w, true, fun _ x y => if x.slt y then x else y),
         (.max g d a b w, true, fun _ x y => if x.slt y then y else x),
         (.minn g d a b w, false, fun _ x y => if x.ult y then x else y),
         (.maxn g d a b w, false, fun _ x y => if x.ult y then y else x)] →
       WritesS i s d (atWidth signed f w (getS s a) (getS s b)) 0) ∧
  (∀ (s : State) (g : BitVec 5) (d a b : BitVec 6) (w : BitVec 3), guardOn s g = true → w = 0 ∨ w = 1 →
     let zero := if w = 1 then (getS s b).truncate 32 = (0 : BitVec 32) else getS s b = 0
     ∀ (i : Instr) (signed : Bool) (f : (n : Nat) → BitVec n → BitVec n → BitVec n),
       (i, signed, f) ∈ [
         (Instr.div g d a b w, true, fun n x y => if y = 0 then BitVec.allOnes n else x.sdiv y),
         (.divn g d a b w, false, fun n x y => if y = 0 then BitVec.allOnes n else x.udiv y),
         (.rem g d a b w, true, fun _ x y => if y = 0 then x else x.srem y),
         (.remn g d a b w, false, fun _ x y => if y = 0 then x else x.umod y)] →
       (zero → WritesS i s d (atWidth signed f w (getS s a) (getS s b)) flDivzero) ∧
       (¬zero → WritesS i s d (atWidth signed f w (getS s a) (getS s b)) 0))

/-- R112 to R115, R119, R123: the operations that move, extend, select, count or add into one scalar register, from SCA and
from IDX. -/
def Obligations.ScalarMovesAndCounts : Prop :=
  ∀ (s : State) (g : BitVec 5) (d a b k : BitVec 6) (w p : BitVec 3) (i9 : BitVec 9) (i : BitVec 15) (q : BitVec 4)
    (j : BitVec 3), guardOn s g = true → w = 0 ∨ w = 1 →
    WritesS (.addi g d a i9) s d (getS s a + i9.signExtend 64) 0 ∧
    WritesS (.clz g d a w) s d (countAt leadingZeros w (getS s a)) 0 ∧
    WritesS (.ctz g d a w) s d (countAt trailingZeros w (getS s a)) 0 ∧
    WritesS (.popc g d a w) s d (countAt oneBits w (getS s a)) 0 ∧
    WritesS (.sext g d a k w) s d (((getS s a).truncate (k.toNat + 1)).signExtend 64) 0 ∧
    WritesS (.zext g d a k w) s d (((getS s a).truncate (k.toNat + 1)).zeroExtend 64) 0 ∧
    WritesS (.movi g d i) s d (i.signExtend 64) 0 ∧
    WritesS (.movk g d i) s d ((getS s d <<< 15) ||| i.zeroExtend 64) 0 ∧
    WritesS (.mov g d a w) s d (if w = 1 then ((getS s a).truncate 32).signExtend 64 else getS s a) 0 ∧
    WritesS (.sel g d a b p) s d (if (regs s).p.getD p.toNat false then getS s a else getS s b) 0 ∧
    WritesS (.iadd g d a b) s d (getS s a + getS s b) 0 ∧
    WritesS (.imovi g d i) s d (i.signExtend 64) 0 ∧
    (j.toNat < 6 → WritesS (.q2s g d q j) s d (((getQ s q).getD j.toNat 0).signExtend 64) 0)

/-- R69, R116, R119: the operations that write one predicate, through rotation; a write to `p0` is ignored (R13). -/
def Obligations.PredicateResults : Prop :=
  ∀ (s : State) (g : BitVec 5) (p a b : BitVec 4) (x y : BitVec 6) (c : BitVec 4) (w u v : BitVec 1) (j : BitVec 3),
    guardOn s g = true →
    (c.toNat ≤ 9 → w = 0 → WritesP (.cmp g p x y c w) s p (compares c.toNat 64 (getS s x) (getS s y)) 0) ∧
    (c.toNat ≤ 9 → w = 1 →
      WritesP (.cmp g p x y c w) s p (compares c.toNat 32 ((getS s x).truncate 32) ((getS s y).truncate 32)) 0) ∧
    WritesP (.pand g p a b u v) s p ((getP s a.toNat ^^ (u == 1)) && (getP s b.toNat ^^ (v == 1))) 0 ∧
    WritesP (.por g p a b u v) s p ((getP s a.toNat ^^ (u == 1)) || (getP s b.toNat ^^ (v == 1))) 0 ∧
    WritesP (.pnot g p a) s p (!getP s a.toNat) 0 ∧
    WritesP (.s2p g p x) s p (getS s x != 0) 0 ∧
    WritesS (.p2s g x a) s x (if getP s a.toNat then 1 else 0) 0 ∧
    (c.toNat ≤ 5 → j.toNat < 6 →
      WritesP (.qcmp g p a b j c) s p (compares c.toNat 32 ((getQ s a).getD j.toNat 0) ((getQ s b).getD j.toNat 0)) 0)

/-- R119, R120: the index operations: each coordinate that is written is the exact result clamped to 32 bits, with saturation
when it is clamped; the other coordinates of the tuple stand; handles move unchecked.

R123: `nodc` gives child 2a + 2 for a value above zero or +0, and child 2a + 1 for one below, −0 or a NaN, which raises
format, and invalid too when it signals; `nodl` gives 2^a − 1, saturated from 64 on. -/
def Obligations.IndexTuplesAndTreeHelpers : Prop :=
  (∀ (s : State) (g : BitVec 5) (d a b : BitVec 4) (j : BitVec 3) (i : BitVec 14) (x : BitVec 6) (h k : BitVec 5),
     guardOn s g = true → ∀ hj : j.toNat < 6,
     WritesQ (.qset g d j i) s d ((getQ s d).set j.toNat (i.signExtend 32)) 0 ∧
     WritesQ (.qinc g d j i) s d ((getQ s d).set j.toNat (clamp32 ((getQ s d)[j.toNat].toInt + i.toInt)).1)
       (clamp32 ((getQ s d)[j.toNat].toInt + i.toInt)).2 ∧
     WritesQ (.s2q g d j x) s d ((getQ s d).set j.toNat (clamp32 (getS s x).toInt).1) (clamp32 (getS s x).toInt).2 ∧
     WritesQ (.qmov g d a) s d (getQ s a) 0 ∧
     (∃ (t : State) (z : Vector (BitVec 32) 6) (fl : Flags), WritesQ (.qadd g d a b) s d z fl ∧
       exec (.qadd g d a b) s = .next t ∧
       (∀ (n : Nat) (hn : n < 6), z[n] = (clamp32 ((getQ s a)[n].toInt + (getQ s b)[n].toInt)).1) ∧
       (fl = flSaturation ∨ fl = 0) ∧
       (fl = flSaturation ↔
         ∃ (n : Nat) (hn : n < 6), (clamp32 ((getQ s a)[n].toInt + (getQ s b)[n].toInt)).2 = flSaturation)) ∧
     Writes (.hmov g h k) s (fun r => { r with h := r.h.set h.toNat (getH s k) }) ∧
     Writes (.hld g h x) s (fun r => { r with h := r.h.set h.toNat (getS s x) })) ∧
  (∀ (s : State) (g : BitVec 5) (d a b : BitVec 6), guardOn s g = true →
     let x := (getS s b).toNat
     let isNan := 0x7FF0000000000000 < x % 2 ^ 63
     let child := fun (k : Nat) (fl : Flags) => WritesS (.nodc g d a b) s d (2 * getS s a + BitVec.ofNat 64 k) fl
     (¬isNan → x < 2 ^ 63 → child 2 0) ∧
     (¬isNan → 2 ^ 63 ≤ x → child 1 0) ∧
     (isNan → x / 2 ^ 51 % 2 = 1 → child 1 flFormat) ∧
     (isNan → x / 2 ^ 51 % 2 = 0 → child 1 (flFormat ||| flInvalid)) ∧
     ((getS s a).toNat ≤ 63 → WritesS (.nodl g d a) s d (BitVec.ofNat 64 (2 ^ (getS s a).toNat - 1)) 0) ∧
     (63 < (getS s a).toNat → WritesS (.nodl g d a) s d 0x7FFFFFFFFFFFFFFF flSaturation))

/-- R17, R18, R117: what `rdsr` reads from each special register of a context whose team stands in its launch.

R17, R20, R117: `wrsr` writes the low bits that fit `fflags`, `rmode`, `srseed`, `vrot` and `prot`; a rounding mode of 6
or 7 is the illegal-bundle trap of the register with reason 2, and the register stands.

R121, R122: `gset` writes one field of a shape entry, or copies an entry, and recomputes the valid bit; a value outside
the field's limits is the bounds trap "shape field" and the entry stands. -/
def Obligations.SpecialRegistersAndShapes : Prop :=
  (∀ (s : State) (g : BitVec 5) (d : BitVec 6) (l : Launch) (t : Team), guardOn s g = true → launchOf s = some l →
     teamOf s = some t → s.core.team < 2 ^ 32 → (curCtx s).index < 2 ^ 32 → l.cols ≤ 8 → l.rows ≤ 8 → l.contexts ≤ 4 →
     ∀ (n : BitVec 8) (x : BitVec 64), (n, x) ∈ [
       ((0x00 : BitVec 8), if l.repro then (0 : BitVec 64) else BitVec.ofNat 64 (frame s).cycle),
       (0x01, BitVec.ofNat 64 s.core.team), (0x02, BitVec.ofNat 64 (curCtx s).index),
       (0x03, BitVec.ofNat 64 (s.core.rel / l.cols * 8 + s.core.rel % l.cols)),
       (0x04, BitVec.ofNat 64 (l.contexts + 8 * l.cols + 64 * l.rows + 512 * s.core.cur.val)),
       (0x08, (regs s).fflags.zeroExtend 64), (0x09, BitVec.ofNat 64 l.math), (0x0A, (regs s).rmode.zeroExtend 64),
       (0x0B, (regs s).srseed), (0x0C, BitVec.ofNat 64 t.marker), (0x0D, t.eta.zeroExtend 64),
       (0x10, (regs s).vrot.zeroExtend 64), (0x11, (regs s).prot.zeroExtend 64),
       (0x12, if l.lchk then (1 : BitVec 64) else 0), (0x13, (regs s).ckcount)] →
     WritesS (.rdsr g d n) s d x 0) ∧
  (∀ (s : State) (g : BitVec 5) (a : BitVec 6), guardOn s g = true →
     Writes (.wrsr g a 0x08) s (fun r => { r with fflags := (getS s a).truncate 7 }) ∧
     ((getS s a).toNat % 8 < 6 → Writes (.wrsr g a 0x0A) s (fun r => { r with rmode := (getS s a).truncate 3 })) ∧
     (6 ≤ (getS s a).toNat % 8 →
       exec (.wrsr g a 0x0A) s = .next (takeTrap s 0x01 1 (0x10 + 0x0A * 256 + 2 * 65536) (getS s a))) ∧
     Writes (.wrsr g a 0x0B) s (fun r => { r with srseed := getS s a }) ∧
     Writes (.wrsr g a 0x10) s (fun r => { r with vrot := (getS s a).truncate 5 }) ∧
     Writes (.wrsr g a 0x11) s (fun r => { r with prot := (getS s a).truncate 3 })) ∧
  (∀ (s : State) (g : BitVec 5) (d f : BitVec 3) (a : BitVec 6), guardOn s g = true →
     let v := getS s a
     let put := fun (lo len : Nat) (x : BitVec len) (e : BitVec 65) =>
       (e &&& ~~~(((BitVec.allOnes len).zeroExtend 65 : BitVec 65) <<< lo)) ||| ((x.zeroExtend 65 : BitVec 65) <<< lo)
     let whole := fun (e : BitVec 65) =>
       (e &&& ~~~((1 : BitVec 65) <<< 64)) ||| (if shapeValidOf e.toNat then (1 : BitVec 65) <<< 64 else 0)
     let limits : Prop :=
       (f = 0 → 1 ≤ v.toNat ∧ v.toNat ≤ 64) ∧ (f = 1 → 1 ≤ v.toNat ∧ v.toNat ≤ 8192) ∧ (f = 2 → v.toNat ≤ 15) ∧
       (f = 3 → v.toNat < 64 ∧ v.toNat % 8 ≤ 5 ∧ v.toNat / 8 ≤ 5) ∧ (f = 4 → v.toNat < 16 ∧ v.toNat / 2 ≤ 5) ∧
       (f = 5 → v.toNat < 16) ∧ (f = 6 → v.toNat ≤ 15) ∧ (f = 7 → v.toNat < 8)
     let old := getG s d
     let new : BitVec 65 :=
       if f = 0 then put 0 7 (v.truncate 7) old
       else if f = 1 then put 8 14 (v.truncate 14) old
       else if f = 2 then put 24 4 (v.truncate 4) old
       else if f = 3 then put 36 3 ((v >>> 3).truncate 3) (put 32 3 (v.truncate 3) old)
       else if f = 4 then put 41 3 ((v >>> 1).truncate 3) (put 40 1 (v.truncate 1) old)
       else if f = 5 then put 49 3 ((v >>> 1).truncate 3) (put 48 1 (v.truncate 1) old)
       else if f = 6 then put 56 4 (v.truncate 4) old
       else getG s (v.truncate 3)
     (limits → Writes (.gset g d f a) s fun r => { r with g := r.g.set d.toNat (whole new) }) ∧
     (¬limits → exec (.gset g d f a) s = .next (takeTrap s 0x06 2 0x06 v)))

/-- R118, R52, R59: the scalar floating operations on FP64 (w = 0) and FP32 (w = 1): the exact value of the codes, rounded
once in the mode of `rmode` with element index 0, and the flags; a math function that version 1 does not define traps. That an integer
which FP32 does not hold is rounded once too is the model's choice (log entry 130). -/
def Obligations.ScalarFloatResults : Prop :=
  ∀ (s : State) (g : BitVec 5) (d a b : BitVec 6) (p c fn t u : BitVec 4) (w : BitVec 3) (v : BitVec 1), guardOn s g = true →
    w = 0 ∨ w = 1 → w.toNat = v.toNat →
    let f := if w = 1 then f32 else f64
    let val := fun (r : BitVec 6) => decodeFloat f (if w = 1 then (getS s r).toNat % 2 ^ 32 else (getS s r).toNat)
    let result := fun (i : Instr) (x : Nat × Flags) => WritesS i s d (BitVec.ofNat 64 x.1) x.2
    result (.sfadd g d a b w) (addRound f (rounding s) 0 (val a) (val b)) ∧
    result (.sfmul g d a b w) (mulRound f (rounding s) 0 (val a) (val b)) ∧
    result (.sffma g d a b w) (fmaRound f (rounding s) 0 (val a) (val b) (val d)) ∧
    WritesP (.sfcmp g p a b c v) s p (cmpFloat c.toNat (val a) (val b))
      (if (val a).isSig ∨ (val b).isSig then flInvalid else 0) ∧
    (fn.toNat < 0xB → result (.sfxf g d a fn v) (mathFun f fn.toNat (val a))) ∧
    (0xB ≤ fn.toNat → exec (.sfxf g d a fn v) s = .next (takeTrap s 0x01 1 (0x0A + 256 * fn.toNat) 0)) ∧
    (∀ x : Nat × Flags, x = convCode t.toNat (rounding s) 0 (elemVal u.toNat ((getS s a).toNat % 2 ^ elemBits u.toNat)) →
      WritesS (.sfcvt g d a t u) s d
        (if t = 0xC then (BitVec.ofNat 32 x.1).signExtend 64 else BitVec.ofNat 64 (x.1 % 2 ^ elemBits t.toNat)) x.2)

/-- R136, R137: the integer and bitwise operations of the vector slot, lane by lane under the mask; they raise no flag.

R138 to R142: the lane moves: `vsel`, `vbcast`, `vins`, `vext`, `vperm`, `vslide`, `vzip`, `vunzip`, `vcompress` and
`vexpand`. -/
def Obligations.VectorIntegerLanesAndMoves : Prop :=
  (∀ (s : State) (g : BitVec 5) (d a b : BitVec 6) (t : BitVec 2) (m : BitVec 1), guardOn s g = true →
     let lanes := fun (i : Instr) (w : Nat) (f : BitVec w → BitVec w → BitVec w) =>
       LaneWise i s d w m fun n => ((f (laneBits w (getV s a) n) (laneBits w (getV s b) n)).toNat, 0)
     (t ≠ 3 →
       let w := intWidth t
       lanes (.viadd g d a b t m) w (fun x y => x + y) ∧ lanes (.visub g d a b t m) w (fun x y => x - y) ∧
       lanes (.vimul g d a b t m) w (fun x y => x * y) ∧
       lanes (.vimulh g d a b t m) w (fun x y => BitVec.ofInt w (x.toInt * y.toInt / 2 ^ w)) ∧
       lanes (.vshl g d a b t m) w (fun x y => x <<< (y.toNat % w)) ∧
       lanes (.vshr g d a b t m) w (fun x y => x >>> (y.toNat % w)) ∧
       lanes (.vsar g d a b t m) w (fun x y => x.sshiftRight (y.toNat % w)) ∧
       lanes (.vimin g d a b t m) w (fun x y => if x.slt y then x else y) ∧
       lanes (.vimax g d a b t m) w (fun x y => if x.slt y then y else x) ∧
       lanes (.viminn g d a b t m) w (fun x y => if x.ult y then x else y) ∧
       lanes (.vimaxn g d a b t m) w (fun x y => if x.ult y then y else x) ∧
       lanes (.vpopc g d a t m) w (fun x _ => BitVec.ofNat w (oneBits w x)) ∧
       lanes (.vclz g d a t m) w (fun x _ => BitVec.ofNat w (leadingZeros w x))) ∧
     lanes (.vand g d a b m) 64 (fun x y => x &&& y) ∧ lanes (.vor g d a b m) 64 (fun x y => x ||| y) ∧
     lanes (.vxor g d a b m) 64 (fun x y => x ^^^ y) ∧ lanes (.vnot g d a m) 64 (fun x _ => ~~~x) ∧
     lanes (.vmov g d a m) 64 (fun x _ => x)) ∧
  (∀ (s : State) (g : BitVec 5) (d a b : BitVec 6) (t : BitVec 2) (m : BitVec 1), guardOn s g = true →
     let w := classWidth t
     let la := fun (w n : Nat) => laneBits w (getV s a) n
     let lb := fun (w n : Nat) => laneBits w (getV s b) n
     LanesAre (.vsel g d a b t) s d w (fun n => if activeLaneB s 1 w n then la w n else lb w n) ∧
     LaneWise (.vbcast g d a t m) s d w m (fun _ => ((getS s a).toNat, 0)) ∧
     LanesAre (.vins g d a b t) s d w
       (fun n => if n = b.toNat then (getS s a).truncate w else laneBits w (getV s d) n) ∧
     WritesS (.vext g d a b t) s d ((la w b.toNat).zeroExtend 64) 0 ∧
     LanesAre (.vperm g d a b m) s d 8 (fun n =>
       if activeLaneB s m 64 (n / 8) then la 8 (lb 8 n).toNat else laneBits 8 (getV s d) n) ∧
     LaneWise (.vslide g d a b t m) s d w m (fun n =>
       (if 0 ≤ n + b.toInt ∧ n + b.toInt < (2048 / w : Nat) then (la w (n + b.toInt).toNat).toNat else 0, 0)) ∧
     (d ≠ 63 → ∃ x y : V2048,
       Writes (.vzip g d a b) s (fun r =>
         { r with v := (r.v.setIfInBounds (placeV (regs s) d.toNat) x).setIfInBounds (placeV (regs s) (d.toNat + 1)) y }) ∧
       ∀ n < 32, laneBits 32 x (2 * n) = la 32 n ∧ laneBits 32 x (2 * n + 1) = lb 32 n ∧
         laneBits 32 y (2 * n) = la 32 (32 + n) ∧ laneBits 32 y (2 * n + 1) = lb 32 (32 + n)) ∧
     (d ≠ 63 → ∃ x y : V2048,
       Writes (.vunzip g d a b) s (fun r =>
         { r with v := (r.v.setIfInBounds (placeV (regs s) d.toNat) x).setIfInBounds (placeV (regs s) (d.toNat + 1)) y }) ∧
       ∀ n < 32, laneBits 32 x n = la 32 (2 * n) ∧ laneBits 32 x (32 + n) = lb 32 (2 * n) ∧
         laneBits 32 y n = la 32 (2 * n + 1) ∧ laneBits 32 y (32 + n) = lb 32 (2 * n + 1)) ∧
     (t = 0 ∨ t = 1 →
       LanesAre (.vcompress g d a t) s d w (fun n => ((setBits s (2048 / w))[n]?).elim 0 (la w)) ∧
       LanesAre (.vexpand g d a t) s d w (fun n =>
         if ((regs s).m[0]).getLsbD n then la w (setBits s n).length else 0)))

/-- R129 to R132: the floating operations of the vector slot: each active lane holds the operation on the exact values of its
codes, rounded once, with the lane's number as element index; `vxf` of a code below 0xB likewise, and of another traps. -/
def Obligations.VectorFloatLanes : Prop :=
  ∀ (s : State) (g : BitVec 5) (d a b : BitVec 6) (t : BitVec 2) (m : BitVec 1) (fn : BitVec 4), guardOn s g = true →
    let f := floatClass t
    let val := fun (r : BitVec 6) (n : Nat) => decodeFloat f (laneBits f.width (getV s r) n).toNat
    let lanes := fun (i : Instr) (op : Nat → Nat × Flags) => LaneWise i s d f.width m op
    let bits := fun (i : Instr) (op : BitVec f.width → BitVec f.width → BitVec f.width) =>
      lanes i fun n => ((op (laneBits f.width (getV s a) n) (laneBits f.width (getV s b) n)).toNat, 0)
    let sign : BitVec f.width := 1 <<< (f.width - 1)
    lanes (.vadd g d a b t m) (fun n => addRound f (rounding s) n (val a n) (val b n)) ∧
    lanes (.vsub g d a b t m) (fun n => addRound f (rounding s) n (val a n) (val b n).negate) ∧
    lanes (.vmul g d a b t m) (fun n => mulRound f (rounding s) n (val a n) (val b n)) ∧
    lanes (.vdiv g d a b t m) (fun n => divRound f (rounding s) n (val a n) (val b n)) ∧
    lanes (.vfma g d a b t m) (fun n => fmaRound f (rounding s) n (val a n) (val b n) (val d n)) ∧
    lanes (.vfms g d a b t m) (fun n => fmaRound f (rounding s) n (val a n) (val b n) (val d n).negate) ∧
    lanes (.vfnma g d a b t m) (fun n => fmaRound f (rounding s) n (val a n).negate (val b n) (val d n)) ∧
    lanes (.vsqrt g d a t m) (fun n => sqrtRound f (rounding s) n (val a n)) ∧
    lanes (.vmin g d a b t m) (fun n =>
      minMaxCode f false (laneBits f.width (getV s a) n).toNat (laneBits f.width (getV s b) n).toNat) ∧
    lanes (.vmax g d a b t m) (fun n =>
      minMaxCode f true (laneBits f.width (getV s a) n).toNat (laneBits f.width (getV s b) n).toNat) ∧
    bits (.vabs g d a t m) (fun x _ => x &&& ~~~sign) ∧ bits (.vneg g d a t m) (fun x _ => x ^^^ sign) ∧
    bits (.vcpys g d a b t m) (fun x y => (x &&& ~~~sign) ||| (y &&& sign)) ∧
    (fn.toNat ≤ 5 → lanes (.vrnd g d a fn t m) fun n =>
      roundIntegral f ⟨fn.toNat, (rounding s).seed⟩ n (laneBits f.width (getV s a) n).toNat) ∧
    lanes (.vrnd g d a 6 t m) (fun n => roundIntegral f (rounding s) n (laneBits f.width (getV s a) n).toNat) ∧
    (fn.toNat < 0xB → lanes (.vxf g d a fn t m) fun n => mathFun f fn.toNat (val a n)) ∧
    (0xB ≤ fn.toNat → exec (.vxf g d a fn t m) s = .next (takeTrap s 0x01 3 (0x0A + 256 * fn.toNat) 0))

/-- R133, R143: comparisons into a mask, bit n for lane n and zero for an inactive lane and beyond the lanes; the mask
operations.

R55, R56, R144 to R146: reductions combine the lanes, masked-off ones as identities, pair by pair in the tree of R55, and
scans in the steps of R56; for wrapping integer addition that is the sum of the active lanes, and of those up to a lane. -/
def Obligations.MasksReductionsAndScans : Prop :=
  (∀ (s : State) (g : BitVec 5) (d a b : BitVec 3) (r x y : BitVec 6) (c : BitVec 3) (t : BitVec 2) (m : BitVec 1),
     guardOn s g = true →
     WritesM (.mand g d a b) s d (getM s a &&& getM s b) 0 ∧ WritesM (.mor g d a b) s d (getM s a ||| getM s b) 0 ∧
     WritesM (.mxor g d a b) s d (getM s a ^^^ getM s b) 0 ∧ WritesM (.mnot g d a) s d (~~~getM s a) 0 ∧
     WritesS (.mpop g r a) s r (BitVec.ofNat 64 (oneBits 64 (getM s a))) 0 ∧
     WritesS (.mfirst g r a) s r (BitVec.ofNat 64 (trailingZeros 64 (getM s a))) 0 ∧
     (c.toNat ≤ 6 →
       let w := if t = 0 ∨ t = 2 then 64 else 32
       let f := if t = 0 then f64 else f32
       let val := fun (v : BitVec 6) (n : Nat) => decodeFloat f (laneBits w (getV s v) n).toNat
       ∃ (z : BitVec 64) (fl : Flags), WritesM (.vcmp g d x y c t m) s d z fl ∧
         (∀ n < 64, z.getLsbD n = (decide (n < 2048 / w) && activeLaneB s m w n &&
           if t.toNat < 2 then cmpFloat c.toNat (val x n) (val y n)
           else compares c.toNat w (laneBits w (getV s x) n) (laneBits w (getV s y) n))) ∧
         flagsOf fl (2048 / w) (activeLane s m w) fun n =>
           if t.toNat < 2 ∧ ((val x n).isSig ∨ (val y n).isSig) then flInvalid else 0)) ∧
  (∀ (s : State) (g : BitVec 5) (d a : BitVec 6) (fn : BitVec 4) (t : BitVec 2) (m : BitVec 1), guardOn s g = true →
     t = 0 ∨ t = 1 → fn.toNat ≤ 11 →
     let w := if t = 0 then 64 else 32
     let lane := fun (n : Nat) => (if activeLaneB s m w n then laneBits w (getV s a) n else 0 : BitVec w)
     let enters := (List.range (2048 / w)).map fun n =>
       if activeLaneB s m w n then (laneBits w (getV s a) n).toNat else identity fn.toNat t.toNat
     let x := treeReduce (combine fn.toNat t.toNat (rounding s)) 7 1 enters
     let y := scanSteps (combine fn.toNat t.toNat (rounding s)) (if t = 0 then 5 else 6) 0 enters
     WritesS (.vred g d a fn t m) s d
       (if t = 1 ∧ 4 ≤ fn.toNat ∧ fn ≠ 7 ∧ fn ≠ 8 then (BitVec.ofNat 32 x.1).signExtend 64
         else BitVec.ofNat 64 (x.1 % 2 ^ w)) x.2 ∧
     WritesS (.vred g d a 4 t m) s d
       (((List.range (2048 / w)).foldl (fun z n => z + lane n) 0).signExtend 64) 0 ∧
     (∃ v : V2048, WritesV (.vscan g d a fn t m) s d v y.2 ∧ ∀ n < 2048 / w, laneBits w v n = BitVec.ofNat w (y.1.getD n 0)) ∧
     LanesAre (.vscan g d a 4 t m) s d w (fun n => (List.range (n + 1)).foldl (fun z k => z + lane k) 0))

/-- R135, R147 to R152: conversion of packed lanes, histograms, the clip bound, quantisation and its inverse. The model's choices: an integer of
more than 24 bits is rounded once to FP32, in the mode in force (log entry 130), and the outlier test raises no flag (log entry 131). -/
def Obligations.ConversionHistogramAndQuantisation : Prop :=
  ∀ (s : State) (g : BitVec 5) (d a b : BitVec 6) (tf sf : BitVec 4) (t : BitVec 2) (m : BitVec 1), guardOn s g = true →
    (tf ≠ 0xB → sf ≠ 0xB → tf ≠ sf →
      let wt := elemBits tf.toNat
      let ws := elemBits sf.toNat
      let w := max wt ws
      let conv := fun (n : Nat) =>
        convCode tf.toNat (rounding s) n (elemVal sf.toNat (laneBits ws (getV s a) n).toNat)
      ∃ (x : V2048) (fl : Flags), WritesV (.vcvt g d a tf sf m) s d x fl ∧
        (∀ n < 2048 / w, laneBits wt x n =
          if activeLaneB s m w n then BitVec.ofNat wt (conv n).1 else laneBits wt (getV s d) n) ∧
        (∀ n < 2048, 2048 / w * wt ≤ n → x.getLsbD n = false) ∧
        flagsOf fl (2048 / w) (activeLane s m w) fun n => (conv n).2) ∧
    (t = 0 ∨ t = 1 →
      let w := if t = 0 then 64 else 32;
      let bin := fun (n : Nat) =>
        if t = 1 then (laneBits 32 (getV s a) n).toNat / 2 ^ 25 % 64 else (laneBits 64 (getV s a) n).toNat / 2 ^ 57 % 64
      let count := fun (j : Nat) => (laneBits 32 (getV s d) j).toNat +
        ((List.range (2048 / w)).filter fun n => activeLaneB s m w n && bin n == j).length
      (∃ (x : V2048) (fl : Flags), WritesV (.vhist g d a t m) s d x fl ∧
        (∀ j < 64, (laneBits 32 x j).toNat = min (count j) 0xFFFFFFFF) ∧
        fl = if (List.range 64).any fun j => decide (0xFFFFFFFF < count j) then flSaturation else 0) ∧
      (let sum := fun (j : Nat) => ((List.range (j + 1)).map fun k => (laneBits 32 (getV s a) k).toNat).sum;
        (∀ j < 63, (getS s b).toNat ≤ sum j → (∀ k < j, sum k < (getS s b).toNat) →
          WritesS (.vqclip g d a b t) s d
            (BitVec.ofNat 64 (if t = 1 then (4 * j + 4) * 2 ^ 23 else (32 * j + 32) * 2 ^ 52)) 0) ∧
        ((∀ k < 63, sum k < (getS s b).toNat) →
          WritesS (.vqclip g d a b t) s d (if t = 1 then 0x7F800000 else 0x7FF0000000000000) 0))) ∧
    (4 ≤ tf.toNat → tf.toNat ≤ 0xB →
      let x := quantRegister tf.toNat (rounding s)
        ((List.range 64).map fun n => decodeFloat f32 (laneBits 32 (getV s a) n).toNat)
      WritesV (.vquant g d a tf) s d (BitVec.ofNat 2048 x.1) x.2) ∧
    (4 ≤ sf.toNat → sf.toNat ≤ 0xB →
      let x := dequantValues sf.toNat (getV s a).toNat
      ∃ (v : V2048) (fl : Flags), WritesV (.vdeq g d a sf) s d v fl ∧
        (∀ n < 64, laneBits 32 v n = BitVec.ofNat 32 (toFloatCode f32 (rounding s) n (x.1.getD n (.fin false 0 0))).1) ∧
        fl = x.2 ||| orFlags ((List.range 64).map fun n => (toFloatCode f32 (rounding s) n (x.1.getD n (.fin false 0 0))).2))

/-- R174 to R177: `tld` and `tlds` read the named bytes of a full tile, and `thdr` its header word at once; a read sets the
context's read bit and leaves every byte of memory. Where the loads of the context are late, the load is noted instead, to be performed
later: R201 lets a load be late, and which loads are is the model's choice (log entry 14).

R174 to R177: `tst`, `tsts` and `tfill` store into the tile, whatever its full bit holds, exactly the bytes named; `tfill`
sets the written bit and, when asked, the full bit with the context as owner. -/
def Obligations.TilesAreReadAndStored : Prop :=
  (∀ (s : State) (g : BitVec 5) (v r ix : BitVec 6) (t : BitVec 7) (row : BitVec 5) (z : BitVec 2), guardOn s g = true →
     Canonical s → t.toNat < 96 →
     ((curCtx s).defers = true → readable s t →
       let late := fun (l : LateLoad) => modCtx (onTile s t (readBy s.core.cur)) fun c => { c with loads := c.loads ++ [l] }
       exec (.tld g v t row) s = .next (late ⟨.v (placeV (regs s) v.toNat), t.toNat, 256 * row.toNat, 256⟩) ∧
       (z = 0 ∨ z = 1 → let size := if z = 1 then 8 else 4
         size * (getS s ix).toNat + size ≤ 8192 →
           exec (.tlds g r t ix z) s = .next (late ⟨.s r.toNat, t.toNat, size * (getS s ix).toNat, size⟩))) ∧
     ((curCtx s).defers = false → readable s t → ∃ x : V2048,
       exec (.tld g v t row) s = .next (modLive (onTile s t (readBy s.core.cur)) fun q =>
         { q with v := q.v.setIfInBounds (placeV (regs s) v.toNat) x }) ∧
       ∀ k < 256, byteAt x k = tileByte s t.toNat (256 * row.toNat + k)) ∧
     (z = 0 ∨ z = 1 → (curCtx s).defers = false → readable s t →
       let size := if z = 1 then 8 else 4
       size * (getS s ix).toNat + size ≤ 8192 → ∃ x : BitVec 64,
         exec (.tlds g r t ix z) s = .next (modLive (onTile s t (readBy s.core.cur)) fun q => { q with s := q.s.set r.toNat x }) ∧
         ∀ k < 8, byteAt x k = if k < size then tileByte s t.toNat (size * (getS s ix).toNat + k) else 0) ∧
     (∃ x : BitVec 64, WritesS (.thdr g t r) s r x 0 ∧
       let h := (frame s).tiles.getD t.toNat Reset.tile
       x.extractLsb' 0 7 = h.rows ∧ x.extractLsb' 7 14 = h.rowbytes ∧ x.getLsbD 21 = false ∧ x.extractLsb' 22 4 = h.fmt ∧
       x.getLsbD 26 = h.scaled ∧ x.extractLsb' 27 4 = 0 ∧ x.getLsbD 31 = (h.full && !h.reserved) ∧
       x.extractLsb' 32 2 = h.owner ∧ x.extractLsb' 34 4 = h.readBits ∧ x.extractLsb' 38 26 = 0)) ∧
  (∀ (s : State) (g : BitVec 5) (v r ix : BitVec 6) (t : BitVec 7) (row : BitVec 5) (z w : BitVec 2) (f : BitVec 1),
     guardOn s g = true → Canonical s → t.toNat < 96 → unread s 6 t →
     Stores (.tst g v t row) s (8192 * t.toNat + 256 * row.toNat) 256 (byteAt (getV s v)) id ∧
     (z = 0 ∨ z = 1 →
       let size := if z = 1 then 8 else 4
       size * (getS s ix).toNat + size ≤ 8192 →
         Stores (.tsts g r t ix z) s (8192 * t.toNat + size * (getS s ix).toNat) size (byteAt (getS s r)) id) ∧
     Stores (.tfill g t r f w) s (8192 * t.toNat) 8192 (fun k => byteAt (getS s r) (k % 2 ^ w.toNat)) fun u =>
       onTile (if f = 1 then afterFull u t true else u) t fun h =>
         let h1 := { h with writtenBits := h.writtenBits ||| ctxBit s.core.cur.val }
         if f = 1 then { h1 with full := true, owner := BitVec.ofNat 2 s.core.cur.val } else h1)

/-- R177: `tfmt` writes the header fields that lie within their limits and else takes the bounds trap "tile header"; outside a
checkpoint bundle `tfree` and `tsetf` change the full bit of a tile that is not reserved, and with `tsetf` what the context wrote to
it shows to those that wait on it (R203); in one they are withheld until the region closes. No byte of memory changes.

R29, R177, R181, R190: a slot that reads an empty tile waits, and so does a change of the full bit of a reserved one: it is
recorded with its operation and the registers before its bundle, a command's registers are pending from now on, and nothing else
changes. R167: a write of rows that the region rule forbids traps all the same. -/
def Obligations.TileHeadersAndWaits : Prop :=
  (∀ (s : State) (g : BitVec 5) (r : BitVec 6) (t : BitVec 7) (c : BitVec 1) (f : BitVec 4), guardOn s g = true → t.toNat < 96 →
     let rows := (getS s r).extractLsb' 0 7
     let rowbytes := (getS s r).extractLsb' 7 14
     let legal := 1 ≤ rows.toNat ∧ rows.toNat ≤ 64 ∧ 1 ≤ rowbytes.toNat ∧ rowbytes.toNat ≤ 8192 ∧
       rows.toNat * rowbytes.toNat ≤ 8192
     (legal → unread s 6 t → exec (.tfmt g t r c f) s =
       .next (onTile s t fun h => { h with rows := rows, rowbytes := rowbytes, fmt := f, scaled := decide (c = 1) })) ∧
     (¬legal → exec (.tfmt g t r c f) s = .next (takeTrap s 0x06 6 0x0B (getS s r))) ∧
     (inCheckpoint s = false → ((frame s).tiles.getD t.toNat Reset.tile).reserved = false → unread s 6 t →
       exec (.tfree g t) s = .next (onTile (afterFull s t false) t fun h => { h with full := false }) ∧
       exec (.tsetf g t) s =
         .next (onTile (afterFull s t true) t fun h => { h with full := true, owner := BitVec.ofNat 2 s.core.cur.val })) ∧
     (inCheckpoint s = true →
       exec (.tfree g t) s = .next (modCtx s fun x => { x with withheld := x.withheld ++ [.fullBit t.toNat false] }) ∧
       exec (.tsetf g t) s = .next (modCtx s fun x => { x with withheld := x.withheld ++ [.fullBit t.toNat true] }))) ∧
  (∀ (s : State) (g : BitVec 5) (v r ix : BitVec 6) (t d : BitVec 7) (row : BitVec 5) (b f : BitVec 4) (x row' : BitVec 2)
     (h : BitVec 5) (k : BitVec 6) (e col : BitVec 3),
     guardOn s g = true →
     let waits := fun (slot : Nat) (i : Instr) (pend : List RegName) => exec i s = .next (modCtx s fun c =>
       { c with
         waiting := c.waiting ++ [⟨slot, i, regs s, BitVec.ofNat 32 (ownIndex s), inCheckpoint s, s.issue.elim [] (·.reads)⟩]
         live := { c.live with pending := c.live.pending ++ pend } })
     let sends := fun (i : Instr) => waits 7 i [.s r.toNat]
     (((frame s).tiles.getD t.toNat Reset.tile).full = false →
       waits 6 (.tld g v t row) [] ∧ (4 * (getS s ix).toNat + 4 ≤ 8192 → waits 6 (.tlds g r t ix 0) []) ∧
       (8 * (getS s ix).toNat + 8 ≤ 8192 → waits 6 (.tlds g r t ix 1) []) ∧
       ((getS s r).toNat ≤ 8192 → waits 6 (.tcopy g d t r) []) ∧ waits 6 (.tpack g d t r) [] ∧ waits 4 (.mxlw g t b x) [] ∧
       waits 4 (.mxs g b t f k) [] ∧ waits 4 (.mxrank g b t k) [] ∧
       (s.core.bankRead.getD (bankOf s b) 0 &&& ctxBit s.core.cur.val = 0 →
         waits 5 (.acwr g b t k f) [] ∧
         ((∀ n < 64, k.toNat ≤ n → rowWritten s b n) → waits 5 (.acadd g b t k f) []) ∧
         (∀ n < 64, k.toNat ≤ n → ¬rowWritten s b n → (∀ m < n, k.toNat ≤ m → rowWritten s b m) →
           exec (.acadd g b t k f) s = .next (takeTrap s 0x02 5 (0x02 + 256 * (b.toNat * 256 + n)) 0))) ∧
       (s.core.bankRead.getD (bankOf s b) 0 &&& ctxBit s.core.cur.val ≠ 0 → ∀ i ∈ [Instr.acwr g b t k f, .acadd g b t k f],
         exec i s = .next (takeTrap s 0x02 5 (0x02 + 256 * (b.toNat * 256 + k.toNat)) 0)) ∧
       (∀ i ∈ [Instr.rput g t r h, .rputLast g t r h, .rputUpd g t r h, .xsend g t r h, .xsendLast g t r h, .nsend g t r h,
           .tgrad g t r h e], sends i) ∧
       waits 7 (.tdesc g t r h e) [.s r.toNat, .y e.toNat] ∧
       (shapeValid (getG s e) = true → sends (.hput g t r h e) ∧ sends (.hsca g t r h e)) ∧
       (inFlight s s.core.id < 64 → notRead s t.toNat →
         waits 6 (.txfer g t k row' col) [.s k.toNat] ∧ waits 6 (.txferRow g t k row') [.s k.toNat] ∧
         waits 6 (.txferAll g t k) [.s k.toNat])) ∧
     (((frame s).tiles.getD (t.toNat + 1) Reset.tile).full = false →
       sends (.tgrad g t r h e) ∧ (shapeValid (getG s e) = true → sends (.hsca g t r h e) ∧
         waits 7 (.hgat g t r h e) (.s r.toNat :: if shapeProbe (getG s e) then [.m (shapeMask (getG s e))] else []))) ∧
     (inCheckpoint s = false → ((frame s).tiles.getD t.toNat Reset.tile).reserved = true →
       waits 6 (.tfree g t) [] ∧ waits 6 (.tsetf g t) []))

/-- R178, R179: `tcopy` copies the first bytes and the header of another tile; `tpack` copies the rows whose bit of `m0` is set,
in order, and writes how many.

R178: `tcopy` of a tile onto itself copies its header onto itself: only the read bit of the context may change. A length
above 8,192 is the bounds trap "tile length". R187, R188: `tpack` of a tile onto itself packs it where the context has filled it
whole in its region, and is a region violation elsewhere. -/
def Obligations.TileCopiesAndPacks : Prop :=
  (∀ (s : State) (g : BitVec 5) (n : BitVec 6) (d c : BitVec 7), guardOn s g = true → Canonical s → d.toNat < 96 →
     c.toNat < 96 → d ≠ c → readable s c → unread s 6 d →
     let src := (frame s).tiles.getD c.toNat Reset.tile
     ((getS s n).toNat ≤ 8192 →
       Stores (.tcopy g d c n) s (8192 * d.toNat) (getS s n).toNat (fun k => tileByte s c.toNat k) fun u =>
         onTile (onTile u c (readBy s.core.cur)) d fun h =>
           let h1 := headerFrom src h
           if (getS s n).toNat = 8192 then { h1 with writtenBits := h1.writtenBits ||| ctxBit s.core.cur.val } else h1) ∧
     (let picked := (List.range src.rows.toNat).filter fun i => (getM s 0).getLsbD i
       let rb := src.rowbytes.toNat
       picked.length * rb ≤ 8192 → src.rows.toNat ≤ 64 →
       Stores (.tpack g d c n) s (8192 * d.toNat) (picked.length * rb)
         (fun k => tileByte s c.toNat (picked.getD (k / rb) 0 * rb + k % rb)) fun u =>
           modLive (onTile (onTile u c (readBy s.core.cur)) d fun h =>
             { headerFrom src h with rows := BitVec.ofNat 7 picked.length }) fun q =>
               { q with s := q.s.set n.toNat (BitVec.ofNat 64 picked.length) })) ∧
  (∀ (s : State) (g : BitVec 5) (n : BitVec 6) (d c : BitVec 7), guardOn s g = true →
     ((getS s n).toNat ≤ 8192 → readable s c → unread s 6 c →
       exec (.tcopy g c c n) s = .next (onTile s c (readBy s.core.cur))) ∧
     (8192 < (getS s n).toNat → exec (.tcopy g d c n) s = .next (takeTrap s 0x06 6 0x0C (getS s n)))) ∧
  (∀ (s : State) (g : BitVec 5) (n : BitVec 6) (c : BitVec 7), guardOn s g = true → Canonical s → c.toNat < 96 → readable s c →
     unread s 6 c →
     let src := (frame s).tiles.getD c.toNat Reset.tile
     let picked := (List.range src.rows.toNat).filter fun i => (getM s 0).getLsbD i
     let rb := src.rowbytes.toNat
     let filled := (s.core.tiles.getD c.toNat Reset.tile).writtenBits &&& ctxBit s.core.cur.val ≠ 0
     (filled → picked.length * rb ≤ 8192 → src.rows.toNat ≤ 64 →
       Stores (.tpack g c c n) s (8192 * c.toNat) (picked.length * rb)
         (fun k => tileByte s c.toNat (picked.getD (k / rb) 0 * rb + k % rb)) fun u =>
           modLive (onTile u c fun h => { headerFrom src h with rows := BitVec.ofNat 7 picked.length }) fun q =>
             { q with s := q.s.set n.toNat (BitVec.ofNat 64 picked.length) }) ∧
     (¬filled → exec (.tpack g c c n) s = .next (takeTrap (onTile s c (readBy s.core.cur)) 0x02 6 (0x01 + 256 * c.toNat) 0)))

/-- R180: `tatom` captures its operand, index and expected value and is withheld until the region closes; it takes an entry of
the buffer but in a checkpoint bundle; an element that does not lie in the tile is the bounds trap "tile element", whose operand is
the byte offset of the element by the model's choice (log entry 19). -/
def Obligations.TileAtomicsAreWithheld : Prop :=
  ∀ (s : State) (g : BitVec 5) (r : BitVec 6) (t : BitVec 7) (o : BitVec 3) (y : BitVec 2), guardOn s g = true →
    r.toNat + (if o = 7 then 2 else 1) < 64 → isRepro s = false ∨ y.toNat < 2 →
    let size := if y = 0 ∨ y = 2 then 4 else 8
    let index := ((regs s).s.getD (r.toNat + 1) 0)
    (size * index.toNat + size ≤ 8192 → heldEntries (curCtx s) < 64 →
      exec (.tatom g r t o y) s = .next (modCtx s fun c => { c with withheld := c.withheld ++
        [.atom t.toNat o y (getS s r) index ((regs s).s.getD (r.toNat + 2) 0) (!inCheckpoint s)] })) ∧
    (8192 < size * index.toNat + size →
      exec (.tatom g r t o y) s = .next (takeTrap s 0x06 6 0x0A (BitVec.ofNat 64 (size * index.toNat))))

/-- R168, R169, R171, R172: the operations that rewrite rows of a bank: which rows, from what, and with one rounding; the
accumulating ones need rows that the region has written. Every other element, every tile and every register stands.

R171: `acfmt` of another format converts all 64 rows and retags the bank; of the bank's own format it has no effect.

R169, R170: `acrd` converts rows of a bank into a tile and sets its header; `acmv` moves rows between a bank and a vector
bit for bit. A row not written in the region sets the bank's read bit of the context.

R62, R172: `acscl` of an int32 bank traps, and an `acz` past row 63 is a field-value error of its bundle, of its count by the model's
choice (log entry 115).

R28: in a launch that checks latency an access to a row that an `mxs` in flight is still to write traps. The model's choices: `acscl.e`
of an int32 bank traps as `acscl` does (log entry 22), the operand of the trap "accumulator row" is the last row asked for (log entry
102), and of several early rows the first is named (log entry 20). -/
def Obligations.AccumulatorRows : Prop :=
  (∀ (s : State) (g : BitVec 5) (b : BitVec 4) (t : BitVec 7) (r n : BitVec 6) (x : BitVec 6) (f : BitVec 4),
     guardOn s g = true → CanonicalBanks s → bankFree s b →
     let code := bankCode s b
     let old := fun (row col : Nat) => element (frame s) (bankOf s b) row col
     let val := fun (row col : Nat) => elemVal code (old row col % 2 ^ elemBits code)
     let fmt := if code = 0 then f64 else f32
     let tile := fun (row col : Nat) => elemVal f.toNat (tileElementCode s t f (row - r.toNat) col)
     let read := fun (c : CoreRec) =>
       { c with tiles := c.tiles.setIfInBounds t.toNat (readBy s.core.cur (c.tiles.getD t.toNat Reset.tile)) }
     let below := fun (row : Nat) => r.toNat ≤ row ∧ row < 64
     (63 < r.toNat + n.toNat → decodeSlot 5 (encodeNat (.acz g b r n)) = .error (.field 5)) ∧
     (r.toNat + n.toNat ≤ 63 →
       RewritesRows (.acz g b r n) s b (fun row => r.toNat ≤ row ∧ row ≤ r.toNat + n.toNat) (fun _ _ => (0, 0)) id) ∧
     (f ≠ 0xB → readable s t →
       RewritesRows (.acwr g b t r f) s b below
         (fun row col => convCode code (rounding s) (16 * row + col) (tile row col)) read) ∧
     ((∀ row < 64, r.toNat ≤ row → rowWritten s b row) →
       (f ≠ 0xB → readable s t →
         RewritesRows (.acadd g b t r f) s b below
           (fun row col => accAdd (tagOf (frame s) (bankOf s b)) (rounding s) (16 * row + col) (old row col) (tile row col))
           read) ∧
       (code = 12 → ∀ i ∈ [Instr.acscl g b x r, .acsclE g b x r], exec i s = .next (takeTrap s 0x01 5 (0x09 + 256 * b.toNat) 0)) ∧
       (code ≠ 12 →
         RewritesRows (.acscl g b x r) s b below (fun row col => mulRound fmt (rounding s) (16 * row + col) (val row col)
           (elemVal code ((getS s x).toNat % 2 ^ elemBits code))) id ∧
         RewritesRows (.acsclE g b x r) s b below (fun row col => mulRound fmt (rounding s) (16 * row + col) (val row col)
           (.fin false 1 (max (-5000) (min 5000 (getS s x).toInt)))) id) ∧
       RewritesRows (.acbias g b x r) s b below
         (fun row col => accAdd (tagOf (frame s) (bankOf s b)) (rounding s) (16 * row + col) (old row col)
           (elemVal code (laneBits (if code = 0 then 64 else 32) (getV s x) col).toNat)) id)) ∧
  (∀ (s : State) (g : BitVec 5) (b : BitVec 4) (f : BitVec 4), guardOn s g = true → CanonicalBanks s → bankFree s b →
     f = 0 ∨ f = 1 ∨ f = 0xC →
     let code := bankCode s b
     let tag := if f = 0 then AccFmt.f64 else if f = 1 then .f32 else .i32
     (f.toNat = code → exec (.acfmt g b f) s = .next s) ∧
     (f.toNat ≠ code → (∀ row < 64, rowWritten s b row) →
       RewritesRows (.acfmt g b f) s b (fun row => row < 64)
         (fun row col => convCode f.toNat (rounding s) (16 * row + col)
           (elemVal code (element (frame s) (bankOf s b) row col % 2 ^ elemBits code)))
         fun c => { c with tags := c.tags.setIfInBounds (bankOf s b) tag })) ∧
  (∀ (s : State) (g : BitVec 5) (b : BitVec 4) (t : BitVec 7) (r v : BitVec 6) (f : BitVec 4), guardOn s g = true →
     Canonical s → CanonicalBanks s → bankFree s b → t.toNat < 96 →
     let code := bankCode s b
     let bits := if code = 0 then 64 else 32
     let n := if code = 0 then 2 else 4
     let old := fun (row col : Nat) => element (frame s) (bankOf s b) row col
     let marked := fun (rows : Nat → Prop) (c : CoreRec) (d : CoreRec) =>
       ((∀ row < 64, rows row → rowWritten s b row) → d = c) ∧
       (¬(∀ row < 64, rows row → rowWritten s b row) → d = { c with
         bankRead := c.bankRead.setIfInBounds (bankOf s b) (c.bankRead.getD (bankOf s b) 0 ||| ctxBit s.core.cur.val) })
     (f ≠ 0xB → unread s 5 t → ∃ (m : Mem) (d : CoreRec) (fl : Flags),
       marked (fun row => r.toNat ≤ row) s.core d ∧
       exec (.acrd g b t r f) s = .next (modLive (onTile { s with core := { d with
           scratch := m, unseen := (written s (8192 * t.toNat) ((64 - r.toNat) * (2 * elemBits f.toNat))).unseen } } t fun h =>
         { h with rows := BitVec.ofNat 7 (64 - r.toNat), rowbytes := BitVec.ofNat 14 (2 * elemBits f.toNat), fmt := f,
                  scaled := false }) fun q => { q with fflags := q.fflags ||| fl }) ∧
       Memory.wf m = true ∧
       (∀ k, fl.getLsbD k = true ↔ ∃ row < 64 - r.toNat, ∃ col < 16, (convCode f.toNat (rounding s) (16 * (r.toNat + row) + col)
         (elemVal code (old (r.toNat + row) col % 2 ^ elemBits code))).2.getLsbD k = true) ∧
       (∀ row < 64 - r.toNat, ∀ col < 16,
         elemAt f.toNat (readBytes m (8192 * t.toNat + row * (2 * elemBits f.toNat)) (2 * elemBits f.toNat)) col =
           (convCode f.toNat (rounding s) (16 * (r.toNat + row) + col)
             (elemVal code (old (r.toNat + row) col % 2 ^ elemBits code))).1 % 2 ^ elemBits f.toNat) ∧
       (∀ a, a < 8192 * t.toNat ∨ 8192 * t.toNat + (64 - r.toNat) * (2 * elemBits f.toNat) ≤ a →
         readByte m a = readByte s.core.scratch a)) ∧
     (r.toNat + n ≤ 64 → ∃ (d : CoreRec) (x : V2048),
       marked (fun row => r.toNat ≤ row ∧ row < r.toNat + n) s.core d ∧
       exec (.acmv g b v r 0) s = .next (modLive { s with core := d } fun q =>
         { q with v := q.v.setIfInBounds (placeV (regs s) v.toNat) x }) ∧
       ∀ k < 16 * n, laneBits bits x k = BitVec.ofNat bits (old (r.toNat + k / 16) (k % 16))) ∧
     (r.toNat + n ≤ 64 →
       RewritesRows (.acmv g b v r 1) s b (fun row => r.toNat ≤ row ∧ row < r.toNat + n)
         (fun row col => ((laneBits bits (getV s v) (16 * (row - r.toNat) + col)).toNat, 0)) id) ∧
     (64 < r.toNat + n → ∀ m : BitVec 5, m = 0 ∨ m = 1 →
       exec (.acmv g b v r m) s = .next (takeTrap s 0x06 5 0x09 (BitVec.ofNat 64 (r.toNat + n - 1))))) ∧
  (∀ (s : State) (g : BitVec 5) (b : BitVec 4) (t : BitVec 7) (r n x v : BitVec 6) (f : BitVec 4), guardOn s g = true → isLchk s = true →
     let early := fun (row : Nat) => ∃ st ∈ s.core.streams, st.rank = false ∧ st.bank = bankOf s b ∧ st.row ≤ row ∧
       row < st.row + st.data.length
     let code := bankCode s b
     let traps := fun (i : Instr) (u : State) (lo hi : Nat) => ∀ row, lo ≤ row → row ≤ hi → early row →
       (∀ m, lo ≤ m → m < row → ¬early m) → exec i s = .next (takeTrap u 0x01 5 (0x07 + 256 * (b.toNat * 256 + row)) 0)
     traps (.acz g b r n) s r.toNat (r.toNat + n.toNat) ∧ traps (.acrd g b t r f) s r.toNat 63 ∧
     (readable s t → traps (.acwr g b t r f) (onTile s t (readBy s.core.cur)) r.toNat 63 ∧
       traps (.acadd g b t r f) (onTile s t (readBy s.core.cur)) r.toNat 63) ∧
     (∀ last, last = r.toNat + (if code = 0 then 2 else 4) - 1 → last ≤ 63 → traps (.acmv g b v r 0) s r.toNat last ∧ traps (.acmv g b v r 1) s r.toNat last) ∧
     (f = 0 ∨ f = 1 ∨ f = 0xC → f.toNat ≠ code → traps (.acfmt g b f) s 0 63) ∧
     (code ≠ 12 → traps (.acscl g b x r) s r.toNat 63 ∧ traps (.acsclE g b x r) s r.toNat 63) ∧
     traps (.acbias g b v r) s r.toNat 63)

/-- R157 to R159: `mxlw` starts a load of the shadow plane from the tiles' bytes now, and waits while another load runs; `mxsw` exchanges the planes when the
shadow is fresh and has no effect otherwise; `mxz` zeroes the shadow plane, which keeps its format.

R160 to R163: `mxs` and `mxrank` whose rows lie in readable tiles start a stream: the rows are read now, each from its tile, with the
plane that is active now; the bank rows must have been written in the region, and change only later (R27). Rows past tile 95 and a
plane past tile 95 trap, and so does a write of the shadow plane after a swap of a plane that was written before the region.

The model's choices: the shadow plane counts as written, for every context, from the start of its load (log entry 27), and `mxsw`
leaves the plane read bits as they are (log entry 27). -/
def Obligations.WeightPlanesAndStreams : Prop :=
  (∀ (s : State) (g : BitVec 5) (t : BitVec 7) (f : BitVec 4) (x : BitVec 2), guardOn s g = true → Canonical s →
     t.toNat < 96 → f.toNat ≤ 0xB → x.toNat ≤ 2 → s.core.preSwap &&& ctxBit s.core.cur.val = 0 →
     let h := (frame s).tiles.getD t.toNat Reset.tile
     let scaled := h.scaled && decide (4 ≤ f.toNat ∧ f.toNat ≤ 0xA)
     let size := 16 * columnBytes f.toNat x.toNat scaled
     (s.core.load ≠ none → exec (.mxlw g t f x) s = .next (modCtx s fun c => { c with
       waiting := c.waiting ++
         [⟨4, .mxlw g t f x, regs s, BitVec.ofNat 32 (ownIndex s), inCheckpoint s, s.issue.elim [] (·.reads)⟩] })) ∧
     (s.core.load = none → readable s t → size ≤ 8192 → ∃ p : Plane,
       exec (.mxlw g t f x) s = .next (onTile { s with core := { s.core with
         load := some ⟨s.core.cur.val, p, planeFlags p⟩, shadowRegion := BitVec.allOnes 4 } } t (readBy s.core.cur)) ∧
       p.fmt = f ∧ p.sparsity = x ∧ p.scaled = scaled ∧ ∀ k < size, readByte p.bytes k = tileByte s t.toNat k) ∧
     (s.core.load = none → 8192 < size → readable s t →
       (t.toNat < 95 → readableAt s (t.toNat + 1) → ∃ p : Plane,
         exec (.mxlw g t f x) s = .next (reads { s with core := { s.core with
           load := some ⟨s.core.cur.val, p, planeFlags p⟩, shadowRegion := BitVec.allOnes 4 } } [t.toNat, t.toNat + 1]) ∧
         p.fmt = f ∧ p.sparsity = x ∧ p.scaled = scaled ∧ ∀ k < size, readByte p.bytes k = tileByte s t.toNat k) ∧
       (t = 95 → exec (.mxlw g t f x) s = .next (takeTrap s 0x06 4 0x07 95))) ∧
     (s.core.fresh = false → exec (.mxsw g) s = .next s) ∧
     (s.core.fresh = true → s.core.planeRead &&& ctxBit s.core.cur.val = 0 → exec (.mxsw g) s =
       .next { s with core := { s.core with
         active := s.core.shadowPlane, shadowPlane := s.core.active, fresh := false,
         preSwap := if s.core.shadowRegion &&& ctxBit s.core.cur.val = 0
           then s.core.preSwap ||| ctxBit s.core.cur.val else s.core.preSwap } }) ∧
     (s.core.fresh = true → s.core.planeRead &&& ctxBit s.core.cur.val ≠ 0 →
       exec (.mxsw g) s = .next (takeTrap s 0x02 4 0x03 0)) ∧
     exec (.mxz g) s = .next { s with core := { s.core with
       shadowPlane := ⟨[], s.core.shadowPlane.fmt, 0, false⟩, fresh := true, shadowRegion := BitVec.allOnes 4 } }) ∧
  (∀ (s : State) (g : BitVec 5) (t : BitVec 7) (f : BitVec 4) (x : BitVec 2), guardOn s g = true → t.toNat < 95 →
     s.core.preSwap &&& ctxBit s.core.cur.val ≠ 0 →
     let size := 16 * columnBytes f.toNat x.toNat (((frame s).tiles.getD t.toNat Reset.tile).scaled && decide (4 ≤ f.toNat ∧ f.toNat ≤ 0xA))
     let ts := if 8192 < size then [t.toNat, t.toNat + 1] else [t.toNat]
     (s.core.load = none → (∀ n ∈ ts, readableAt s n) → exec (.mxlw g t f x) s = .next (takeTrap (reads s ts) 0x02 4 0x03 0)) ∧
     exec (.mxz g) s = .next (takeTrap s 0x02 4 0x03 0)) ∧
  (∀ (s : State) (g : BitVec 5) (b : BitVec 4) (t : BitVec 7) (f : BitVec 4) (r : BitVec 6) (acc : AccFmt) (p : Nat),
     guardOn s g = true → Canonical s → t.toNat < 96 → readable s t → bankFree s b →
     (∀ row ≤ r.toNat, rowWritten s b row) →
     let h := (frame s).tiles.getD t.toNat Reset.tile
     let starts := fun (i : Instr) (rank : Bool) (fm : BitVec 4) (scaled : Bool) (rb : Nat) =>
       let per := 8192 / rb
       let ts := (List.range (r.toNat / per + 1)).map (t.toNat + ·)
       (95 < t.toNat + r.toNat / per → exec i s = .next (takeTrap s 0x06 4 0x08 (BitVec.ofNat 64 (t.toNat + r.toNat / per)))) ∧
       (t.toNat + r.toNat / per ≤ 95 → (∀ n ∈ ts, readableAt s n) →
       ∃ st : Stream, exec i s = .next (reads { s with core := { s.core with
           streams := s.core.streams ++ [st], planeRead := s.core.planeRead ||| ctxBit s.core.cur.val } } ts) ∧
         st.ctx = s.core.cur.val ∧ st.rank = rank ∧ st.bank = bankOf s b ∧ st.afmt = fm ∧ st.scaled = scaled ∧
         st.plane = s.core.active ∧ st.start = (frame s).cycle ∧ st.row = 0 ∧ st.data.length = r.toNat + 1 ∧
         ∀ m ≤ r.toNat, ∀ k < rb, (st.data.getD m []).getD k 0 = tileByte s (t.toNat + m / per) (m % per * rb + k))
     (pairing s.core.active.fmt.toNat f.toNat (s.core.active.scaled || h.scaled) = some (acc, p) →
       s.core.tags.getD (bankOf s b) .f32 = acc →
       starts (.mxs g b t f r) false f h.scaled (rowBytesOf f.toNat (streamK p s.core.active.sparsity.toNat) h.scaled)) ∧
     (pairing s.core.active.fmt.toNat f.toNat (s.core.active.scaled || h.scaled) = none →
       exec (.mxs g b t f r) s = .next (takeTrap s 0x01 4 0x08 0)) ∧
     (s.core.active.fmt = 1 → s.core.active.sparsity = 0 → s.core.tags.getD (bankOf s b) .f32 = .i32 →
       starts (.mxrank g b t r) true 1 false 256))

/-- R27, R53, R54, R157, R163: the array's own steps. A due row of the head stream is added into its bank, flags are raised in the
context that issued it, and every other element, register, core and device stands. For dense int8 rows against int8 weights into an
int32 bank each element takes the sum of its 512 products, brought into range; for dense FP32 and FP64 rows 64 and 16 fused steps, in
order; for ranking rows the count of scores ahead. The bank's format is the one that it has at the row, by the model's choice (log entry
132).
A weight load that ends leaves its plane in the shadow plane, fresh, and raises its flags in the context that began it. -/
def Obligations.ArrayWorkEndsInItsCore : Prop :=
  ∀ (s : State) (c : CoreRec), coreOf s c.id = some c →
    (∀ (st : Stream) (more : List Stream) (bs : List Byte) (rest : List (List Byte)), c.streams = st :: more → st.data = bs :: rest → st.start + 14 + st.row ≤ c.cycle → st.bank < 16 →
      st.row < 64 → bankWfFrom 0 c.banks = true → ∃ t d, exec (.accumulatorRowUpdate c.id) s = .next t ∧ coreOf t c.id = some d ∧
        d.streams = (if rest = [] then more else { st with row := st.row + 1, data := rest } :: more) ∧ d.scratch = c.scratch ∧
        d.tiles = c.tiles ∧ d.tags = c.tags ∧ bankWfFrom 0 d.banks = true ∧
        (∀ bank row col, row < 64 → col < 16 → (bank ≠ st.bank ∨ row ≠ st.row) → element d bank row col = element c bank row col) ∧
        { t with core := s.core, parked := s.parked } = s ∧ (∀ id, id ≠ c.id → coreOf t id = coreOf s id) ∧
        (∃ (m : Bank64) (xs : Vector Ctx 4), { d with banks := m, ctxs := xs, streams := c.streams } =
          { c with banks := m, ctxs := xs }) ∧
        (∃ fl : Flags, ∀ x : Fin 4, d.ctxs.get x = if x.val = st.ctx
          then { c.ctxs.get x with live := { (c.ctxs.get x).live with fflags := (c.ctxs.get x).live.fflags ||| fl } }
          else c.ctxs.get x) ∧
        (∀ fm : FloatFmt, ∀ n, (st.plane.fmt = 1 ∧ fm = f32 ∧ n = 64 ∧ c.tags.getD st.bank .f32 = .f32 ∨
            st.plane.fmt = 0 ∧ fm = f64 ∧ n = 16 ∧ c.tags.getD st.bank .f32 = .f64) →
          st.rank = false → st.afmt = st.plane.fmt → st.plane.sparsity = 0 → st.plane.scaled = false → st.scaled = false →
          let size := fm.width / 8
          ∀ col < 16, element d st.bank st.row col =
            (List.range n).foldl (fun acc k => (fmaRound fm nearestEven 0
                (decodeFloat fm (natOfBytes ((bs.drop (size * k)).take size) ))
                (decodeFloat fm (readNat st.plane.bytes (size * (n * col + k)) size)) (decodeFloat fm acc)).1)
              (element c st.bank st.row col % 2 ^ fm.width) % 2 ^ 64) ∧
        (st.rank = true → st.afmt = 1 → st.plane.fmt = 1 → st.plane.sparsity = 0 → st.plane.scaled = false → st.scaled = false →
          let score := fun (k : Nat) => decodeFloat f32 (natOfBytes ((bs.drop (4 * k)).take 4))
          ∀ col < 16, signedOf 32 (element d st.bank st.row col) = intoInt32 (signedOf 32 (element c st.bank st.row col) +
            ((List.range 16).filter fun q => rankBelow (score col) (score (16 + q)) ||
              (!rankBelow (score (16 + q)) (score col) &&
                decide (readNat st.plane.bytes (4 * (64 * col + q)) 4 % 2 ^ 31 ≠ 0))).length)) ∧
        (st.rank = false → st.plane.fmt = 9 → st.plane.sparsity = 0 → st.plane.scaled = false → st.afmt = 9 → st.scaled = false →
          c.tags.getD st.bank .f32 = .i32 → ∀ col < 16, signedOf 32 (element d st.bank st.row col) =
            intoInt32 (signedOf 32 (element c st.bank st.row col) + ((List.range 512).map fun k =>
              (bs.getD k 0).toInt * (readByte st.plane.bytes (512 * col + k)).toInt).sum))) ∧
    ((∀ st more, c.streams = st :: more → c.cycle < st.start + 14 + st.row) → exec (.accumulatorRowUpdate c.id) s = .next s) ∧
    (∀ l : Load, c.load = some l → l.ctx < 4 → ∃ t d, exec (.weightLoadComplete c.id) s = .next t ∧ coreOf t c.id = some d ∧
      d.shadowPlane = l.plane ∧ d.fresh = true ∧ d.load = none ∧ d.active = c.active ∧ d.streams = c.streams ∧
      ∀ x : Fin 4, d.ctxs.get x = if x.val = l.ctx
        then { c.ctxs.get x with live := { (c.ctxs.get x).live with fflags := (c.ctxs.get x).live.fflags ||| l.flags } }
        else c.ctxs.get x)

/-- R98, R103 to R105: with nothing outstanding a checkpoint operation closes the region at once: `ckcount` is one more, the
live state becomes the shadow, and the context goes on (`chkpt`) or waits at its own bundle (`bar`, `sstep`, and `wait`
while its token is pending).

R98, R103, R208: while a command of the region has not passed resolution the checkpoint does not close: the context is recorded
as closing, and its shadow stays; at a `bar` it has arrived all the same, once no other slot of the bundle waits.

R98, R180, R195, R198: step 2 releases what the region withheld: a full-bit change and a tile atomic take effect, and commands go to
their engines in issue order; an orphan that nothing adopted lapses, and an adopted one belongs to the past. R370: a tile atomic whose
tile is uncorrectable traps its context instead, before anything is released, and in slot 0xFF, by the model's choice (log entry
125). -/
def Obligations.CheckpointsCloseTheRegion : Prop :=
  (∀ (s : State) (k : BitVec 6), NothingOutstanding s → NoBodyEnds s → ownIndex s + 1 < codeBundles s →
     (curCtx s).trap = none → (live s).pendingWait = none →
     let closes := fun (i : Instr) (f : Regs → Regs) => ∃ t, exec i s = .next t ∧
       RegionClosed s t (f { live s with ckcount := (live s).ckcount + 1 })
     let waits := fun (w : CloseKind) (r : Regs) =>
       { r with pc := BitVec.ofNat 32 (ownIndex s), waitNext := BitVec.ofNat 32 (ownIndex s + 1), pendingWait := some w }
     closes .chkpt (fun r => { r with pc := BitVec.ofNat 32 (ownIndex s + 1) }) ∧
     closes .bar (fun r => waits .bar { r with barCount := r.barCount + 1 }) ∧
     closes .sstep (fun r => waits .sstep { r with stepCount := r.stepCount + 1 }) ∧
     (.s k.toNat ∈ (live s).pending → closes (.wait k) (waits (.wait k))) ∧
     (.s k.toNat ∉ (live s).pending → closes (.wait k) fun r =>
       { r with pc := BitVec.ofNat 32 (ownIndex s + 1), waitNext := BitVec.ofNat 32 (ownIndex s + 1) })) ∧
  (∀ (s : State) (c : Cmd), c ∈ s.cmds → c.core = s.core.id → c.ctx = s.core.cur.val → c.inRegion = true → c.orphan = false →
     c.resolved = false → NoBodyEnds s → ownIndex s + 1 < codeBundles s → (curCtx s).trap = none →
     exec .chkpt s = .next (modCtx (markPcSet s) fun x =>
       { x with live := { x.live with pc := BitVec.ofNat 32 (ownIndex s + 1) },
                closing := some (.chkpt, BitVec.ofNat 32 (ownIndex s)) }) ∧
     ((live s).pendingWait = none → ∃ t, exec .bar s = .next t ∧ (curCtx t).closing = some (.bar, BitVec.ofNat 32 (ownIndex s)) ∧
       (curCtx t).shadow = (curCtx s).shadow ∧ (curCtx t).withheld = (curCtx s).withheld ∧
       (live t).barCount = (live s).barCount + (if (curCtx s).waiting = [] then 1 else 0))) ∧
  (∀ s : State, (curCtx s).waiting = [] → (curCtx s).loads = [] → NoBodyEnds s → ownIndex s + 1 < codeBundles s →
     (curCtx s).trap = none →
     let mine := fun (c : Cmd) => c.core = s.core.id ∧ c.ctx = s.core.cur.val
     (∀ c ∈ s.cmds, mine c → c.inRegion = true → (c.orphan = false ∨ c.adopted = true) → c.resolved = true) →
     let takes := fun (f : State → Prop) => ∃ t, exec .chkpt s = .next t ∧ (curCtx t).withheld = [] ∧ (curCtx t).closing = none ∧ f t
     (∀ n v, (curCtx s).withheld = [.fullBit n v] → n < 96 → (s.core.tiles.getD n Reset.tile).reserved = false → takes fun t =>
       (t.core.tiles.getD n Reset.tile).full = v ∧
       (v = true → (t.core.tiles.getD n Reset.tile).owner = BitVec.ofNat 2 s.core.cur.val) ∧ t.core.scratch = s.core.scratch ∧
       ∀ m < 96, m ≠ n → (t.core.tiles.getD m Reset.tile).full = (s.core.tiles.getD m Reset.tile).full) ∧
     (∀ n o y a i x e, (curCtx s).withheld = [.atom n o y a i x e] → BadLoc.tile s.core.id n ∈ s.bad → ∃ t r, exec .chkpt s = .next t ∧
       (curCtx t).trap = some r ∧ r.cls = 0x09 ∧ r.slot = 0xFF ∧ r.detail = BitVec.ofNat 32 (3 + 256 * n) ∧ r.bundle = BitVec.ofNat 32 (ownIndex s) ∧
       (curCtx t).live = (curCtx s).shadow ∧ t.core.scratch = s.core.scratch) ∧
     (∀ n y a i x e, (curCtx s).withheld = [.atom n 0 y a i x e] → BadLoc.tile s.core.id n ∉ s.bad → y.toNat < 2 →
       Memory.wf s.core.scratch = true →
       let size := if y = 0 then 4 else 8
       let at' := 8192 * n + size * i.toNat
       takes fun t => readNat t.core.scratch at' size = (readNat s.core.scratch at' size + a.toNat) % 2 ^ (8 * size) ∧
         Memory.wf t.core.scratch = true ∧
         ∀ b, b < at' ∨ at' + size ≤ b → readByte t.core.scratch b = readByte s.core.scratch b) ∧
     (∀ ids : List (Nat × Bool), (curCtx s).withheld = ids.map (fun p => Held.cmd p.1 p.2) → (ids.map (·.1)).Nodup →
       (∀ p ∈ ids, ∃ c, cmdBy s p.1 = some c ∧ mine c ∧ handedOver c.op = true ∧ c.done = false ∧ c.orphan = false) →
       takes fun t => ∀ (n : Nat) (p : Nat × Bool), ids[n]? = some p → ∃ c d, cmdBy s p.1 = some d ∧ cmdBy t p.1 = some c ∧
         c = { d with released := true, order := s.nextId + n, adopted := false, inRegion := false }) ∧
     ((curCtx s).withheld = [] → ∀ c ∈ s.cmds, mine c → c.orphan = true → takes fun t =>
       (c.done = false → c.adopted = false → { c with orphan := false, discarded := true, inRegion := false } ∈ t.cmds) ∧
       (c.done = false → c.adopted = true → { c with orphan := false, adopted := false, inRegion := false } ∈ t.cmds) ∧
       (c.done = true → c ∉ t.cmds)))

/-- R107, R210, R260: `exit` with nothing outstanding ends the context: it holds no registers, joined drafts, pins or binding,
the record that it held goes back to the head of its stage's queue, and when it was the team's last the core is free. -/
def Obligations.ExitEndsTheContext : Prop :=
  ∀ (s : State), NothingOutstanding s → ∃ t, exec .exit s = .next t ∧
    (curCtx t).status = .exited ∧ (curCtx t).live = Reset.regs ∧ (curCtx t).shadow = Reset.regs ∧ (curCtx t).drafts = [] ∧
    (curCtx t).pins = [] ∧ (curCtx t).binding = none ∧ (curCtx t).held = none ∧ t.core.scratch = s.core.scratch ∧
    t.core.banks = s.core.banks ∧
    (∀ k st r, (curCtx s).held = some (k, st, r) → ∀ x ∈ s.sets, x.obj = k → ∃ y ∈ t.sets, y.obj = k ∧
      y.queues = x.queues.setIfInBounds st (r :: x.queues.getD st [])) ∧
    (t.core.place = none ∨ t.core.place = s.core.place) ∧
    ((∀ x, x ≠ s.core.cur → (s.core.ctxs.get x).ended = true) →
      (∀ c ∈ s.parked, c.launch = s.core.launch → c.team = s.core.team → ∀ x : Fin 4, (c.ctxs.get x).ended = true) →
      t.core.place = none)

/-- R102, R267, R268: `mark` sets its team's marker and estimate, and counts a pass when the marker falls; every armed entry of
the bound table that selects the team and whose threshold the marker reaches is triggered. R102: of two marks of a team in one cycle
the larger value stands, with its estimate, and of two of one value the estimate of the core with the lower relative index.
`fcbind` binds the current version of its table, arms the entries that select each team and triggers those that the team's marker
reaches, for a team that has not started too (R284) but for none that is swapped out (R271), or answers 0x21 at the first entry
that is not valid; `fcbind.un` removes the binding and disarms every entry. -/
def Obligations.MarksSetTheMarkerAndTrigger : Prop :=
  ∀ (s : State) (k : BitVec 16) (r : BitVec 6) (l : Launch) (tm : Team), launchOf s = some l → teamOf s = some tm →
    let eta : BitVec 32 := if 0xFFFFFFFF ≤ (getS s r).toNat then 0xFFFFFFFF else (getS s r).truncate 32
    let first := ∀ m ∈ tm.marks, m.cycle ≠ s.core.cycle
    (l.binding = none → first → ∃ t, exec (.mark k r) s = .next t ∧ { t with launches := s.launches } = s ∧
      teamOf t = some { tm with
        marker := k.toNat, eta := eta, lastMark := s.micros
        pass := if k.toNat < tm.marker then (tm.pass + 1) % 2 ^ 48 else tm.pass
        armed := if k.toNat < tm.marker then [] else tm.armed
        marks := some ⟨s.core.cycle, tm.marker, [k.toNat], s.core.rel, []⟩ }) ∧
    (∀ m, l.binding = none → tm.marks = some m → m.cycle = s.core.cycle → ∃ t u, exec (.mark k r) s = .next t ∧ teamOf t = some u ∧
      (∀ v ∈ m.values, v ≤ u.marker) ∧ k.toNat ≤ u.marker ∧ u.marker ∈ k.toNat :: m.values ∧
      u.eta = (if (∀ v ∈ m.values, v < k.toNat) ∨ k.toNat ∈ m.values ∧ (∀ v ∈ m.values, v ≤ k.toNat) ∧ s.core.rel < m.rel then eta else tm.eta) ∧
      u.pass = if k.toNat < m.base ∧ ∀ v ∈ m.values, m.base ≤ v then (tm.pass + 1) % 2 ^ 48 else tm.pass) ∧
    (∀ b, l.binding = some b → first → tm.marker ≤ k.toNat → ∃ t, exec (.mark k r) s = .next t ∧
      ∀ (n : Nat) (e : ForecastEntry), b.entries[n]? = some e → tm.armed.getD n false = true →
        (e.team = 0xFFFF ∨ e.team = tm.index) → e.marker - e.lead ≤ k.toNat →
        ∃ a ∈ t.actions, a.launch = l.id ∧ a.team = tm.index ∧ a.entry = n ∧ a.op = e) ∧
    (∀ c d, Due s c → coreOf s c.core = some d → d.launch = l.id → launchBy s l.id = some l → (l.teams.map (·.index)).Nodup →
      (∀ o g q h, c.op = .fcbind g q h → objectPresent s c = true → cmdObj s c = some o →
        badView s o (some o.current) (wholeAddrs o) = none →
        let rows := tableRows o o.current
        let es := rows.map parseEntry
        (∀ n < rows.length, validEntry (rows.getD n []) = false → (∀ j < n, validEntry (rows.getD j []) = true) →
          Completes s c 0x21 n 0 fun t _ _ => t.launches = s.launches ∧ t.actions = s.actions) ∧
        ((∀ n < rows.length, validEntry (rows.getD n []) = true) → Completes s c 0x00 0 (extentAt o 1) fun t _ _ => ∃ m,
          launchBy t l.id = some m ∧ m.binding = some ⟨c.cap.handle, es⟩ ∧ m.teams.map (·.index) = l.teams.map (·.index) ∧
          (∀ u ∈ l.teams, ∀ v ∈ m.teams, v.index = u.index → ∀ n e, es[n]? = some e →
            v.armed.getD n false = (decide (e.team = 0xFFFF ∨ e.team = u.index) &&
              !(u.status != .out && decide (e.marker - e.lead ≤ u.marker)))) ∧
          t.actions.map (fun a => (a.launch, a.team, a.entry, a.op)) = s.actions.map (fun a => (a.launch, a.team, a.entry, a.op)) ++
            (l.teams.filter fun u => u.status != .out).flatMap fun u =>
              (es.zipIdx.filter fun e => (e.1.team == 0xFFFF || e.1.team == u.index) && decide (e.1.marker - e.1.lead ≤ u.marker)).map
                fun e => (l.id, u.index, e.2, e.1))) ∧
      (∀ g q, c.op = .fcbindUn g q → Completes s c 0x00 0 0 fun t _ _ => ∃ m, launchBy t l.id = some m ∧ m.binding = none ∧
        (∀ u ∈ m.teams, u.armed = []) ∧ t.actions = s.actions))

/-- R108, R362: `trap` raises the software trap of its code; R363, R364, R366: TAKING A TRAP rolls the context back to its
shadow, leaves it awaiting Rilsia, and puts the trap record on its partition's queue; a context that already awaits
takes no second trap. No byte of a tile, no bank and no object changes. That the region count is 0 after the rollback is the model's
reading (log entry 116). -/
def Obligations.TrapsRollBackAndAreRecorded : Prop :=
  ∀ (s : State) (code : BitVec 16) (cls slot detail : Nat) (operand : BitVec 64),
    exec (.trap code) s = .next (takeTrap s 0x0B 0 (1 + 65536 * code.toNat) 0) ∧
    ((curCtx s).trap ≠ none → takeTrap s cls slot detail operand = s) ∧
    ((curCtx s).trap = none →
      let t := takeTrap s cls slot detail operand
      let r : TrapRecord := ⟨BitVec.ofNat 8 cls, BitVec.ofNat 8 slot, BitVec.ofNat 8 (curCtx s).index,
        BitVec.ofNat 32 (ownIndex s), BitVec.ofNat 32 detail, BitVec.ofNat 32 s.core.team, operand⟩
      (curCtx t).live = (curCtx s).shadow ∧ (curCtx t).shadow = (curCtx s).shadow ∧ (curCtx t).status = .awaiting ∧
      (curCtx t).trap = some r ∧ (curCtx t).withheld = [] ∧ (curCtx t).waiting = [] ∧ (curCtx t).region = 0 ∧
      (∀ x, x ≠ s.core.cur → t.core.ctxs.get x = s.core.ctxs.get x) ∧
      t.parked = s.parked ∧ t.core.scratch = s.core.scratch ∧ t.core.banks = s.core.banks ∧ t.objects = s.objects ∧
      (∀ p ∈ s.partitions, p.number = actingPartition s → ∃ q ∈ t.partitions, q = { p with traps := p.traps ++ [r] }) ∧
      (∀ c ∈ s.cmds, c.core = s.core.id → c.ctx = s.core.cur.val → c.inRegion = true →
        (c.kind = .free → { c with orphan := true, adopted := false } ∈ t.cmds) ∧
        (c.kind = .withheld ∨ c.kind = .checkpoint → c.released = false → c ∉ t.cmds)))

/-- R103 to R105: a context whose pending wait is satisfied goes on at the bundle that it noted, live and in its shadow; one
whose wait is not satisfied changes nothing.

R29, R177, R270: a slot that waits on a tile retires when the tile is full, with the registers that it had, and its bundle is counted
with the last of them (R100); every slot that waits retires as its operation run again; a `mark` that stalls
retires when no entry holds it any longer; R31: a core takes up issue with the first context that became ready.

That a `bar` may be passed before a context that has arrived has released what it withheld, and a superstep only after, is the model's
choice (log entry 134). -/
def Obligations.WaitsEndAndSlotsRetire : Prop :=
  (∀ (s : State) (core : Nat) (x : Fin 4) (d : CoreRec), coreOf s core = some d →
     let c := d.ctxs.get x
     let resumes := fun (i : Instr) => ∃ t, exec i s = .next t ∧ OneContext s t core x.val fun c =>
       { c with live := { c.live with pendingWait := none, pc := c.live.waitNext }
                shadow := { c.shadow with pendingWait := none, pc := c.shadow.waitNext }, silence := 0 }
     let done := fun (count : Regs → BitVec 32) (n : Nat) (y : CoreRec) => ∀ z : Fin 4, (y.ctxs.get z).status = .exited ∨
       (y.ctxs.get z).status = .idle ∨ n ≤ (count (y.ctxs.get z).live).toNat
     (∃ tm, teamBy s d.launch d.team = some tm ∧ tm.busy = false) → c.status = .running → c.closing = none →
     (c.live.pendingWait = some .bar →
       ((∀ y ∈ allCores s, y.launch = d.launch → y.team = d.team → done (·.barCount) c.live.barCount.toNat y) →
         resumes (.barrierSatisfied core x.val)) ∧
       ((∃ y ∈ allCores s, y.launch = d.launch ∧ y.team = d.team ∧ ¬done (·.barCount) c.live.barCount.toNat y) →
         exec (.barrierSatisfied core x.val) s = .next s)) ∧
     (c.live.pendingWait = some .sstep → ∀ l, launchBy s d.launch = some l →
       (∀ tm ∈ l.teams, tm.status = .exited ∨ tm.everPlaced = true ∧
         ∀ y ∈ allCores s, y.launch = d.launch → y.team = tm.index →
           done (·.stepCount) c.live.stepCount.toNat y ∧ ∀ z : Fin 4, (y.ctxs.get z).closing = none) →
       resumes (.superstepSatisfied core x.val)) ∧
     (∀ k, c.live.pendingWait = some (.wait k) →
       (.s k.toNat ∉ c.live.pending → resumes (.waitSatisfied core x.val)) ∧
       (.s k.toNat ∈ c.live.pending → exec (.waitSatisfied core x.val) s = .next s))) ∧
  (∀ (s : State) (w : WaitSlot) (g : BitVec 5) (v r : BitVec 6) (t d : BitVec 7) (row : BitVec 5) (k : BitVec 16) (b f : BitVec 4)
     (z : BitVec 2), s.issue = none →
     let id := s.core.id
     let cur := s.core.cur
     let stands := (curCtx s).status = .running ∧ (curCtx s).closing = none ∧ (curCtx s).waiting = [w] ∧
       (curCtx s).loads = [] ∧ (curCtx s).defers = false ∧ (curCtx s).region + 1 < regionLimit s ∧ (curCtx s).trap = none ∧
       ∃ tm, teamBy s s.core.launch s.core.team = some tm ∧ (tm.status = .placed ∨ tm.status = .stopping)
     let retires := fun (c : Ctx) => { c with waiting := [], silence := 0, region := if w.ckpt then c.region else c.region + 1 }
     (stands → w.slot = 6 → w.op = .tld g v t row → guardOn (modLive s fun _ => w.pre) g = true → Canonical s → t.toNat < 96 →
       let s1 := { s with core := seesOwner cur.val t.toNat s.core }
       (readable s t → ∃ y : V2048,
         exec (.emptyTileWaitRetire id cur.val 6) s = .next (modCtx (onTile s1 t (readBy cur)) fun c =>
           retires { c with live := { c.live with v := c.live.v.setIfInBounds (placeV w.pre v.toNat) y } }) ∧
         ∀ b < 256, byteAt y b = tileByte s1 t.toNat (256 * row.toNat + b)) ∧
       ((s.core.tiles.getD t.toNat Reset.tile).full = false → exec (.emptyTileWaitRetire id cur.val 6) s = .next s)) ∧
     (stands → w.slot = 6 → w.ckpt = false → w.op = .tfree g t ∨ w.op = .tsetf g t → guardOn (modLive s fun _ => w.pre) g = true →
       t.toNat < 96 →
       ((s.core.tiles.getD t.toNat Reset.tile).reserved = true → exec (.emptyTileWaitRetire id cur.val 6) s = .next s) ∧
       ((s.core.tiles.getD t.toNat Reset.tile).reserved = false → notRead s t.toNat → (∀ r ∈ w.reads, r.1 = 6 ∨ r.2 ≠ t.toNat) →
         exec (.emptyTileWaitRetire id cur.val 6) s = .next (modCtx (onTile (afterFull s t (w.op = .tsetf g t)) t fun h =>
           if w.op = .tfree g t then { h with full := false } else { h with full := true, owner := BitVec.ofNat 2 cur.val })
             retires))) ∧
     (stands → w.ckpt = false → (tokenOf w.op).isSome = true ∨ w.op ∈ [Instr.mxlw g t b z, .mxs g b t f v, .mxrank g b t v,
         .acwr g b t v f, .acadd g b t v f, .tld g v t row, .tlds g v t r z, .tcopy g d t r, .tpack g d t r] → w.slot ≠ 0 →
       ∀ u, exec w.op (waitFrame (removeWait (seenForWait s w) w) w) = .next u → (curCtx u).waiting = [] → (curCtx u).trap = none →
         u.core.id = id → u.core.cur = cur → launchOf u = launchOf s → (curCtx u).region = (curCtx s).region →
         exec (.emptyTileWaitRetire id cur.val w.slot) s = .next (modCtx { u with issue := none } fun c =>
           { c with silence := 0, region := c.region + 1 })) ∧
     (stands → w.slot = 0 → w.ckpt = false → w.op = .mark k r → (curCtx s).holds = [] →
       holding s s.core.launch s.core.team k.toNat = [] → ∃ t, exec (.markStallRetire id cur.val) s = .next t ∧
       { t with launches := s.launches } = modCtx s retires) ∧
     (∀ x, s.core.yielded = true → chosen s = some x →
       exec (.issueResume id) s = .next { s with core := { s.core with cur := x, yielded := false } }) ∧
     (s.core.yielded = false → exec (.issueResume id) s = .next s))

/-- R190, R194, R206, R213: a free command issues: its record captures its operands, its registers become pending, and the
tile that it lands in is reserved. A destination that is full or reserved completes it at once with status 0x10.

R197, R198: a command that equals an orphan of its context adopts it: no new command is made, the orphan's registers are pending,
and where it has completed its word is written at once. -/
def Obligations.FreeCommandsIssue : Prop :=
  (∀ (s : State) (g : BitVec 5) (t : BitVec 7) (r : BitVec 6) (h : BitVec 5) (e : BitVec 3), guardOn s g = true →
    ∀ f ∈ freeForms s g t r h e, (∀ n ∈ f.sources, readableAt s n) → ∀ (d : Cmd) (rest : List Cmd), s.cmds = d :: rest →
      (∀ c ∈ rest, c.id ≠ d.id) → d.core = s.core.id → d.ctx = s.core.cur.val → d.kind = .free → d.orphan = true → d.adopted = false →
      d.discarded = false → d.op = f.op → d.cap.handle = f.cap.handle → d.cap.source = f.cap.source → d.cap.shape = f.cap.shape →
      d.cap.tuple = f.cap.tuple → d.cap.mask = f.cap.mask → d.cap.args = f.cap.args → d.cap.seed = f.cap.seed →
      let k := { d with adopted := true, index := BitVec.ofNat 32 (ownIndex s), inRegion := true }
      (d.done = false → exec f.op s = .next (modLive { reads s f.sources with cmds := k :: rest } fun q =>
        { q with pending := q.pending ++ d.writes })) ∧
      (∀ x, d.done = true → d.result = some x → x.follow = [] → x.mask = none → x.trace = none →
        exec f.op s = .next (modCtx { reads s f.sources with cmds := k :: rest } fun c =>
          { c with
            silence := 0
            live := { c.live with
              s := c.live.s.setIfInBounds d.token (wordOf x.status x.detail x.count)
              fflags := c.live.fflags ||| x.flags
              pending := (c.live.pending ++ d.writes).filter fun w => !d.writes.contains w } }))) ∧
  ∀ (s : State) (g : BitVec 5) (t : BitVec 7) (r : BitVec 6) (h : BitVec 5) (e : BitVec 3), guardOn s g = true → MayIssue s →
    ∀ f ∈ freeForms s g t r h e, (∀ n ∈ f.sources, readableAt s n) →
      let c := record s f.op .free f.token f.writes f.cap f.resolved
      (f.dest = none → exec f.op s = .next (onRecord (reads s f.sources) c)) ∧
      (∀ d, f.dest = some d → notRead s d →
        (vacant s d → exec f.op s = .next (reserveTile (onRecord (reads s f.sources) { c with reserved := true }) d)) ∧
        (¬vacant s d → exec f.op s = .next (modCtx (onRecord (reads s f.sources)
            { c with resolved := true, result := some ⟨0x10, 0, 0, [], none, none, 0⟩, done := true }) fun k =>
          { k with
            silence := 0
            live := { k.live with
              s := k.live.s.setIfInBounds r.toNat 0x1000000000000000
              pending := k.live.pending.filter fun w => !c.writes.contains w } })))

/-- R194, R195: a withheld command issues: it is captured, its token becomes pending, and it waits in the withholding buffer,
where it takes an entry unless its bundle is a checkpoint bundle.

R99, R194: a command of a checkpoint bundle issues: it is captured, the registers that it writes become pending, and it is
held, without an entry of the buffer, until the bundle's release. -/
def Obligations.HeldCommandsIssue : Prop :=
  (∀ (s : State) (g : BitVec 5) (t : BitVec 7) (r : BitVec 6) (h d : BitVec 5) (e x : BitVec 3) (m : BitVec 2) (q : BitVec 4),
     guardOn s g = true → MayIssue s → (inCheckpoint s = true ∨ heldEntries (curCtx s) < 64) →
     ∀ f ∈ withheldForms s g t r h d e x m q, (∀ n ∈ f.sources, readableAt s n) → (∀ n, f.checked = some n → notRead s n) →
       exec f.op s = .next (modCtx (onRecord (reads s f.sources)
         (record s f.op .withheld f.token f.writes f.cap f.resolved)) fun k =>
           { k with withheld := k.withheld ++ [.cmd s.nextId (!inCheckpoint s)] })) ∧
  (∀ (s : State) (g : BitVec 5) (t : BitVec 7) (r : BitVec 6) (h : BitVec 5) (o y : BitVec 3) (q : BitVec 4) (u : BitVec 1)
     (n : BitVec 10), guardOn s g = true → MayIssue s →
     ∀ f ∈ checkpointForms s g t r h o y q u n, (∀ n, f.checked = some n → notRead s n) →
       exec f.op s = .next (modCtx (onRecord s (record s f.op .checkpoint f.token f.writes f.cap f.resolved)) fun k =>
         { k with withheld := k.withheld ++ [.cmd s.nextId false] }))

/-- R122, R187, R226, R259, R100, R193: what an ENG slot meets at issue instead: an invalid shape entry, a landing in a tile that
the region has read, a floating atomic or statistics in a reproducible launch, a 65th entry of the buffer, or 64 commands
in flight, for which it waits.

R181, R182: a cluster transfer issues: the tile and its header are captured now, its token is pending, and the tile is
reserved at each destination of the team; when a destination is full or reserved, or is the sender, it reserves
nothing and its completion word will say 0x10 with a bit for each such core; a destination outside the team gives 0x11. The model's
choices: the 65th entry overflows whatever is in flight (log entry 7), and a transfer decides when its slot retires (log
entry 18), and what other slots of its bundle read does not count against a command's destination (log entry 133). -/
def Obligations.CommandsTrapAndTransfersReserve : Prop :=
  (∀ (s : State) (g : BitVec 5) (t : BitVec 7) (r : BitVec 6) (h d : BitVec 5) (e x : BitVec 3) (m : BitVec 2) (q : BitVec 4),
     guardOn s g = true →
     (shapeValid (getG s e) = false → ∀ i ∈ [Instr.hfet g t r h e, .hgat g t r h e, .hpfl2 g r h e, .hres g r h e,
         .hprobe g r h e, .hput g t r h e, .hsca g t r h e, .hcopy g h d r e m],
       exec i s = .next (takeTrap s 0x01 7 (0x0C + 256 * e.toNat) 0)) ∧
     (isRepro s = true →
       (4 ≤ x.toNat → ∀ i ∈ [Instr.hatom g r h q e x, .hatomr g r h q e x, .hcas g r h q x],
         exec i s = .next (takeTrap s 0x01 7 0x0D 0)) ∧
       ∀ i ∈ [Instr.rstat g t r h, .fcstat g t r], exec i s = .next (takeTrap s 0x01 7 0x0E 0)) ∧
     ((∀ c ∈ s.cmds, c.orphan = true → c.core = s.core.id → c.ctx ≠ s.core.cur.val) →
       (¬notRead s t.toNat → ∀ i ∈ [Instr.xref g t r, .cread g t r, .csnap g t r, .rtake g t r h x],
         exec i s = .next (takeTrap s 0x02 7 (0x01 + 256 * t.toNat) 0)) ∧
       (inCheckpoint s = false → 64 ≤ heldEntries (curCtx s) →
         ∀ i ∈ [Instr.hopen g r h, .hpub g r h, .hdisc g r h, .hpin g r h, .hunpin g r h, .hunsub g r h, .rbind g r h x,
             .rdone g r h x, .fcbind g r h, .nexp g r h],
           exec i s = .next (takeTrap s 0x03 7 0x02 0)) ∧
       (64 ≤ inFlight s s.core.id → ∀ i ∈ [Instr.hver g r h, .ncnt g r h, .hpinV g r h],
         exec i s = .next (modCtx s fun c =>
           { c with
             waiting := c.waiting ++
               [⟨7, i, regs s, BitVec.ofNat 32 (ownIndex s), inCheckpoint s, s.issue.elim [] (·.reads)⟩]
             live := { c.live with pending := c.live.pending ++ [.s r.toNat] } })))) ∧
  (∀ (s : State) (g : BitVec 5) (t : BitVec 7) (k : BitVec 6) (r : BitVec 2) (c : BitVec 3), guardOn s g = true →
     inFlight s s.core.id < 64 → readable s t →
     let sends := fun (op : Instr) (dests : List Nat) (outside : Bool) =>
       let cmd := record s op .transfer k [] { carrying s t (noOperands s) with dests := dests } true
       let gone := dests.filter fun j => destUnavailable s j
       let busy := dests.filter fun j => j == s.core.rel || (teamCore s j).elim false fun d =>
         (d.tiles.getD t.toNat Reset.tile).full || (d.tiles.getD t.toNat Reset.tile).reserved
       (s.core.rel ∉ dests ∨ notRead s t.toNat) →
       (outside = true ∨ gone ≠ [] → exec op s = .next (onRecord (reads s [t.toNat])
         { cmd with result := some ⟨0x11, relMask gone, 0, [], none, none, 0⟩ })) ∧
       (outside = false → gone = [] → busy ≠ [] → exec op s = .next (onRecord (reads s [t.toNat])
         { cmd with result := some ⟨0x10, relMask busy, 0, [], none, none, 0⟩ })) ∧
       (outside = false → gone = [] → busy = [] →
         exec op s = .next (reserveDests (onRecord (reads s [t.toNat]) { cmd with reserved := true }) t.toNat dests))
     let place := placementOf s
     sends (.txfer g t k r c) (relCore place (teamCols s) r.toNat c.toNat).toList
       (relCore place (teamCols s) r.toNat c.toNat).isNone ∧
     sends (.txferRow g t k r) (((relRow place r.toNat).elim [] fun i =>
       (List.range (teamCols s)).map (i * teamCols s + ·)).filter (· != s.core.rel)) (relRow place r.toNat).isNone ∧
     sends (.txferAll g t k) ((List.range (teamRows s * teamCols s)).filter (· != s.core.rel)) false)

/-- R208, R263, R302, R363, R373: a command whose four checks pass is marked resolved, and nothing else changes but the translation
entries, those of a micro-cache and the load blocks; one whose handle names no object ends, and its context takes the invalid-handle trap at the command's bundle, back at its
last checkpoint. -/
def Obligations.ResolutionPassesOrTraps : Prop :=
  ∀ (s : State) (c : Cmd), cmdBy s c.id = some c → c.resolved = false → Quiet s →
    (firstFail s c = none → ∃ t, exec (.handleResolution c.id) s = .next t ∧
      { t with cmds := s.cmds, xlats := s.xlats, blocks := s.blocks, core := s.core, parked := s.parked } = s ∧
      t.core = { s.core with micro := t.core.micro } ∧
      t.parked.map (fun d => { d with micro := [] }) = s.parked.map (fun d => { d with micro := [] }) ∧
      t.cmds = s.cmds.map fun d => if d.id = c.id then { d with resolved := true } else d) ∧
    (needsOf c.op ≠ [] → handleReserved c.cap.handle = 0 → handleHome c.cap.handle < 576 →
      objAt s (handleKey c.cap.handle) = none → Standing s c → c.ctx < 4 → ∀ x, ctxOf s c.core c.ctx = some x → x.trap = none →
      ∃ t y r, exec (.handleResolution c.id) s = .next t ∧ cmdBy t c.id = none ∧ ctxOf t c.core c.ctx = some y ∧
        y.live = x.shadow ∧ y.shadow = x.shadow ∧ y.status = .awaiting ∧ y.trap = some r ∧ r.cls = 0x04 ∧ r.slot = 7 ∧
        r.bundle = c.index ∧ r.detail = 3 ∧ r.operand = c.cap.handle)

/-- R190, R191, R198: the completion of a performed command writes its word into the token register and ends the pending state
of its registers, live, and in the shadow alike unless the command belongs to the open region.

R182, R202: a transfer that was not refused lands its captured tile, full and with the sender's header, in the tile of that
number of every destination, and writes how many it reached.

R221 to R225: what the version commands do when their engine performs them: `hver` reports, `hopen` opens or joins a draft, `hdisc`
discards it, `hpin` and `hunpin` pin and unpin, `hsub` registers or completes at once, and `hunsub` cancels. -/
def Obligations.CompletionsAndTransfers : Prop :=
  (∀ (s : State) (c : Cmd) (x : Result) (k : Ctx), Standing s c → Quiet s → NotBusy s c → c.reserved = false →
     c.result = some x → x.follow = [] → x.mask = none → x.trace = none → ctxOf s c.core c.ctx = some k →
     let done := fun (r : Regs) =>
       { r with s := r.s.setIfInBounds c.token (wordOf x.status x.detail x.count), fflags := r.fflags ||| x.flags
                pending := r.pending.filter fun w => !c.writes.contains w }
     let written := fun (i : Instr) => ∃ t y, exec i s = .next t ∧ ctxOf t c.core c.ctx = some y ∧ y.live = done k.live ∧
       y.shadow = (if c.inRegion then k.shadow else done k.shadow) ∧ t.objects = s.objects ∧ t.launches = s.launches
     (c.kind ≠ .transfer → isPublish c.op = false ∨ (∀ d ∈ s.cmds, d.result = none ∨ d.done = true ∨
       handleKey d.cap.handle ≠ handleKey c.cap.handle) → written (.commandCompletion c.id)) ∧
     ((transferTile c.op).isSome → written (.txferCompletion c.id))) ∧
  (∀ (s : State) (c : Cmd) (n : Nat) (k : Ctx), Standing s c → Quiet s → NotBusy s c → c.result = none →
     transferTile c.op = some n → n < 96 → Undisturbed s n → Memory.wf c.cap.tile = true → (∀ d ∈ allCores s, Memory.wf d.scratch = true) →
     ctxOf s c.core c.ctx = some k → c.token < 64 → ∃ t y, exec (.txferCompletion c.id) s = .next t ∧
       ctxOf t c.core c.ctx = some y ∧ y.live.s = k.live.s.setIfInBounds c.token (wordOf 0 0 c.cap.dests.length) ∧
       (∀ w ∈ c.writes, w ∉ y.live.pending) ∧
       ∀ id ∈ destCores s c, ∃ d, coreOf t id = some d ∧
         Landed d n c.ctx c.cap.rows c.cap.rowbytes c.cap.fmt c.cap.scaled ∧ Memory.wf d.scratch = true ∧
         ∀ b < 8192, readByte d.scratch (8192 * n + b) = readByte c.cap.tile b) ∧
  ∀ (s : State) (c : Cmd) (o : Obj) (k : Ctx) (g : BitVec 5) (r : BitVec 6) (h : BitVec 5), Due s c → Reachable s c o →
    o.spilling = [] → ctxOf s c.core c.ctx = some k →
    let joined := liveDraft o k
    let pinned := k.pins.any fun p => p.obj == o.key
    let pin := k.pins.find? fun p => p.obj == o.key
    let others := k.pins.filter fun p => p.obj != o.key
    let older := (o.versions.filter fun v => v.num != o.current).length
    let mine := o.subs.filter fun x => x.core == c.core && x.ctx == c.ctx
    let one := fun (b : Bool) (n : Nat) => if b then n else 0
    let pins := fun (op : Instr) (n : Nat) => c.op = op →
      (pinned = false → 8 ≤ k.pins.length → Completes s c 0x16 0 0 (ObjectsStand s)) ∧
      (pinned = true ∨ k.pins.length < 8 → Completes s c 0x00 0 n fun _ _ y =>
        y.pins = others ++ [⟨o.key, c.cap.handle, o.current⟩] ∧ y.drafts = k.drafts)
    let subscribes := fun (op : Instr) (v now : Bool) => c.op = op → registered s c = false →
      (now = true → (∃ p, pin = some p ∧ p.version ≠ o.current) →
        Completes s c 0x00 0 (one v o.current) (ObjectsStand s)) ∧
      ((now = false ∨ ∀ p, pin = some p → p.version = o.current) →
        (8 ≤ subCount s c → Completes s c 0x16 0 0 (ObjectsStand s)) ∧
        (subCount s c < 8 → ∃ t b, exec (.commandCompletion c.id) s = .next t ∧ objAt t o.key = some b ∧
          b = { o with subs := o.subs ++ [⟨c.id, c.core, c.ctx, v⟩] } ∧ ctxOf t c.core c.ctx = some k ∧ t.cmds = s.cmds))
    (c.op = .hver g r h →
      Completes s c 0x00 (Nat.min older 7 + one o.draft.isSome 8 + one joined 16 + one pinned 32) o.current (ObjectsStand s)) ∧
    (c.op = .hopen g r h →
      (∀ d, o.draft = some d → joined = true → Completes s c 0x04 0 d.base (ObjectsStand s)) ∧
      (joined = false → 8 ≤ k.drafts.length → Completes s c 0x16 0 0 (ObjectsStand s)) ∧
      (∀ d, o.draft = some d → joined = false → k.drafts.length < 8 → Completes s c 0x04 0 d.base fun _ _ y =>
        y.drafts = k.drafts ++ [⟨o.key, c.cap.handle, o.draftNo⟩]) ∧
      (o.draft = none → k.drafts.length < 8 → Completes s c 0x00 0 o.current fun t _ y => ∃ b d, objAt t o.key = some b ∧
        b.draft = some d ∧ d.base = o.current ∧ b.versions = o.versions ∧ b.current = o.current ∧
        d.store = (if o.kind = .expert then ⟨[], []⟩ else (versionStore o o.current).getD ⟨[], []⟩) ∧
        y.drafts = k.drafts ++ [⟨o.key, c.cap.handle, b.draftNo⟩])) ∧
    (c.op = .hdisc g r h →
      (joined = false → Completes s c 0x13 0 0 (ObjectsStand s)) ∧
      (joined = true → ∀ d, o.draft = some d →
        (d.routed = true → Completes s c 0x1F 0 0 (ObjectsStand s)) ∧
        (d.routed = false → Completes s c 0x00 0 o.current fun t _ _ => ∃ b, objAt t o.key = some b ∧ b.draft = none ∧
          b.versions = o.versions ∧ b.current = o.current ∧
          ∀ z ∈ allCtxs t, ∀ e ∈ z.drafts, e.obj = o.key → e.draftNo ≠ o.draftNo))) ∧
    pins (.hpin g r h) 0 ∧ pins (.hpinV g r h) o.current ∧
    (c.op = .hunpin g r h →
      (pinned = false → Completes s c 0x05 0 0 (ObjectsStand s)) ∧
      (pinned = true → Completes s c 0x00 0 0 fun t _ y => y.pins = others ∧
        ∃ b, objAt t o.key = some b ∧ ∀ v ∈ b.versions, v.num = o.current ∨ versionHeld t b v.num = true)) ∧
    subscribes (.hsub g r h 0) false false ∧ subscribes (.hsub g r h 1) false true ∧
    subscribes (.hsubV g r h 0) true false ∧ subscribes (.hsubV g r h 1) true true ∧
    (c.op = .hunsub g r h →
      (mine = [] → Completes s c 0x05 0 0 fun t k y => objAt t o.key = some o ∧ y.drafts = k.drafts ∧ y.pins = k.pins) ∧
      (mine ≠ [] → c.token < 64 → ∃ t b y, exec (.commandCompletion c.id) s = .next t ∧ objAt t o.key = some b ∧
        b = { o with subs := o.subs.filter fun x => !(x.core == c.core && x.ctx == c.ctx) } ∧
        ctxOf t c.core c.ctx = some y ∧ y.live.s.getD c.token 0 = wordOf 0x00 0 mine.length))

/-- R212, R215, R216, R228, R230, R239, R240, R257, R259, R272: landings. A fetch or a gather fills its tile with the elements of the
object's view at the coordinates of the tile map, converted where the shape asks for it, with the headers of OX4 blocks and the
stored scales of the object and the header of its shape entry; in fault mode it waits while a shard of its region is absent, and in
probe mode the absent elements read as zero, are counted and give their rows' mask bits;
`xref` lands the refusal list and marks it; `cread` lands the routing counters, `csnap` their snapshot, `rstat` and `fcstat` the
statistics, and `rtake` the record taken; a descent lands the leaf and path of each row, the permutation of the rows by leaf, the
number of leaves and the leaf-group table, answers how many nodes it fetched, and traces the paths. -/
def Obligations.LandingsFillReservedTiles : Prop :=
  ∀ (s : State) (c : Cmd) (d : CoreRec) (g : BitVec 5) (t : BitVec 7) (r : BitVec 6) (h : BitVec 5) (e : BitVec 3),
    Standing s c → Quiet s → NotBusy s c → coreOf s c.core = some d → Memory.wf d.scratch = true → c.ctx < 4 → t.toNat < 95 →
    Undisturbed s t.toNat → Undisturbed s (t.toNat + 1) → c.reserved = true →
    let lands := Lands (.tileLanding c.id) s c t.toNat
    let at' := fun (x : CoreRec) (k n : Nat) => readNat x.scratch (8192 * t.toNat + k) n
    let fetches := fun (op : Instr) (picked : Nat → Bool) (row : Nat → Int) => c.op = op →
      mayPerform s c = true → blockInFlight s c = false → shapeRows c.cap.shape * shapeRowbytes c.cap.shape ≤ 8192 →
      ∀ o, cmdObj s c = some o → (∀ v as, badView s o v as = none) →
      (∀ f, tileMap c.cap.shape c.cap.tuple o = .error f → ∃ u, exec (.tileLanding c.id) s = .next u ∧ Answered u c.id f 0 0 ∧
        u.core.tiles = s.core.tiles ∧ u.core.scratch = s.core.scratch) ∧
      (∀ m, tileMap c.cap.shape c.cap.tuple o = .ok m →
        (∀ i, rejectIndex s o (fetchPoints c m) = some i → ∃ u, exec (.tileLanding c.id) s = .next u ∧ Answered u c.id 0x29 i 0) ∧
        (rejectIndex s o (fetchPoints c m) = none →
          let f := shapeFmt c.cap.shape
          let probe := shapeProbe c.cap.shape
          let bytes := (viewBytes s c o).2
          let v := (viewOf o (cmdCtx s c)).1
          let waits := ∃ n ∈ regionShards c o, absentCause s o n v (cmdCluster s c) ≠ 0
          let place := fun (i k : Nat) => natPoint (mapPoint m (row i) 0 k)
          let gone := fun (i k : Nat) => picked i && absentElem s o v (cmdCluster s c) (place i k)
          let missing := ((List.range m.rows).flatMap fun i => (List.range m.elems).filter fun k => gone i k).length
          let code := fun (i k : Nat) =>
            let q := place i k
            if picked i = false ∨ gone i k = true then 0
            else if shapeConv c.cap.shape then
              (convCode f ⟨shapeConvMode c.cap.shape, c.cap.seed.toNat⟩ (i * m.elems + k) (elemValue o bytes q).1).1
            else elemCode o bytes q
          (probe = false → waits → exec (.tileLanding c.id) s = .next s) ∧
          (probe = true ∨ ¬ waits → lands m.rows (shapeRowbytes c.cap.shape) (BitVec.ofNat 4 f) m.scales fun u x =>
            Answered u c.id (if missing = 0 then 0x00 else 0x01) (Nat.min missing 0xFFFFFF) (m.rows * m.elems) ∧
            ProbeMask u c.id probe (fun i => i < m.rows ∧ ∃ k < m.elems, gone i k = true) ∧
            (∀ i < m.rows, ∀ k < m.elems,
              rowCode f (readBytes x.scratch (8192 * t.toNat + i * shapeRowbytes c.cap.shape) (shapeRowbytes c.cap.shape)) k =
                code i k % 2 ^ elemBits f) ∧
            (m.start.getD m.elemCoord 0 % 32 = 0 → ∀ i < m.rows, picked i = true → ∀ k < (m.elems + 31) / 32,
              let read := fun (n a : Nat) =>
                readByte x.scratch (8192 * t.toNat + i * shapeRowbytes c.cap.shape + n) = if gone i (32 * k) then 0 else readByte bytes a
              (m.scales = true → read (packedBytes f m.elems + k) (scaleAddr o (place i (32 * k)))) ∧
              (f = 0xB → ∀ b < 2, read (18 * k + b) (elemAddr o (place i (32 * k)) + b))))))
    (c.op = .rtake g t r h e → ∀ z, c.result = some z → z.status = 0 → lands 1 520 0x9 false fun u x =>
      Answered u c.id 0 z.detail z.count ∧
      ∀ b < 8192, readByte x.scratch (8192 * t.toNat + b) = if b < 520 then readByte c.cap.tile b else 0) ∧
    (c.released = true → c.resolved = true → c.result = none →
      fetches (.hfet g t r h e) (fun _ => true) (fun i => (i : Int)) ∧
      fetches (.hgat g t r h e) (fun i => c.cap.mask.getLsbD i)
        (fun i => (BitVec.ofNat 32 (readNat c.cap.next (4 * i) 4)).toInt) ∧
      (c.op = .xref g t r → (cmdCtx s c).refusals.length ≤ 64 → lands 1 256 0xE false fun u x =>
        Answered u c.id 0 (if (cmdCtx s c).overflow then 1 else 0) (cmdCtx s c).refusals.length ∧
        (∀ k < 64, at' x (4 * k) 4 = ((cmdCtx s c).refusals.getD k ⟨0, false⟩).word.toNat) ∧
        ∃ y, ctxOf u c.core c.ctx = some y ∧ y.overflowMarked = (cmdCtx s c).overflow ∧
          y.refusals = (cmdCtx s c).refusals.map fun f => { f with marked := true }) ∧
      (c.op = .cread g t r → ∀ tm, cmdTeam s c = some tm → lands 1 1056 0xE false fun u x => Answered u c.id 0 0 256 ∧
        ∀ j < 256, at' x (4 * j) 4 = counterGet tm j ∧
          (readByte x.scratch (8192 * t.toNat + 1024 + j / 8)).getLsbD (j % 8) = decide (j ∈ tm.sticky)) ∧
      (c.op = .csnap g t r → lands 1 1056 0xE false fun u x => Answered u c.id 0 0 256 ∧
        ∀ b < 8192, readByte x.scratch (8192 * t.toNat + b) = if b < 1056 then readByte c.cap.next b else 0) ∧
      (c.op = .fcstat g t r → ∀ l tm, cmdLaunch s c = some l → cmdTeam s c = some tm → lands 1 128 0xF false fun u x =>
        Answered u c.id 0 0 16 ∧ ∀ j < 16, at' x (8 * j) 8 = (forecastWords l tm).getD j 0 % 2 ^ 64) ∧
      (c.op = .rstat g t r h → ∀ w, setBy s (handleKey c.cap.handle) = some w → lands 1 288 0xE false fun u x =>
        Answered u c.id 0 0 w.stages ∧
        (∀ st < 8, ∀ j < 8, at' x (32 * st + 4 * j) 4 =
          (if st < w.stages then
            [(w.queues.getD st []).length, w.passCur.getD st 0, w.failCur.getD st 0, w.passWin.getD st 0, w.failWin.getD st 0,
              w.windows.getD st 0, weight w st, ((heldOf s w.obj).filter (· == st)).length].getD j 0
          else 0) % 2 ^ 32) ∧
        at' x 256 4 = w.generator.elim 0 (·.toNat) ∧ at' x 260 4 = liveRecords s w % 2 ^ 32 ∧ at' x 264 4 = w.sunk % 2 ^ 32 ∧
        at' x 268 4 = w.failed % 2 ^ 32 ∧
        at' x 272 4 = (if w.producers ≤ w.closes then 1 else 0) + (if w.fixed || cmdRepro s c then 2 else 0) +
          (if w.drained then 4 else 0)) ∧
      (c.op = .tdesc g t r h e → mayPerform s c = true → earlierDescent s c = false → ∀ o acc p, Reachable s c o →
        pairing o.fmt.toNat c.cap.fmt.toNat (o.scaled || (c.cap.scaled && mayScale c.cap.fmt.toNat)) = some (acc, p) →
        c.cap.rows ≠ 0 → c.cap.rows ≤ 64 → c.cap.rowbytes = batchBytes c.cap.fmt.toNat (extentAt o 0) c.cap.scaled →
        let depth := treeDepth o
        let walks := (walkLevels o (viewBytes s c o).2 acc (streamK p 0) depth 0
          ((batchRows c (extentAt o 0)).map fun r => ⟨r.1, 0, 0, false, r.2⟩)).1
        let paths := walks.map (·.path)
        let leaves := walks.map fun w => w.node - (2 ^ depth - 1)
        let groups := leaves.eraseDups.mergeSort (· ≤ ·)
        Lands (.descent c.id) s c (t.toNat + 1) 4 256 0xE false fun u x =>
          (∃ f y, cmdBy u c.id = some f ∧ f.result = some y ∧ y.status = 0 ∧ y.detail = (walks.filter (·.nan)).length ∧
            y.count = ((List.range depth).map fun l => ((paths.map fun w => nodeOnPath w l).eraseDups).length).sum ∧
            ∃ tr, y.trace = some tr ∧ tr.depth = BitVec.ofNat 5 depth ∧ tr.valid = BitVec.ofNat 7 c.cap.rows ∧
              ∀ k < 64, tr.entries.getD k 0 = BitVec.ofNat 16 (paths.getD k 0)) ∧
          (∀ k < 64, at' x (8192 + 4 * k) 4 = (paths.getD k 0 * 2 ^ 16 + leaves.getD k 0) % 2 ^ 32) ∧
          (∀ k < c.cap.rows, at' x (8192 + 256 + k) 1 < c.cap.rows) ∧
          (∀ j k, j < k → k < c.cap.rows →
            let a := at' x (8192 + 256 + j) 1
            let b := at' x (8192 + 256 + k) 1
            leaves.getD a 0 < leaves.getD b 0 ∨ leaves.getD a 0 = leaves.getD b 0 ∧ a < b) ∧
          (∀ k < 64, c.cap.rows ≤ k → at' x (8192 + 256 + k) 1 = 0xFF) ∧
          at' x (8192 + 320) 4 = groups.length ∧
          ∀ k < 64, at' x (8192 + 384 + 8 * k) 8 = (groups[k]?.elim 0 fun l => l + (leaves.filter (· == l)).length * 2 ^ 16 +
            (leaves.filter (· < l)).length * 2 ^ 32) % 2 ^ 64))

/-- R217, R218, R222, R226 to R229, R242, R255 to R258, R309: what takes effect at a home in one step. A put, a scatter and a copy
write their elements into the joined draft, with headers and scales, converted where the shape asks for it; a compressing copy encodes
the blocks of its region (R279); an atomic replaces the draft's element and returns the old one; a publish makes the draft the next
version and completes the subscriptions; an offer to an expert buffer is admitted whole, and starts the buffer when it is full or
has its last marks, or is refused and noted; a gradient is added along its path; and the stage router binds a context, takes
records in, gives one to a worker, and passes, sinks or retires it.

The model's choices: a put, a scatter or a copy takes effect whole in one step (log entry 46), and so does a gradient (log entry 45);
the order of the statuses 0x20, 0x21, 0x28 and 0x13 (log entry 31), and of 0x21 before 0x1C (log entry 43); that an offer waits
whose start would leave a fourth older version (log entry 105); 0x21 for a copy without a conversion between an object with stored
scales and one without (log entry 135), and the element index of a copy hashed as it is past 32 bits (log entry 127). -/
def Obligations.HomesApplyCommandsInOneStep : Prop :=
  ∀ (s : State) (c : Cmd) (o : Obj) (k : Ctx) (g : BitVec 5) (r : BitVec 6) (h i : BitVec 5) (e : BitVec 3) (t : BitVec 7) (q : BitVec 4),
    Standing s c → mayPerform s c = true → ctxOf s c.core c.ctx = some k →
    let shape := c.cap.shape
    let f := shapeFmt shape
    let row := fun (j : Nat) => readBytes c.cap.tile (j * shapeRowbytes shape) (shapeRowbytes shape)
    let rounding : Rounding := ⟨shapeConvMode shape, c.cap.seed.toNat⟩
    let joined := liveDraft o k
    -- R217
    let puts := fun (op : Instr) (rows : List (Nat × Int)) => c.op = op → Due s c → Reachable s c o → o.kind ≠ .host →
      (∀ x, tileMap shape c.cap.tuple o = .error x → Completes s c x 0 0 (ObjectsStand s)) ∧
      (∀ m, tileMap shape c.cap.tuple o = .ok m →
        (o.compressed = true → Completes s c 0x28 0 0 (ObjectsStand s)) ∧
        (o.compressed = false → joined = false → Completes s c 0x13 0 0 (ObjectsStand s)) ∧
        (o.compressed = false → joined = true → Memory.wf (draftStore o).bytes = true →
          let place := fun (x : Nat × Int) (n : Nat) => natPoint (mapPoint m x.2 0 n)
          let taken := fun (code : Nat × Int → Nat → Nat) =>
            let ps := rows.flatMap fun x => (List.range m.elems).map fun n => (place x n, code x n % 2 ^ codeBits o.fmt.toNat)
            let bs := if shapeConv shape then [] else rows.flatMap fun x => rowBeside o m (place x) fun k b =>
              (row x.1).getD (if f = 0xB then 18 * k + b else packedBytes f m.elems + k) 0
            Apart o ps bs → Completes s c 0x00 0 (rows.length * m.elems) fun u _ _ => DraftTakes u o ps bs
          (shapeConv shape = false → taken fun x n => rowCode f (row x.1) n) ∧
          (shapeConv shape = true → o.fmt ≠ 0xB →
            taken fun x n => (convCode o.fmt.toNat rounding (x.1 * m.elems + n) (elemVal f (rowCode f (row x.1) n))).1) ∧
          (shapeConv shape = true → o.fmt = 0xB →
            let new := rows.flatMap fun x => (List.range m.elems).map fun n =>
              (place x n, x.1 * m.elems + n, elemVal f (rowCode f (row x.1) n))
            BlocksApart o (new.map (·.1)) → (∀ x ∈ rows, ∀ y ∈ rows, x ≠ y → ∀ a < m.elems, ∀ b < m.elems,
              elemAddr o (place x a) ≠ elemAddr o (place y b)) →
            Completes s c 0x00 0 (rows.length * m.elems) fun u _ _ => DraftBecomes u o fun st => Memory.wf st.bytes = true ∧
              (∀ p ∈ new, readBytes st.bytes (elemAddr o p.1) 18 =
                readBytes (requantise o rounding new (draftStore o).bytes p.1).1 (elemAddr o p.1) 18) ∧
              ∀ a, (∀ p ∈ new, a < elemAddr o p.1 ∨ elemAddr o p.1 + 18 ≤ a) → readByte st.bytes a = readByte (draftStore o).bytes a)))
    puts (.hput g t r h e) ((List.range (shapeRows shape)).map fun j => (j, (j : Int))) ∧
    puts (.hsca g t r h e) (((List.range (shapeRows shape)).filter fun j => c.cap.mask.getLsbD j).map fun j =>
      (j, (BitVec.ofNat 32 (readNat c.cap.next (4 * j) 4)).toInt)) ∧
    -- R218
    (∀ mode, c.op = .hcopy g h i r e mode → Due s c → Reachable s c o →
      let n := (c.cap.args.headD 0).toNat
      ∀ src, cmdSource s c = some src → (∀ a b d, absentCause s src a b d = 0) → (∀ v as, badView s src v as = none) →
      (n = 0 → Completes s c 0x00 0 0 (ObjectsStand s)) ∧
      (2 ^ 24 < n → Completes s c 0x21 0 0 (ObjectsStand s)) ∧
      (0 < n → n ≤ 2 ^ 24 → ∀ m, tileMap shape c.cap.tuple src = .ok m → o.kind ≠ .host → src.kind ≠ .host →
        let fails := fun (status : Nat) => Completes s c status 0 0 (ObjectsStand s)
        let coded := decide (mode ≠ 0)
        (f ≠ o.fmt.toNat → fails 0x20) ∧
        (f = o.fmt.toNat → shapeConv shape = false → src.scaled ≠ o.scaled → fails 0x21) ∧
        (f = o.fmt.toNat → shapeConv shape = true ∨ src.scaled = o.scaled →
          (o.compressed ≠ coded → fails 0x28) ∧
          (o.compressed = true → coded = true → src.fmt ≠ o.fmt ∨ 1 < o.fmt.toNat → fails 0x20) ∧
          let bytes := (viewBytes s c src).2
          let place := fun (j x : Nat) => natPoint (mapPoint m j 0 x)
          let count := Nat.min (n * shapeRows shape * m.elems) 0xFFFFFFFF
          let code := fun (index : Nat) (q : List Nat) =>
            if shapeConv shape then (convCode f rounding index (elemValue src bytes q).1).1 else elemCode src bytes q
          (o.compressed = false → coded = false →
            (joined = false → fails 0x13) ∧
            (joined = true → Memory.wf (draftStore o).bytes = true →
              let ps := (List.range (n * shapeRows shape)).flatMap fun (j : Nat) => (List.range m.elems).map fun x =>
                (place j x, code (j * m.elems + x) (place j x) % 2 ^ codeBits f)
              let bs := (List.range (n * shapeRows shape)).flatMap fun (j : Nat) => rowBeside o m (place j) fun k b =>
                readByte bytes ((if f = 0xB then elemAddr src (place j (32 * k)) else scaleAddr src (place j (32 * k))) + b)
              Apart o ps bs → Completes s c 0x00 0 count fun u _ _ => DraftTakes u o ps bs)) ∧
          -- R278, R279
          (o.compressed = true → coded = true → src.fmt = o.fmt → o.fmt.toNat ≤ 1 →
            let from_ := fun (q : List Nat) (j : Nat) => q.getD j 0 - (m.start.getD j 0).toNat
            let inside := fun (q : List Nat) => ∀ j < 6, (m.start.getD j 0).toNat ≤ q.getD j 0 ∧
              from_ q j < if j = m.rowCoord then n * shapeRows shape else if j = m.elemCoord then m.elems else 1
            let elements := fun (b : Nat) => (blockRange o b).map (unlinear o.extent)
            let touched := fun (b : Nat) => ∃ j < n * shapeRows shape, ∃ x < m.elems, linearIndex o (place j x) / 256 = b
            ((∃ b q, touched b ∧ q ∈ elements b ∧ ¬ inside q) → fails 0x21) ∧
            ((∀ b, touched b → ∀ q ∈ elements b, inside q) →
              (joined = false → fails 0x13) ∧
              (joined = true → Completes s c 0x00 0 count fun u _ _ => DraftBecomes u o fun st =>
                st.bytes = (draftStore o).bytes ∧ st.blocks.length = (elemCount o + 255) / 256 ∧
                ∀ b < (elemCount o + 255) / 256,
                  (¬ touched b → st.blocks[b]? = (codedBlocks o (draftStore o))[b]?) ∧
                  (touched b →
                    let stands := if mode = 3 then sourceBlock o src (viewOf src (cmdCtx s c)).2 b else none
                    (∀ x, stands = some x → st.blocks[b]? = some x) ∧
                    (stands = none → st.blocks[b]? = some (encodeBlock (codecOf o (mode != 1))
                      ((elements b).map fun q => code (from_ q m.rowCoord * m.elems + from_ q m.elemCoord) q)))))))))) ∧
    -- R226
    (let p := natPoint (tupleInts c.cap.tuple)
     let old := elemCode o (draftStore o).bytes p
     let operand := (c.cap.args.headD 0).toNat
     let extended := fun (y : Nat) => if y = 0 then (BitVec.ofNat 32 old).signExtend 64 else BitVec.ofNat 64 old
     let updates := fun (y : Nat) (back : Bool) (stored : Bool) (new : Nat) =>
       ∃ u b, exec (.elementAtomic c.id) s = .next u ∧
         Answered u c.id (if stored then 0x00 else 0x03) 0 (if stored then 1 else 0) ∧ objAt u o.key = some b ∧
         b.versions = o.versions ∧ elemCode o (draftStore b).bytes p = new ∧
         (∀ a, a < elemAddr o p ∨ elemAddr o p + elemSize o.fmt.toNat ≤ a →
           readByte (draftStore b).bytes a = readByte (draftStore o).bytes a) ∧
         ∃ x y', cmdBy u c.id = some x ∧ x.result = some y' ∧ y'.follow = if back then [extended y] else []
     ∀ x y : BitVec 3, y.toNat < 6 → Reachable s c o → o.kind ≠ .host →
       let stops := fun (op : Instr) => c.op = op →
         (o.compressed = true → ∃ u, exec (.elementAtomic c.id) s = .next u ∧ Answered u c.id 0x28 0 0 ∧ u.objects = s.objects) ∧
         (o.compressed = false → o.fmt.toNat ≠ atomCode y.toNat →
           ∃ u, exec (.elementAtomic c.id) s = .next u ∧ Answered u c.id 0x20 0 0 ∧ u.objects = s.objects) ∧
         (o.fmt.toNat = atomCode y.toNat → o.compressed = false → joined = false →
           ∃ u, exec (.elementAtomic c.id) s = .next u ∧ Answered u c.id 0x13 0 0 ∧ u.objects = s.objects)
       let applies := fun (op : Instr) (back : Bool) => c.op = op →
         o.fmt.toNat = atomCode y.toNat → o.compressed = false → joined = true → Memory.wf (draftStore o).bytes = true →
           x.toNat < 7 → updates y.toNat back true (atomicValue x.toNat y.toNat old operand)
       stops (.hatom g r h q x y) ∧ stops (.hatomr g r h q x y) ∧ stops (.hcas g r h q y) ∧
       applies (.hatom g r h q x y) false ∧ applies (.hatomr g r h q x y) true ∧
       (c.op = .hcas g r h q y → o.fmt.toNat = atomCode y.toNat → o.compressed = false → joined = true →
         Memory.wf (draftStore o).bytes = true →
         let w := elemBits o.fmt.toNat
         let same := old == (c.cap.args.getD 1 0).toNat % 2 ^ w
         updates y.toNat true same (if same then operand % 2 ^ w else old))) ∧
    -- R222, R309, R310
    (c.op = .hpub g r h → Reachable s c o → (∀ x ∈ o.subs, x.cmd ≠ c.id) →
      let answers := fun (status : Nat) => ∃ u, exec (.publishStep c.id) s = .next u ∧ Answered u c.id status 0 0 ∧ u.objects = s.objects
      (joined = false → answers 0x13) ∧
      (joined = true → 4 ≤ wouldRetain s o → answers 0x14) ∧
      (joined = true → wouldRetain s o < 4 → 0xFFFFFFFF ≤ o.current → answers 0x18) ∧
      (joined = true → wouldRetain s o < 4 → o.current < 0xFFFFFFFF → ∀ d, o.draft = some d → d.routed = false →
        ∃ u b, exec (.publishStep c.id) s = .next u ∧ Answered u c.id 0 0 (o.current + 1) ∧ objAt u o.key = some b ∧
          b.current = o.current + 1 ∧ versionStore b (o.current + 1) = some d.store ∧ b.draft = none ∧ b.subs = [] ∧
          (∀ x ∈ allCtxs u, ∀ z ∈ x.drafts, z.obj = o.key → z.draftNo ≠ o.draftNo) ∧
          ∀ x a y, o.subs = [x] → cmdBy s x.cmd = some a → Standing s a → NotBusy s a → a.token < 64 →
            ctxOf s a.core a.ctx = some y → ∃ z, ctxOf u a.core a.ctx = some z ∧
              z.live.s.getD a.token 0 = wordOf 0 0 (if x.v then o.current + 1 else 0))) ∧
    -- R227 to R229
    (let n := (maskedRows c.cap).length
     let offers := fun (op : Instr) (last : Bool) => c.op = op → Reachable s c o → o.kind = .expert → k.refusals.length < 64 →
       (∀ x ∈ o.subs, x.cmd ≠ c.id) →
       let marks := if last then Nat.min (o.marks + 1) 255 else o.marks
       let full := o.bufRows + n = extentAt o 1
       let refused := fun (status : Nat) => ∃ u z b, exec (.xsendAdmission c.id) s = .next u ∧ Answered u c.id status n 0 ∧
         ctxOf u c.core c.ctx = some z ∧ z.refusals = k.refusals ++
           [⟨BitVec.ofNat 32 (c.cap.ckcount.toNat % 2 ^ 16 * 2 ^ 16 + c.token % 64 * 2 ^ 10 + n % 128), false⟩] ∧
         objAt u o.key = some b ∧ b.bufRows = o.bufRows ∧ b.marks = marks ∧ b.draft = o.draft
       (c.cap.rowbytes ≠ bufferRowBytes o → ∃ u, exec (.xsendAdmission c.id) s = .next u ∧ Answered u c.id 0x21 0 0 ∧
         u.objects = s.objects ∧ ctxOf u c.core c.ctx = some k) ∧
       (c.cap.rowbytes = bufferRowBytes o → o.started = true → refused 0x19) ∧
       (c.cap.rowbytes = bufferRowBytes o → o.started = false → ∀ d, o.draft = some d →
         (hasRoom s o n = false → marks ≠ bufferSenders o → o.bufRows ≠ extentAt o 1 → refused 0x12) ∧
         (hasRoom s o n = true → (¬ full ∧ marks ≠ bufferSenders o) →
           let need := Nat.max o.bufPages (pagesNeeded o (o.bufRows + n))
           ∃ u b x, exec (.xsendAdmission c.id) s = .next u ∧ Answered u c.id 0x00 o.bufRows n ∧ objAt u o.key = some b ∧
             b.bufRows = o.bufRows + n ∧ b.marks = marks ∧ b.started = false ∧ b.bufPages = need ∧
             u.pools.getD o.loc.die 0 = s.pools.getD o.loc.die 0 - (need - o.bufPages) ∧ ctxOf u c.core c.ctx = some x ∧
             x.refusals = k.refusals ∧
             (Memory.wf (draftStore o).bytes = true →
               let sent := fun (j : Nat) => readBytes c.cap.tile ((maskedRows c.cap).getD j 0 * c.cap.rowbytes) c.cap.rowbytes
               let ps := (List.range n).flatMap fun j => (List.range (extentAt o 0)).map fun x => ([x, o.bufRows + j],
                 rowCode o.fmt.toNat (sent j) x)
               let bs := (List.range n).flatMap fun j =>
                 rowBeside o ⟨1, extentAt o 0, 1, 0, [0, ((o.bufRows + j : Nat) : Int)], bufferScales o⟩ (fun x => [x, o.bufRows + j]) fun k b =>
                   (sent j).getD (if o.fmt = 0xB then 18 * k + b else packedBytes o.fmt.toNat (extentAt o 0) + k) 0
               Apart o ps bs → DraftTakes u o ps bs)) ∧
         (hasRoom s o n = true → (full ∨ marks = bufferSenders o) → mayPublish s o = true →
           ∃ u b, exec (.xsendAdmission c.id) s = .next u ∧ Answered u c.id 0x00 o.bufRows n ∧ objAt u o.key = some b ∧
             b.started = true ∧ b.marks = marks ∧ b.current = o.current + 1 ∧ b.draft = none) ∧
         (hasRoom s o n = true → (full ∨ marks = bufferSenders o) → mayPublish s o = false →
           exec (.xsendAdmission c.id) s = .next s))
     offers (.xsend g t r h) false ∧ offers (.xsendLast g t r h) true) ∧
    -- R242
    (c.op = .tgrad g t r h e → Reachable s c o → o.kind ≠ .host → earlierDescent s c = false →
      let answers := fun (status : Nat) => ∃ u, exec (.descent c.id) s = .next u ∧ Answered u c.id status 0 0 ∧ u.objects = s.objects
      (o.fmt ≠ 0 → o.fmt ≠ 1 → answers 0x20) ∧
      (o.fmt = 0 ∨ o.fmt = 1 →
        (gradFits c o = false → answers 0x21) ∧
        (gradFits c o = true → o.compressed = false → joined = false → answers 0x13) ∧
        (gradFits c o = true → o.compressed = false → joined = true → Memory.wf (draftStore o).bytes = true → c.cap.rows = 1 →
          ∀ d, o.draft = some d → otherWriter s c d = false →
          let ff := if o.fmt = 0 then f64 else f32
          let xs := (batchValues c.cap.fmt.toNat (extentAt o 0) c.cap.scaled (readBytes c.cap.tile 0 c.cap.rowbytes)).1
          let ps := (List.range c.cap.trace.depth.toNat).flatMap fun l => (List.range (extentAt o 0)).map fun x =>
            let n := nodeOnPath (c.cap.trace.entries.getD 0 0).toNat l
            ([x, n], (fmaRound ff nearestEven 0 (coefAt ff c.cap.next 0 l) (xs.getD x (.fin false 0 0))
              (decodeFloat ff (elemCode o (draftStore o).bytes [x, n]))).1 % 2 ^ elemBits o.fmt.toNat)
          Apart o ps [] → (ps.map (·.1)).Nodup →
          ∃ u, exec (.descent c.id) s = .next u ∧ Answered u c.id 0x00 0 c.cap.trace.depth.toNat ∧ DraftTakes u o ps []))) ∧
    -- R255 to R258
    (∀ w, AtRouter s c w →
      let n := c.cap.rows
      let head := fun (j : Nat) => readNat c.cap.tile (520 * j) 8
      let key := fun (x : Record) => (x.header, x.payload)
      let worker := fun (st : BitVec 3) (x : Record) => k.binding = some (w.obj, st.toNat) ∧ k.held = some (w.obj, st.toNat, x)
      let last := fun (st : Nat) (x : Record) => ∀ j < w.stages, j ≠ st → recDone x j = true
      (c.op = .rbind g r h e →
        (w.stages ≤ e.toNat → Routes s c 0x21 0 0 fun _ v z => v = w ∧ z = k) ∧
        (e.toNat < w.stages → ∀ x, k.held = some x → Routes s c 0x1C (recId x.2.2 % 2 ^ 24) 0 fun _ v z => v = w ∧ z = k) ∧
        (e.toNat < w.stages → k.held = none → Routes s c 0x00 0 (depthOf w e.toNat) fun _ v z => v = w ∧
          z = { k with binding := some (w.obj, e.toNat) })) ∧
      (c.op = .rput g t r h ∨ c.op = .rputLast g t r h → n ≤ 15 →
        let closes := if c.op = .rput g t r h then w.closes else Nat.min (w.closes + 1) 255
        let bad := fun (j : Nat) => queueCapacity s w.sink ≤ head j % 2 ^ 32 ∨ 512 < head j / 2 ^ 45 % 2 ^ 10
        (∀ j < n, bad j → (∀ y < j, ¬ bad y) → Routes s c 0x26 j 0 fun _ v _ => v.queues = w.queues ∧ v.closes = w.closes) ∧
        ((∀ j < n, ¬ bad j) →
          (queueCapacity s w.queue < liveRecords s w + n → Routes s c 0x1B n 0 fun _ v _ =>
            v.queues = w.queues ∧ v.closes = closes) ∧
          (liveRecords s w + n ≤ queueCapacity s w.queue → Routes s c 0x00 0 n fun u v _ => v.closes = closes ∧
            v.sunk = w.sunk ∧ liveRecords u v = liveRecords s w + n ∧
            (w.stages = 1 → (v.queues.getD 0 []).map key = (w.queues.getD 0 []).map key ++ (List.range n).map fun j =>
              (BitVec.ofNat 64 (head j % 2 ^ 32 + head j / 2 ^ 45 % 2 ^ 10 * 2 ^ 45), readBytes c.cap.tile (520 * j + 8) 512))))) ∧
      (c.op = .rputUpd g t r h → n ≤ 15 →
        (k.held = none → Routes s c 0x1D 0 0 fun _ _ z => z = k) ∧
        (∀ st x, k.held = some (w.obj, st, x) →
          (n = 0 ∨ head 0 % 2 ^ 32 ≠ recId x ∨ 512 < head 0 / 2 ^ 45 % 2 ^ 10 → Routes s c 0x26 0 0 fun _ _ z => z = k) ∧
          (0 < n → head 0 % 2 ^ 32 = recId x → head 0 / 2 ^ 45 % 2 ^ 10 ≤ 512 → Routes s c 0x00 0 1 fun _ _ z =>
            ∃ y, z = { k with held := some (w.obj, st, y) } ∧ recId y = recId x ∧ (∀ j < 8, recDone y j = recDone x j) ∧
              recLength y = head 0 / 2 ^ 45 % 2 ^ 10 ∧ y.payload = readBytes c.cap.tile 8 512 ∧ y.slot = x.slot))) ∧
      (c.op = .rtake g t r h e → w.drained = false → e.toNat < w.stages → c.reserved = true →
        (k.binding ≠ some (w.obj, e.toNat) → Routes s c 0x1D 0 0 fun _ v z => v = w ∧ z = k) ∧
        (k.binding = some (w.obj, e.toNat) → ∀ x, k.held = some x → Routes s c 0x1C (recId x.2.2 % 2 ^ 24) 0 fun _ v z => v = w ∧ z = k) ∧
        (k.binding = some (w.obj, e.toNat) → k.held = none →
          (w.queues.getD e.toNat [] = [] → ∃ u v, exec (.routingStep c.id) s = .next u ∧ cmdBy u c.id = some c ∧
            setBy u w.obj = some v ∧ v = { w with waiters := [c.id] }) ∧
          (∀ x rest, w.queues.getD e.toNat [] = x :: rest → teamOut s c = false → Routes s c 0x00 rest.length (recId x) fun u v z =>
            v.queues = w.queues.setIfInBounds e.toNat rest ∧ v.waiters = [] ∧ z.held = some (w.obj, e.toNat, x) ∧
            ∃ y, cmdBy u c.id = some y ∧ ∀ b < 520, readByte y.cap.tile b = (recordBytes x).getD b 0))) ∧
      (c.op = .rdone g r h e ∨ c.op = .rdoneFail g r h e → e.toNat < w.stages →
        (k.held = none ∨ k.binding ≠ some (w.obj, e.toNat) → Routes s c 0x1D 0 0 fun _ v z => v = w ∧ z = k) ∧
        (∀ x, worker e x →
          let fails := decide (c.op = .rdoneFail g r h e) && stageFilter w e.toNat
          let counted := fun (v : StageSet) => (v.passCur.getD e.toNat 0, v.failCur.getD e.toNat 0) = verdicts w e.toNat (!fails)
          (fails = true → Routes s c 0x00 0 0 fun _ v z => z = { k with held := none } ∧ v.failed = w.failed + 1 ∧
            v.sunk = w.sunk ∧ v.queues = w.queues ∧ counted v) ∧
          (fails = false → last e.toNat x →
            (if c.op = .rdone g r h e then Routes s c 0x00 0 0 else Routes s c 0x27 e.toNat 0) fun u v z =>
              z = { k with held := none } ∧ v.sunk = w.sunk + 1 ∧ v.failed = w.failed ∧ v.queues = w.queues ∧ counted v ∧
              ∀ a d, objAt s w.sink = some a → a.draft = some d → a.kind ≠ .host → Memory.wf d.store.bytes = true →
                ∃ b d', objAt u w.sink = some b ∧ b.draft = some d' ∧
                  let head := readNat d'.store.bytes (520 * recId x) 8
                  head % 2 ^ 32 = recId x ∧ head.testBit (32 + e.toNat) = true ∧ head / 2 ^ 41 % 8 = e.toNat ∧
                  head.testBit 44 = true ∧ head / 2 ^ 45 % 2 ^ 10 = recLength x))))

/-- R219, R264, R265, R269, R273: the tier engines. An action whose range does not resolve is counted as failed; `evict-far` begins
a move to the far tier of each page that the range still has near, and `fetch-near` the move to the near tier of each far page
where the quota has room; the switch of a page changes its tier and nothing of the object's versions, and its bytes are
counted. `prefetch-L2` brings lines of its range into the caches, and `release-L2` makes the lines that it finds there the first to be
replaced; neither moves a page. Where the quota lacks room for a page, the least recently used page of the partition goes to the far
tier, none that a require-near entry protects, and with none to go the action fails. `hpfl2` changes no object, and counts at most
the lines of its range. That the tier engines count a page once for each copy that its chunks have is the model's choice (log entry
57). -/
def Obligations.TierEnginesMovePages : Prop :=
  ∀ (s : State),
    (∀ (a : Action) (f : ForecastCounters), FirstAction s a → forecastCounts s a.launch = some f →
      (actionObject s a = none → ∃ t, exec (.forecastAction a.id) s = .next t ∧
        t.actions = s.actions.filter (fun b => b.id != a.id) ∧ t.moves = s.moves ∧ t.objects = s.objects ∧
        forecastCounts t a.launch = some { f with failedActions := Nat.min (f.failedActions + 1) (2 ^ 64 - 1) }) ∧
      (∀ o, actionObject s a = some o → a.op.action = 2 → s.moves = [] →
        let pages := (tierPages s o a.op).filter fun p => !o.farPages.contains p
        (farRoom s (copiesOf o pages) = true ∨ pages = []) → ∃ t, exec (.forecastAction a.id) s = .next t ∧ t.objects = s.objects ∧
          (t.moves.map fun m => (m.obj, m.page, m.near, m.action)) = pages.map fun p => (o.key, p, false, a.id)) ∧
      (∀ o, actionObject s a = some o → a.op.action ≤ 1 → s.moves = [] →
        let pages := (tierPages s o a.op).filter fun p => o.farPages.contains p
        let onDie := fun (die : Nat) => copiesOf o (pages.filter fun p => shardDie o (pageShard p) == die)
        (∀ die, nearUse s o.partition die + onDie die ≤ quotaOf s o.partition die) → pages ≠ [] →
        ∃ t, exec (.forecastAction a.id) s = .next t ∧ t.objects = s.objects ∧
          (t.moves.map fun m => (m.obj, m.page, m.near, m.action)) = pages.map fun p => (o.key, p, true, a.id)) ∧
      (∀ o, actionObject s a = some o → a.op.action ≤ 1 → s.moves = [] → (∀ p ∈ tierPages s o a.op, p ∉ o.farPages) →
        ∃ t, exec (.forecastAction a.id) s = .next t ∧ t.objects = s.objects ∧ t.moves = [] ∧
          forecastCounts t a.launch = some { f with redundant := Nat.min (f.redundant + 1) (2 ^ 64 - 1) }) ∧
      -- R265
      (∀ o p, actionObject s a = some o → a.op.action ≤ 1 → s.moves = [] → (tierPages s o a.op).filter o.farPages.contains = [p] →
        let die := shardDie o (pageShard p)
        let candidates := evictable s o.partition die [(o.key, p)]
        quotaOf s o.partition die < nearUse s o.partition die + pageCopies o p →
        (candidates = [] → ∃ t, exec (.forecastAction a.id) s = .next t ∧ t.objects = s.objects ∧ t.moves = [] ∧
          forecastCounts t a.launch = some { f with failedActions := Nat.min (f.failedActions + 1) (2 ^ 64 - 1) }) ∧
        (∀ q b, (∀ z ∈ candidates, z ∈ s.pageUse ∧ (z = q ∨ s.pageUse.idxOf q < s.pageUse.idxOf z)) → q ∈ candidates →
          objAt s q.1 = some b → farRoom s (pageCopies b q.2) = true →
          nearUse (putPage s q.1 q.2 true) o.partition die + pageCopies o p ≤ quotaOf s o.partition die →
          ∃ t d, exec (.forecastAction a.id) s = .next t ∧ objAt t q.1 = some d ∧ { d with farPages := b.farPages } = b ∧
            (∀ z, z ∈ d.farPages ↔ z = q.2 ∨ z ∈ b.farPages) ∧ (∀ k ≠ q.1, objAt t k = objAt s k) ∧
            (t.moves.map fun m => (m.obj, m.page, m.near, m.action)) = [(o.key, p, true, a.id)] ∧
            forecastCounts t a.launch = some { f with toFar := Nat.min (f.toFar + pageCopies b q.2 * 2097152) (2 ^ 64 - 1) })) ∧
      -- R269
      (∀ o, actionObject s a = some o → a.op.action = 3 → ∃ t, exec (.forecastAction a.id) s = .next t ∧ t.objects = s.objects ∧
        t.moves = s.moves ∧ (∀ l ∈ t.lines, l ∈ s.lines ∨ l ∈ rangeLines s o a.op) ∧
        (forecastCounts t a.launch = some { f with redundant := Nat.min (f.redundant + 1) (2 ^ 64 - 1) } ∨
          ∃ n, 0 < n ∧ n ≤ (rangeLines s o a.op).length ∧ forecastCounts t a.launch =
            some { f with lines := Nat.min (f.lines + n) (2 ^ 64 - 1), completed := Nat.min (f.completed + 1) (2 ^ 64 - 1) })) ∧
      (∀ o, actionObject s a = some o → a.op.action = 4 →
        let hit := fun (l : CacheLine) => l.obj == o.key && (tagLines o a.op).contains (l.version, l.line)
        ∃ t, exec (.forecastAction a.id) s = .next t ∧ t.objects = s.objects ∧ t.moves = s.moves ∧
          t.lines = s.lines.filter hit ++ s.lines.filter (fun l => !hit l) ∧
          (forecastCounts t a.launch = some { f with redundant := Nat.min (f.redundant + 1) (2 ^ 64 - 1) } ∨
            forecastCounts t a.launch = some { f with completed := Nat.min (f.completed + 1) (2 ^ 64 - 1) }))) ∧
    (∀ (c : Cmd) (o : Obj) (g : BitVec 5) (r : BitVec 6) (h : BitVec 5) (e : BitVec 3) (m : TileMap), Due s c → c.op = .hpfl2 g r h e →
      Reachable s c o → tileMap c.cap.shape c.cap.tuple o = .ok m → o.kind ≠ .host →
      let n := (c.cap.args.headD 0).toNat
      (2 ^ 24 < n → Completes s c 0x21 0 0 (ObjectsStand s)) ∧
      (n ≤ 2 ^ 24 → (∀ j, shardPackage o j = s.package) → ∃ brought, brought ≤ (viewLines o (viewOf o (cmdCtx s c)).1 (cmdAddrs c o)).length ∧
        Completes s c 0x00 0 (Nat.min brought 0xFFFFFFFF) (ObjectsStand s))) ∧
    (∀ (m : Move) (o : Obj) (f : ForecastCounters), (s.moves.find? fun x => x.id == m.id) = some m → objAt s m.obj = some o →
      forecastCounts s m.launch = some f →
      ∃ t d g, exec (.tierPageSwitch m.id) s = .next t ∧ t.moves = s.moves.filter (fun x => x.id != m.id) ∧
        objAt t m.obj = some d ∧ { d with farPages := o.farPages } = o ∧ (m.page ∈ d.farPages ↔ m.near = false) ∧
        (∀ p, p ≠ m.page → (p ∈ d.farPages ↔ p ∈ o.farPages)) ∧ forecastCounts t m.launch = some g ∧
        let bytes := 2097152 * pageCopies o m.page
        g.toNear = (if m.near = true ∧ m.page ∈ o.farPages then Nat.min (f.toNear + bytes) (2 ^ 64 - 1) else f.toNear) ∧
        g.toFar = (if m.near = false ∧ m.page ∉ o.farPages then Nat.min (f.toFar + bytes) (2 ^ 64 - 1) else f.toFar))

/-- R366, R368, R369: Rilsia resolves traps. A context that awaits the ranges of a marker goes on once none is missing, and nothing is
triggered for it while its team is out (R271); one that awaits an object without storage, or a shard that is spilled (R397), goes
on once the storage is there, and neither a version nor a draft of the object changes.

R219: `hprobe` reports the rows that hold an absent element and counts the absent elements; `hres` stays pending while elements
are absent and then completes with their count. That it takes two turns, of which the first fixes the count, is the model's reading
(log entry 35). -/
def Obligations.MissesAndAbsencesAreResolved : Prop :=
  (∀ (s : State) (c : Cmd) (o : Obj) (k : Ctx) (g : BitVec 5) (r : BitVec 6) (h : BitVec 5) (e : BitVec 3) (m : TileMap), Due s c →
    cmdObj s c = some o → ctxOf s c.core c.ctx = some k → tileMap c.cap.shape c.cap.tuple o = .ok m →
    let n := (c.cap.args.headD 0).toNat
    let gone := fun (i x : Nat) => absentElem s o (viewOf o k).1 (cmdCluster s c) (natPoint (mapPoint m i 0 x))
    let absent := fun (rows : Nat) => ((List.range rows).map fun i => ((List.range m.elems).filter (gone i)).length).sum
    (c.op = .hprobe g r h e → c.token < 64 → ∃ t y, exec (.commandCompletion c.id) s = .next t ∧ t.objects = s.objects ∧
      ctxOf t c.core c.ctx = some y ∧
      y.live.s.getD c.token 0 = wordOf 0x00 0 (Nat.min (absent (shapeRows c.cap.shape)) 0xFFFFFFFF) ∧
      ∀ (j : Nat) (hj : j < 8), .m j ∈ c.writes → ∀ i < 64,
        (y.live.m[j]).getLsbD i = (decide (i < shapeRows c.cap.shape) && (List.range m.elems).any (gone i))) ∧
    (c.op = .hres g r h e →
      (2 ^ 24 < n → Completes s c 0x21 0 0 (ObjectsStand s)) ∧
      (n ≤ 2 ^ 24 → absent (n * shapeRows c.cap.shape) = 0 →
        Completes s c 0x00 0 (Nat.min c.cap.rowbytes 0xFFFFFFFF) (ObjectsStand s)) ∧
      (n ≤ 2 ^ 24 → absent (n * shapeRows c.cap.shape) ≠ 0 → ∃ t f, exec (.commandCompletion c.id) s = .next t ∧
        cmdBy t c.id = some f ∧ f.result = none ∧ t.objects = s.objects ∧ ctxOf t c.core c.ctx = some k ∧
        (c.cap.rows = 0 → f.cap.rowbytes = absent (n * shapeRows c.cap.shape) ∧ f.cap.rows = 1) ∧
        (c.cap.rows ≠ 0 → f = c)))) ∧
  ∀ (s : State) (c : CoreRec) (x : Fin 4) (d : Ctx) (r : TrapRecord), coreOf s c.id = some c → Awaits s c.id x d r →
    ((allCores s).map (·.id)).Nodup →
    (r.cls = 0x08 → holding s c.launch c.team (r.detail.toNat / 2 ^ 16) = [] → ∃ t,
      exec (.forecastMissResolution c.id x.val) s = .next t ∧ Resumed t c.id x d ∧ t.objects = s.objects ∧ t.actions = s.actions) ∧
    (r.cls = 0x08 → holding s c.launch c.team (r.detail.toNat / 2 ^ 16) ≠ [] → isOut s c.launch c.team = true →
      exec (.forecastMissResolution c.id x.val) s = .next s) ∧
    (r.cls = 0x08 → isOut s c.launch c.team = false →
      (∃ e ∈ holding s c.launch c.team (r.detail.toNat / 2 ^ 16), inProgress s c.launch e.1 = false) → ∃ t,
      exec (.forecastMissResolution c.id x.val) s = .next t ∧ ctxOf t c.id x.val = some d ∧
      ∀ e ∈ holding s c.launch c.team (r.detail.toNat / 2 ^ 16), inProgress t c.launch e.1 = true) ∧
    (∀ o : Obj, r.cls = 0x07 → resolveHandle s r.operand = .ok o → HeldHere s o → o.key.home = s.package →
      let n := r.detail.toNat / 256
      (o.loc.materialised = false ∧ o.loc.spilled = [] ∧ shardCount o = 1 ∨ o.loc.materialised = true ∧ n ∈ o.loc.spilled) →
      (∀ m ∈ faultShards s o.key, m = n) →
      let shard := if o.loc.materialised then n else 0
      let pages := copiesOf o (shardPages o shard)
      oldStands s o.key shard = false →
      (if o.loc.far then farRoom s (pages - if n ∈ o.loc.spilled then spillPages s o n else 0) = true
       else nearUse s o.partition o.loc.die + pages ≤ quotaOf s o.partition o.loc.die) →
      ∃ t b, exec (.missingObjectResolution o.key) s = .next t ∧
        objAt t o.key = some b ∧ b.loc.materialised = true ∧ b.loc.spilled = o.loc.spilled.filter (· != n) ∧
        b.versions = o.versions ∧ b.draft = o.draft ∧ b.current = o.current ∧ Resumed t c.id x d)

/-- R231, R232, R353 to R356: packets. A packet for a registered receiver is acknowledged, its bytes are placed in the open draft as
far as the pending bytes reach, and the object's counter takes them; a packet seen before is acknowledged again; one for no
receiver is dropped. A send whose packets are all acknowledged is done; a packet whose retransmissions are spent ends its
send with 0x22. `nsend` puts its bytes on the ports in packets, for the peer of the endpoint record; `nexp` raises the expectation, and
`ncnt` reports the counter.

R303, R350, R351: the scale-up link. A flit that fails its check is counted; the loss and the return of a link, and the failure of a
package, are noted; on a return the contexts that waited for the package's objects go on; the failure of a package ends the
launches that joined a draft that it homes; a target of replicas gets the one of a version that it lacks.

The model's choices: `nexp` answers 0x21 whether or not a draft is joined, and `nsend` 0x22 before any other status where no port is
enabled (log entry 31); a packet is placed as far as the pending bytes reach and acknowledged whole (log entry 76). -/
def Obligations.PacketsLinksAndReplicas : Prop :=
  (∀ (s : State) (c : Cmd) (o : Obj) (k : Ctx) (g : BitVec 5) (t : BitVec 7) (r : BitVec 6) (h : BitVec 5), Due s c → Reachable s c o →
     ctxOf s c.core c.ctx = some k →
     let n := (c.cap.args.headD 0).toNat
     let len := c.cap.rows * c.cap.rowbytes
     let sends := fun (status : Nat) => ∃ u, exec (.commandCompletion c.id) s = .next u ∧ Answered u c.id status 0 0 ∧ u.wire = s.wire
     (c.op = .nexp g r h →
       (n = 0 ∨ 0xFFFFFF < n → Completes s c 0x21 0 0 (ObjectsStand s)) ∧
       (0 < n → n ≤ 0xFFFFFF → o.compressed = false →
         (liveDraft o k = false → Completes s c 0x13 0 0 (ObjectsStand s)) ∧
         (liveDraft o k = true → 0xFFFFFF < o.pendingBytes + n → Completes s c 0x15 o.pendingBytes 0 (ObjectsStand s)) ∧
         (liveDraft o k = true → o.pendingBytes + n ≤ 0xFFFFFF → Completes s c 0x00 0 (o.pendingBytes + n) fun u _ _ =>
           objAt u o.key = some { o with pendingBytes := o.pendingBytes + n }))) ∧
     (c.op = .ncnt g r h →
       Completes s c (if o.overrun then 0x06 else 0x00) o.pendingBytes o.counter.toNat (ObjectsStand s)) ∧
     (c.op = .nsend g t r h → (∀ x ∈ s.sends, x.cmd ≠ c.id) →
       (enabledPorts s = [] → sends 0x22) ∧
       (enabledPorts s ≠ [] → 2 ^ 48 ≤ n → sends 0x21) ∧
       (enabledPorts s ≠ [] → n < 2 ^ 48 → len = 0 → sends 0x00) ∧
       (n < 2 ^ 48 → len ≠ 0 → enabledPorts s ≠ [] →
         let e := endpointRecord s c o
         let count := (len + 4095) / 4096
         ∃ u x, exec (.commandCompletion c.id) s = .next u ∧ u.sends = s.sends ++ [x] ∧ x.cmd = c.id ∧ x.length = len ∧
           x.offset = n ∧ x.packets.map (·.num) = List.range count ∧ (∀ p ∈ x.packets, p.acked = false) ∧
           (u.wire.drop s.wire.length).map (fun w => (w.peer, w.job, w.resource, w.offset, w.payload)) =
             ((List.range count).map fun i => (recordField e 0 16, recordField e 16 3, recordField e 20 3, n + 4096 * i,
               readBytes c.cap.tile (4096 * i) (Nat.min 4096 (len - 4096 * i)))) ∧
           ∀ w ∈ u.wire.drop s.wire.length, w.port ∈ enabledPorts s))) ∧
  (∀ (s : State) (p : Packet), p.port ∈ enabledPorts s →
     let known := connBy s p.conn
     (p.seq ∈ known.accepted → ∃ t, exec (.packetArrival p) s = .next t ∧ t.objects = s.objects ∧
       connBy t p.conn = { known with acks := known.acks + 1 }) ∧
     (p.seq ∉ known.accepted → (∀ r ∈ s.receivers, r.resource ≠ p.resource ∨ r.job ≠ p.job) → ∃ t,
       exec (.packetArrival p) s = .next t ∧ t.objects = s.objects ∧ connBy t p.conn = { known with dropped := known.dropped + 1 }) ∧
     (∀ (r : Receiver) (o : Obj) (d : Draft), p.seq ∉ known.accepted → (s.receivers.find? fun r => r.resource == p.resource && r.job == p.job) = some r →
       objAt s r.obj = some o → o.key = r.obj → absentObj s o = false → o.kind ≠ .host → o.draft = some d →
       Memory.wf d.store.bytes = true → shardCount o = 1 → p.offset + p.payload.length ≤ shardBytes o 0 →
       let n := Nat.min p.payload.length o.pendingBytes
       ∃ t b e, exec (.packetArrival p) s = .next t ∧ objAt t r.obj = some b ∧ b.draft = some e ∧
         connBy t p.conn = { known with accepted := known.accepted ++ [p.seq], acks := known.acks + 1 } ∧
         b.pendingBytes = o.pendingBytes - n ∧ b.counter = o.counter + BitVec.ofNat 32 n ∧
         b.overrun = (o.overrun || decide (o.pendingBytes < p.payload.length)) ∧ b.versions = o.versions ∧
         Memory.wf e.store.bytes = true ∧ ∀ a, readByte e.store.bytes a =
           if p.offset ≤ a ∧ a < p.offset + n then p.payload.getD (a - p.offset) 0 else readByte d.store.bytes a) ∧
     (∀ (x : Send) (c : Cmd), (s.sends.find? fun y => y.cmd == x.cmd) = some x → cmdBy s x.cmd = some c →
       (∀ acked, (∀ q ∈ x.packets, q.acked = true ∨ q.num ∈ acked) → ∃ t f, exec (.selectiveAcknowledgement x.cmd acked []) s = .next t ∧
         t.sends = s.sends.filter (fun y => y.cmd != x.cmd) ∧ cmdBy t x.cmd = some f ∧
         f.result = some (plainResult 0x00 0 x.length)) ∧
       (∀ q ∈ x.packets, q.acked = false → (∀ y ∈ x.packets, y.num = q.num → y = q) → x.retries ≤ q.tries → ∃ t f,
         exec (.retransmissionTimeout x.cmd q.num) s = .next t ∧ t.sends = s.sends.filter (fun y => y.cmd != x.cmd) ∧
         cmdBy t x.cmd = some f ∧ f.result = some (plainResult 0x22 0 (ackedBytes x))) ∧
       (∀ q ∈ x.packets, q.acked = false → (∀ y ∈ x.packets, y.num = q.num → y = q) → q.tries < x.retries → ∃ t w,
         exec (.retransmissionTimeout x.cmd q.num) s = .next t ∧ t.wire = s.wire ++ [w] ∧ w.offset = x.offset + 4096 * q.num ∧
         w.peer = x.conn ∧ w.job = x.job ∧ w.resource = x.resource ∧
         t.sends.map (·.cmd) = s.sends.map (·.cmd)))) ∧
  (∀ (s : State) (p : Nat),
     exec .flitCheckFailure s = .next (if onLinks s then { s with flitErrors := s.flitErrors + 1 } else s) ∧
     (p ≠ s.package → p < 576 → p ∉ s.lostLinks → exec (.linkLoss p) s = .next { s with lostLinks := s.lostLinks ++ [p] }) ∧
     (p ∈ s.lostLinks → s.device = 3 → exec (.linkReturn p) s = .next s) ∧
     (p ∈ s.lostLinks → s.device ≠ 3 → ∃ t, exec (.linkReturn p) s = .next t ∧ t.lostLinks = s.lostLinks.filter (fun q => q != p) ∧
       t.objects = s.objects ∧ t.cmds = s.cmds ∧ ∀ (core : Nat) (x : Fin 4) (d : Ctx) (r : TrapRecord) (o : Obj), ((allCores s).map (·.id)).Nodup → Awaits s core x d r → r.cls = 0x07 →
         r.detail.toNat / 256 = 0 → resolveHandle s r.operand = .ok o → o.loc.materialised = true → o.loc.moving = false →
         o.loc.spilled = [] → o.loc.lent = false → o.loc.package = p → (o.key.home = p ∨ o.key.home = s.package) →
         p ∉ s.failedPackages → Resumed t core x d) ∧
     (p ≠ s.package → p < 576 → p ∉ s.failedPackages → ∃ t, exec (.packageFailure p) s = .next t ∧
       t.failedPackages = s.failedPackages ++ [p] ∧ t.objects = s.objects ∧ t.lostLinks = s.lostLinks ∧
       ∀ (l : Launch) (o : Obj) (d : Draft), launchBy s l.id = some l → l.firstTrap = none → o ∈ s.objects → o.present = true → o.draft = some d →
         (o.key.home = p ∨ ∃ n < shardCount o, shardPackage o n = p) → l.id ∈ d.joined →
         ∃ m r, launchBy t l.id = some m ∧ m.firstTrap = some r ∧ r.cls = 0x09) ∧
     (∀ (o : Obj) (v n : Nat), objAt s o.key = some o → absentAny s o (some v) none (List.range (shardCount o)) = false →
       (∃ w ∈ o.versions, w.num = v) → (∃ w ∈ o.replicas, w.2 = n) →
       (v, n) ∉ o.replicas → ∃ t b, exec (.replicaBuild o.key v n) s = .next t ∧ objAt t o.key = some b ∧ (v, n) ∈ b.replicas ∧
         { b with replicas := o.replicas } = o ∧ t.cmds = s.cmds))

/-- R15, R331, R374: a team's first placement. Every core of the shape gets a record at the physical core that its relative one maps to;
its contexts run with the team, the index and the coordinate in `s0` to `s2`, the scalar parameters after them, the handles
and the launch's seed, in the live state and the shadow alike; contexts past the count stay idle, and tiles read zero. -/
def Obligations.TeamsStartOnTheirCores : Prop :=
  ∀ (s : State) (l : Launch) (tm : Team) (p : Placement), TeamIs s l tm → tm.status = .unstarted → mayTake s l tm p = true →
    l.cols ≤ 8 → ∃ t u, exec (.teamStart l.id tm.index p) s = .next t ∧ teamBy t l.id tm.index = some u ∧ u.status = .placed ∧
      u.place = some p ∧ u.everPlaced = true ∧ u.marker = 0 ∧ u.counters = [] ∧ t.objects = s.objects ∧ t.core = s.core ∧
      (∀ c ∈ s.parked, c ∈ t.parked) ∧
      ∀ row < l.rows, ∀ col < l.cols, ∃ c ∈ t.parked, c.launch = l.id ∧ c.team = tm.index ∧ c.rel = row * l.cols + col ∧
        c.place = some (28 * p.cluster + 7 * p.rows.getD row 0 + (p.cols.getD row []).getD col 0) ∧ c.scratch = [] ∧ c.banks = [] ∧
        (∀ h ∈ c.tiles, h = Reset.tile) ∧
        ∀ x : Fin 4, let k := c.ctxs.get x
          let index := (row * l.cols + col) * l.contexts + x.val
          if x.val < l.contexts then
            k.status = .running ∧ k.index = index ∧ k.shadow = k.live ∧ k.live.pc = 0 ∧ k.live.srseed = l.seed ∧
            k.live.s.getD 0 0 = BitVec.ofNat 64 tm.index ∧ k.live.s.getD 1 0 = BitVec.ofNat 64 index ∧
            k.live.s.getD 2 0 = BitVec.ofNat 64 (8 * row + col) ∧ k.live.p.getD 0 false = true ∧
            (∀ j < 61, j < l.scalars.length → k.live.s.getD (3 + j) 0 = l.scalars.getD j 0) ∧
            (∀ j < 32, j < l.handles.length → k.live.h.getD j 0 = l.handles.getD j 0)
          else k = Reset.ctx

/-- R333 to R335: a stopped team is saved, to the near tier of its die or, past the quota, to the far tier while that has room; it is
out with its cores free, and is restored on another placement, with the same registers, tiles and banks; its swap is counted.

The model's choices: the image goes to the die of the team's cluster and takes `Config.imagePages` pages, an opaque constant, and a
save waits while neither tier has room for it (log entry 120); a cluster's clock goes on by `Config.cycleAt` cycles, a free value,
while no team stands on it (log entry 12). -/
def Obligations.TeamsAreSavedAndRestored : Prop :=
  ∀ (s : State) (l : Launch) (tm : Team), TeamIs s l tm →
    (tm.status = .stopping → teamAll s l.id tm.index standsAtCheckpoint = true → arraysIdle s l.id tm.index = true →
      let die := tm.place.elim 0 fun p => p.cluster / 12
      let pages := Config.imagePages (l.rows * l.cols)
      let near := decide (nearUse s l.partition die + pages ≤ quotaOf s l.partition die)
      (near = true ∨ farRoom s pages = true → ∃ t, exec (.teamSave l.id tm.index) s = .next t ∧ { t with launches := s.launches } = s ∧
        teamBy t l.id tm.index = some { tm with status := .saving, swapStart := s.micros, image := some ⟨die, pages, !near⟩ }) ∧
      (near = false → farRoom s pages = false → exec (.teamSave l.id tm.index) s = .next s)) ∧
    (tm.status = .stopping → (∃ c ∈ allCores s, c.launch = l.id ∧ c.team = tm.index ∧ c.streams ≠ []) →
      exec (.teamSave l.id tm.index) s = .next s) ∧
    (tm.status = .saving → tm.arrivals = [] → ∃ t m, exec (.saveComplete l.id tm.index) s = .next t ∧
      teamBy t l.id tm.index = some
        { tm with status := .out, place := none, waitSince := s.micros, swapTime := s.micros - tm.swapStart } ∧
      TeamCores s t l.id tm.index (fun c => { c with place := none, micro := [] }) ∧ launchBy t l.id = some m ∧
      m.counters.getD 1 0 = l.counters.getD 1 0 + (if 1 < l.counters.length then 1 else 0)) ∧
    (∀ p, tm.status = .out → mayTake s l tm p = true → ∃ t u, exec (.teamRestore l.id tm.index p) s = .next t ∧
      teamBy t l.id tm.index = some u ∧ u.status = .restoring ∧ u.place = some p ∧ u.marker = tm.marker ∧
      u.counters = tm.counters ∧ TeamCores s t l.id tm.index fun c => { c with
        place := some (28 * p.cluster + 7 * p.rows.getD (c.rel / l.cols) 0 + (p.cols.getD (c.rel / l.cols) []).getD (c.rel % l.cols) 0)
        cur := 0, yielded := false, cycle := clockAt s p.cluster }) ∧
    (tm.status = .restoring → tm.arrivals = [] → ∃ t u, exec (.restoreComplete l.id tm.index) s = .next t ∧
      teamBy t l.id tm.index = some u ∧ u.place = tm.place ∧ u.placedAt = s.micros ∧ u.image = none ∧ u.marker = tm.marker ∧
      if onDefect s l.id tm.index then u.status = .stopping else u.status = .placed ∧ t.core = s.core ∧ t.parked = s.parked)

/-- R332, R336, R337, R375: what stops a team. A slice that is over while another team waits, a drain that ran out, and the failure of
a core that can be read request a stop; a drain that ran out kills a launch that is killable, which completes with 0x01 and the count
of the teams that had exited; the swap grace of a context that has not stopped ends in a rollback without a trap record; a core
that holds no team is only marked. The model's readings: a drain that ran out is decided again whether or not a newcomer still waits
(log entry 65), and a rollback leaves a region count of 0 (log entry 116).

R332, R372: a context that does not stop within the swap grace is rolled back, with no trap record; one that is silent for 2^k
cycles traps with class 0x0A at the bundle that it stands before. -/
def Obligations.TeamsAreStoppedAndRolledBack : Prop :=
  (∀ (s : State) (l : Launch) (tm : Team), TeamIs s l tm → tm.status = .placed →
     let stops := fun (i : Instr) => ∃ t u, exec i s = .next t ∧ teamBy t l.id tm.index = some u ∧ u.status = .stopping ∧
       u.place = tm.place ∧ t.objects = s.objects ∧
       TeamCores s t l.id tm.index fun c => { c with ctxs := c.ctxs.map fun x => { x with grace := 0 } }
     let slice := if l.slice < tm.swapTime then 4 * tm.swapTime else l.slice
     (slice ≤ s.micros - tm.placedAt → rivalWaits s l = true → (∀ u ∈ l.teams, sliceOver s l u = true → swapsBefore s l u tm = false) →
       stops (.sliceExpiry l.id tm.index)) ∧
     (s.micros - tm.placedAt < slice → exec (.sliceExpiry l.id tm.index) s = .next s) ∧
     (∀ n, tm.drainUntil = some n → n ≤ s.micros → l.killable = false → stops (.drainTimeout l.id tm.index)) ∧
     (∀ n, tm.drainUntil = some n → s.micros < n → exec (.drainTimeout l.id tm.index) s = .next s) ∧
     (∀ (n : Nat) (x : CmdStream) (e : Entry) (rest : List Entry), tm.drainUntil = some n → n ≤ s.micros → l.killable = true →
       AtHead s x e rest → l.stream = x.number → ((allCores s).map (·.id)).Nodup →
       let exited := (l.teams.filter fun u => u.status == .exited).length
       let mine := fun (c : Cmd) => ∃ d, coreOf s c.core = some d ∧ d.launch = l.id
       let going := fun (c : Cmd) => c.released = true ∧ c.done = false ∧ c.kind ≠ .free
       exited < 2 ^ 32 → ∃ t m, exec (.drainTimeout l.id tm.index) s = .next t ∧ launchBy t l.id = some m ∧ m.ended = true ∧
         (∀ u ∈ m.teams, u.status = .exited) ∧ (∀ c ∈ allCores t, c.launch = l.id → ∀ y : Fin 4, (c.ctxs.get y).ended = true) ∧
         ((∀ c ∈ s.cmds, mine c → ¬going c) → m.ending = none ∧ HeadDone s t x e rest 0x01 0 exited 0) ∧
         ((∃ c ∈ s.cmds, mine c ∧ going c ∧ waitsOnly c.op = false) → m.ending = some ⟨0x01, 0, exited, 0, none⟩ ∧
           t.completions = s.completions ∧ streamBy t x.number = some x)) ∧
     (∀ c k, ((allCores s).find? fun d => d.place == some k) = some c → c.launch = l.id → c.team = tm.index → k < 1344 →
       defective s k = false → parityFailed s k = true → stops (.coreFailure k true)) ∧
     (∀ k r, k < 1344 → defective s k = false → (∀ c ∈ allCores s, c.place ≠ some k) → ∃ t, exec (.coreFailure k r) s = .next t ∧
       { t with defects := s.defects, recorded := s.recorded } = s ∧ ∀ j < 1344, defective t j = (defective s j || decide (j = k)))) ∧
  (∀ (s : State) (c : CoreRec) (x : Fin 4) (l : Launch) (tm : Team), coreOf s c.id = some c → TeamIs s l tm → c.launch = l.id →
     c.team = tm.index → ((allCores s).map (·.id)).Nodup → (c.ctxs.get x).trap = none →
     let k := c.ctxs.get x
     (tm.status = .stopping → standsAtCheckpoint k = false → 16384 ≤ k.grace → ∃ t y, exec (.swapGraceExpiry c.id x.val) s = .next t ∧
       ctxOf t c.id x.val = some y ∧ y.live = k.shadow ∧ y.shadow = k.shadow ∧ y.status = k.status ∧ y.trap = none ∧
       y.waiting = [] ∧ y.withheld = [] ∧ y.region = 0 ∧ t.partitions = s.partitions ∧ t.objects = s.objects) ∧
     (tm.status ≠ .stopping ∨ k.grace < 16384 → exec (.swapGraceExpiry c.id x.val) s = .next s) ∧
     (k.status = .running → c.place.isSome = true → 2 ^ l.watchdog ≤ k.silence → l.watchdog < 2 ^ 24 → ∃ t y r,
       exec (.doldrumsWatchdog c.id x.val) s = .next t ∧ ctxOf t c.id x.val = some y ∧ y.live = k.shadow ∧ y.status = .awaiting ∧
       y.trap = some r ∧ r.cls = 0x0A ∧ r.slot = 0xFF ∧ r.bundle = k.shadow.pc ∧ r.detail = BitVec.ofNat 32 (1 + 256 * l.watchdog) ∧
       ∀ q ∈ s.partitions, q.number = l.partition → { q with traps := q.traps ++ [r] } ∈ t.partitions) ∧
     (k.silence < 2 ^ l.watchdog → exec (.doldrumsWatchdog c.id x.val) s = .next s))

/-- R325, R367: launches end. When every team has exited and no command of the launch is left, its record has status 0x00 and counts the
teams placed; a launch that a trap ends stops its contexts at once, lets its released effects complete, and then completes: the
drafts that no other live launch has joined are discarded, its pins and subscriptions are gone, a held record is at the head of
its queue again, its record has status 0x30 with the trap's class, and an event of type 1 carries the trap record. -/
def Obligations.LaunchesEnd : Prop :=
  ∀ (s : State) (l : Launch) (x : CmdStream) (e : Entry) (rest : List Entry), launchBy s l.id = some l → AtHead s x e rest →
    l.stream = x.number → ((allCores s).map (·.id)).Nodup →
    let placed := (l.teams.filter fun t => t.everPlaced).length
    let mine := fun (c : Cmd) => ∃ d, coreOf s c.core = some d ∧ d.launch = l.id
    let going := fun (c : Cmd) => c.released = true ∧ c.done = false ∧ c.kind ≠ .free
    let record := fun (r : TrapRecord) => (⟨0x30, r.cls.toNat, placed, r.cls.toNat + r.team.toNat % 2 ^ 24 * 2 ^ 8, some r⟩ : Ending)
    let stopped := fun (t : State) (m : Launch) => launchBy t l.id = some m ∧ m.ended = true ∧ (∀ u ∈ m.teams, u.status = .exited) ∧
      ∀ c ∈ allCores t, c.launch = l.id → ∀ y : Fin 4, (c.ctxs.get y).ended = true
    let endedOver := fun (t : State) (r : TrapRecord) => HeadDone s t x e rest 0x30 r.cls.toNat placed (record r).fault ∧
      (rest.takeWhile (·.unperformed) = [] → ∀ p ∈ s.partitions, p.number = l.partition → 0 < p.buffers → ∃ q ∈ t.partitions, q.number = p.number ∧
        q.buffers = p.buffers - 1 ∧ q.posted = p.posted ++ [⟨1, l.tag, trapBytes r⟩]) ∧
      (∀ o d, objAt s o.key = some o → (∀ u ∈ s.objects, u.key = o.key → u = o) → o.draft = some d → l.id ∈ d.joined → d.routed = false → ∃ b, objAt t o.key = some b ∧
        b.draft = if d.joined.any (fun n => n != l.id && (launchBy s n).elim false (·.live)) then o.draft else none) ∧
      (∀ c ∈ allCores t, c.launch = l.id → ∀ y : Fin 4, (c.ctxs.get y).drafts = [] ∧ (c.ctxs.get y).pins = [] ∧
        (c.ctxs.get y).held = none) ∧
      (∀ o ∈ t.objects, ∀ y ∈ o.subs, ∀ c ∈ allCores s, c.launch = l.id → y.core = c.id → 4 ≤ y.ctx) ∧
      ∀ c ∈ allCores s, c.launch = l.id → ∀ (y : Fin 4) (k : ObjKey) (n : Nat) (w : Record), (c.ctxs.get y).held = some (k, n, w) →
        (∀ d ∈ allCores s, d.launch = l.id → ∀ z : Fin 4, d.id = c.id ∧ z = y ∨ (d.ctxs.get z).held = none) →
        ∀ z ∈ s.sets, z.obj = k → n < 8 → ∃ v ∈ t.sets, v.obj = k ∧ v.queues.getD n [] = w :: z.queues.getD n []
    (l.ended = false → l.firstTrap = none → (∀ t ∈ l.teams, t.status = .exited) →
      (∀ c ∈ s.cmds, ∀ d, coreOf s c.core = some d → d.launch ≠ l.id) →
      placed < 2 ^ 32 → ∃ t, exec (.launchCompletion l.id) s = .next t ∧ HeadDone s t x e rest 0x00 0 placed 0 ∧
        launchBy t l.id = none ∧ (∀ c ∈ t.parked, c.launch ≠ l.id) ∧ t.objects = s.objects) ∧
    (∀ r, l.ended = false → l.firstTrap = some r → placed < 2 ^ 32 → (∀ c ∈ s.cmds, mine c → ¬going c) → ∃ t m,
      exec (.launchTermination l.id) s = .next t ∧ stopped t m ∧ m.ending = none ∧ endedOver t r) ∧
    (∀ r, l.ended = false → l.firstTrap = some r → (∃ c ∈ s.cmds, mine c ∧ going c ∧ waitsOnly c.op = false) → ∃ t m,
      exec (.launchTermination l.id) s = .next t ∧ stopped t m ∧ m.ending = some (record r) ∧ t.completions = s.completions ∧
      t.partitions = s.partitions ∧ streamBy t x.number = some x) ∧
    (∀ r, l.ended = true → l.ending = some (record r) → placed < 2 ^ 32 → (∀ c ∈ s.cmds, mine c → ¬going c) → ∃ t m,
      exec (.launchTermination l.id) s = .next t ∧ launchBy t l.id = some m ∧ m.ended = true ∧ m.ending = none ∧ endedOver t r) ∧
    (l.ended = true → l.ending = none → exec (.launchTermination l.id) s = .next s) ∧
    (l.ended = false → l.firstTrap = none → exec (.launchTermination l.id) s = .next s)

/-- R371, R373, R396: storage. A bad location with a good copy (a reachable replica of a version that holds the chunk, a second version
that shares it, the spill image) is rewritten and the contexts that met it go on; one of a tile ends the launch of its context.
A spill switches one shard in one step and a migration the whole object; a shootdown ends with its last acknowledgement.

The model's readings: a migration places every shard of its object at one die, waits for the acknowledgements of its shootdown before
it switches and for room where it goes, and is decided by Rilsia as well as by a call (log entries 59 and 107); a spill is asked of
the clusters that hold translations of the shard or whose commands still read it, and its old storage stands until they all have
answered (log entry 57). -/
def Obligations.StorageIsRepairedAndMoved : Prop :=
  ∀ (s : State) (o : Obj), objAt s o.key = some o →
    (∀ n v chunk, s.bad[n]? = some (.tier o.key v chunk) → (v, chunk) ∉ o.lost →
      (∃ y ∈ o.versions, originOf o y chunk = v ∧ (y.num ∈ o.imaged ∨ ∃ p, (y.num, p) ∈ o.replicas ∧ (1024 ≤ p ∨ unreachable s p = false))) ∨
        2 ≤ (o.versions.filter fun y => originOf o y chunk == v).length → ∃ t,
      exec (.uncorrectableDataRepair n) s = .next t ∧ t.bad = s.bad.filter (fun b => b != .tier o.key v chunk) ∧ t.objects = s.objects ∧
      ∀ core x d r, ((allCores s).map (·.id)).Nodup → Awaits s core x d r → r.cls = 0x09 → trapOn o.key r = true →
        Resumed t core x d) ∧
    (∀ n c k x r l, s.bad[n]? = some (.tile c.id k) → coreOf s c.id = some c → launchBy s c.launch = some l → l.firstTrap = none →
      Awaits s c.id x (c.ctxs.get x) r → r.cls = 0x09 → r.detail.toNat % 256 = 3 →
      (∀ d ∈ allCores s, d.launch = c.launch → d.id ≠ c.id → ∀ y : Fin 4, (d.ctxs.get y).trap = none) →
      (∀ y : Fin 4, y ≠ x → (c.ctxs.get y).trap = none) → ((allCores s).map (·.id)).Nodup →
      ∃ t m, exec (.uncorrectableDataRepair n) s = .next t ∧ BadLoc.tile c.id k ∉ t.bad ∧ launchBy t c.launch = some m ∧
        m.firstTrap = some r) ∧
    (∀ n, spillable s o = true → nextSpill o = some n →
      (n ∈ o.spilling ∨ farRoom s (spillPages s o n) = true → ∃ t b, exec (.spillSwitch o.key) s = .next t ∧ objAt t o.key = some b ∧
        b.loc.spilled = o.loc.spilled ++ [n] ∧ b.spilling = o.spilling.filter (fun m => m != n) ∧ b.versions = o.versions ∧
        b.current = o.current ∧ (∀ y, (y ∈ s.xlats ∧ y.obj = o.key ∧ y.shard = n ∧ y.base < 2 ^ 48) → ∃ z ∈ t.shoots, z.obj = o.key ∧
          z.shard = some n ∧ z.tag = none ∧ z.old = freedStorage s t o.key ∧ y.cluster ∈ z.clusters) ∧
        ∀ c ∈ allCores s, ∀ y ∈ c.micro, ∀ k, y.obj = o.key → y.shard = n → y.base < 2 ^ 48 → c.place.map (· / 28) = some k →
          ∃ z ∈ t.shoots, z.obj = o.key ∧ z.shard = some n ∧ k ∈ z.clusters) ∧
      (n ∉ o.spilling → farRoom s (spillPages s o n) = false → exec (.spillSwitch o.key) s = .next s)) ∧
    (∀ n rest, o.spilling = n :: rest → nextSpill o = some n) ∧
    (o.draft ≠ none → exec (.spillSwitch o.key) s = .next s) ∧
    (o.loc.moving = true →
      ((∀ x ∈ s.shoots, x.obj ≠ o.key) → arriveAt s o o.loc.toPackage o.loc.toDie ≠ none → o.shardMap.length = shardCount o - 1 →
        ∃ t b, exec (.migrationSwitch o.key) s = .next t ∧ objAt t o.key = some b ∧ b.loc.moving = false ∧
          b.loc.package = o.loc.toPackage ∧ b.loc.die = o.loc.toDie ∧ (∀ p ∈ b.shardMap, p = (o.loc.toPackage, o.loc.toDie)) ∧
          b.versions = o.versions ∧ b.draft = o.draft) ∧
      ((∃ x ∈ s.shoots, x.obj = o.key) ∨ arriveAt s o o.loc.toPackage o.loc.toDie = none →
        exec (.migrationSwitch o.key) s = .next s)) ∧
    (o.loc.moving = false → o.hint = none → exec (.migrationSwitch o.key) s = .next s) ∧
    (∀ z k, (s.shoots.find? fun y => y.id == z.id) = some z → z.clusters = [k] → (∀ c ∈ s.cmds, c.id ∉ z.cmds) →
      let hit := shotDown z
      ∃ t, exec (.shootdownAcknowledge z.id k) s = .next t ∧ t.shoots = s.shoots.filter (fun y => y.id != z.id) ∧
        t.xlats = s.xlats.filter (fun y => !(y.cluster == k && hit y)) ∧
        allCores t = (allCores s).map (fun c => if c.place.map (· / 28) = some k then
          { c with micro := c.micro.filter fun y => !hit y } else c) ∧
        { t with shoots := s.shoots, xlats := s.xlats, core := s.core, parked := s.parked } = s)

/-- R321, R322, R326 to R329: the entries of a stream. A version wait completes with the current version once it has reached the one
awaited, and with 0x31 when the object is gone; a conditional node compares an element as a signed or a floating number and,
when it does not hold, skips the entries that follow, and one whose element is absent waits on the version that it selected;
an object operation becomes a call of its service. A wrong length or field, a bad handle and an element that is not there
complete the entry with its error. -/
def Obligations.StreamEntriesAreCarriedOut : Prop :=
  ∀ (s : State) (x : CmdStream) (e : Entry) (rest : List Entry) (o : Obj), AtHead s x e rest →
    let f := entryField e
    let h := BitVec.ofNat 64 (f 8 8)
    let type := fun (n : Nat) => f 0 2 = n
    let whole := fun (n : Nat) => e.bytes.length = n ∧ f 2 2 = n
    let ends := fun (i : Instr) (status detail count : Nat) => ∃ t, exec i s = .next t ∧ HeadDone s t x e rest status detail count 0
    let wait := Instr.versionWait x.number
    let again := Instr.versionWaitSatisfied x.number
    let node := Instr.conditionalNode x.number
    let call := Instr.objectOperation x.number
    (e.active = false → type 3 → ¬whole 0x18 → ends wait 0x26 2 0) ∧
    (e.active = false → type 3 → whole 0x18 → f 0x14 4 ≠ 0 → ends wait 0x26 0x14 0) ∧
    (∀ c, e.active = false → type 3 → whole 0x18 → f 0x14 4 = 0 → resolveFor s x.partition h 1 anyKind = .error c →
      ends wait 0x25 8 0) ∧
    (e.active = false → type 3 → whole 0x18 → f 0x14 4 = 0 → resolveFor s x.partition h 1 anyKind = .ok o → o.current < 2 ^ 32 →
      (f 0x10 4 ≤ o.current → ends wait 0x00 0 o.current) ∧
      (o.current < f 0x10 4 → ∃ t, exec wait s = .next t ∧ HeadActive s t x e rest)) ∧
    (e.active = true → type 3 →
      (resolveHandle s h = .ok o → f 0x10 4 ≤ o.current → o.current < 2 ^ 32 → ends again 0x00 0 o.current) ∧
      (resolveHandle s h = .ok o → o.current < f 0x10 4 → exec again s = .next s) ∧
      (objAt s (handleKey h) = none → ends again 0x31 0 0)) ∧
    (let y := f 0x28 1
     let c := f 0x29 1
     let code := [12, 13, 14, 15, 1, 0].getD y 0
     let w := [32, 64, 32, 64, 32, 64].getD y 0
     let legal := whole 0x38 ∧ y ≤ 5 ∧ (c ≤ 5 ∨ c = 6 ∧ 4 ≤ y) ∧ f 0x2C 4 = 0
     let skips := fun (t : State) (n : Nat) => t.completions = s.completions ++ entryRecordOf x e 0x00 0 0 0 ::
         (rest.take n).map (fun f => entryRecordOf x f 0x02 0 0 0) ∧
       streamBy t x.number = some { x with entries := rest.drop n, skip := n - rest.length }
     let holds := fun (v : Nat) =>
       let bytes := if o.kind = .host then hostWindow s o else storeBytes o ((versionStore o v).getD ⟨[], []⟩)
       let a := elemCode o bytes (natPoint (nodeTuple e))
       let b := f 0x30 8 % 2 ^ w
       if y < 4 then nodeCompares c (signedOf w a) (signedOf w b) else cmpFloat c (elemVal code a) (elemVal code b) = true
     (e.active = false → type 4 → ¬whole 0x38 → ends node 0x26 2 0) ∧
     (e.active = false → type 4 → whole 0x38 → 5 < y → ends node 0x26 0x28 0) ∧
     (e.active = false → type 4 → whole 0x38 → y ≤ 5 → 6 < c ∨ c = 6 ∧ y < 4 → ends node 0x26 0x29 0) ∧
     (e.active = false → type 4 → whole 0x38 → y ≤ 5 → c ≤ 5 → f 0x2C 4 ≠ 0 → ends node 0x26 0x2C 0) ∧
     (∀ z, e.active = false → type 4 → legal → resolveFor s x.partition h 1 dataKind = .error z → ends node 0x25 8 0) ∧
     (e.active = false → type 4 → legal → resolveFor s x.partition h 1 dataKind = .ok o →
       (o.fmt.toNat ≠ code → ends node 0x32 0x20 0) ∧
       (o.fmt.toNat = code → (outsideFrom o 0 (nodeTuple e)).isSome = true → ends node 0x32 0x21 0) ∧
       (o.fmt.toNat = code → outsideFrom o 0 (nodeTuple e) = none →
         (nodeWaits s e o o.current = false → holds o.current → ends node 0x00 0 1) ∧
         (nodeWaits s e o o.current = false → ¬holds o.current → (∀ g ∈ rest, g.unperformed = false) →
           ∃ t, exec node s = .next t ∧ skips t (f 0x2A 2)) ∧
         (nodeWaits s e o o.current = true → objAt s o.key = some o → ∃ t b, exec node s = .next t ∧
           t.completions = s.completions ∧ objAt t o.key = some b ∧ b.retains = o.retains ++ [o.current] ∧
           streamBy t x.number = some { x with entries := { e with active := true, selected := o.current } :: rest }))) ∧
     (e.active = true → type 4 → legal → o.key = handleKey h → objAt s o.key = some o →
       (nodeWaits s e o e.selected = true → exec node s = .next s) ∧
       (nodeWaits s e o e.selected = false → ∃ t b, exec node s = .next t ∧ objAt t o.key = some b ∧
         b.retains = o.retains.erase e.selected ∧
         (holds e.selected → HeadDone s t x e rest 0x00 0 1 0) ∧ (¬holds e.selected → (∀ g ∈ rest, g.unperformed = false) → skips t (f 0x2A 2))))) ∧
    (e.active = false → type 2 → ¬whole 0x40 → ends call 0x26 2 0) ∧
    (e.active = false → type 2 → whole 0x40 → f 0x0A 6 ≠ 0 → ends call 0x26 0x0A 0) ∧
    (e.active = false → type 2 → whole 0x40 → f 0x0A 6 = 0 →
      (f 8 2 ∈ serviceNumbers → ∃ t c, exec call s = .next t ∧ HeadActive s t x e rest ∧
        t.calls = s.calls ++ [c] ∧ c.service = f 8 2 ∧ c.partition = x.partition ∧ c.caller = .stream x.number ∧
        c.callId = none ∧ c.args = (List.range 6).map fun i => BitVec.ofNat 64 (f (0x10 + 8 * i) 8)) ∧
      (f 8 2 ∉ serviceNumbers → ends call 0x32 0x24 0))

/-- R83, R323 to R325: a launch entry. A record and an image that pass their checks make a launch with the shape, the parameters and the
teams that they give, accepted while its completion is awaited; a bad field of the record completes the entry with 0x26, an
object that is no image with 0x25, an image that fails a check with its error.

R266 to R268, R284: the forecast table that the record names, or one made of the image's forecast section, is bound: every team's
entries are armed, and those whose threshold is 0 are triggered, of each team, at once; a row that is no entry completes the launch
with 0x24 and its number.

R337: a launch that finds no free placement displaces the team of the lowest class below its own, of those the one placed longest ago:
it drains when it says that it needs less than its threshold, and else stops, or its launch ends where it is killable.

The model's choices: an image too short for a header is refused at offset 0 (log entry 128), the rows of a forecast section that name no
handle parameter (log entry 111), and entries that stay disarmed once their binding has triggered them (log entry 124). -/
def Obligations.LaunchEntriesAreAccepted : Prop :=
  ∀ (s : State) (x : CmdStream) (e : Entry) (rest : List Entry), AtHead s x e rest → e.active = false → entryField e 0 2 = 1 →
    let done := fun (status detail : Nat) => ∃ t, exec (.launch x.number) s = .next t ∧
      HeadDone s t x e rest status (Nat.min detail 0xFFFFFF) 0 0
    let f := entryField e
    let new := fun (image : List Byte) => launchOfRecord s x e image
    let quiet := fun (image : List Byte) => placementFree s (new image) = true ∨ victims s (new image) = []
    let binds := fun (t : State) (handle : BitVec 64) (rows : List (List Byte)) => HeadActive s t x e rest ∧ ∃ l,
      launchBy t s.nextId = some l ∧ l.binding = some ⟨handle, rows.map parseEntry⟩ ∧ l.teams.length = f 0x10 4 ∧
      (∀ u ∈ l.teams, u.status = .unstarted ∧
        u.armed = (rows.map parseEntry).map fun y => selects y u.index && decide (0 < threshold y)) ∧
      ∀ team < f 0x10 4, ∀ i < rows.length, let y := parseEntry (rows.getD i [])
        selects y team = true → threshold y = 0 → ∃ a ∈ t.actions, a.launch = s.nextId ∧ a.team = team ∧ a.entry = i ∧ a.op = y
    (∀ n, badRecordField e = some n → done 0x26 n) ∧
    (badRecordField e = none → 32 < f 0x39 1 ∨ 61 < f 0x3A 1 → done 0x21 0) ∧
    (badRecordField e = none → f 0x39 1 ≤ 32 → f 0x3A 1 ≤ 61 →
      (∀ z, resolveFor s x.partition (BitVec.ofNat 64 (f 8 8)) 1 (kindIs .byte) = .error z → done 0x25 8) ∧
      ∀ o, resolveFor s x.partition (BitVec.ofNat 64 (f 8 8)) 1 (kindIs .byte) = .ok o →
        (contentWaits s o = true → exec (.launch x.number) s = .next s) ∧ (contentWaits s o = false →
        let image := contentOf o (extentAt o 0)
        let g := recordField image
        (∀ z, imageError image = some z → done z.1 z.2) ∧
        (imageError image = none → ∀ v, badMath e image = some v → done 0x22 v) ∧
        (imageError image = none → badMath e image = none → fitsPartition s x.partition (g 8 1) (g 9 1) = false → done 0x23 0) ∧
        (imageError image = none → badMath e image = none → fitsPartition s x.partition (g 8 1) (g 9 1) = true → f 0x28 8 ≠ 0 →
          let h := BitVec.ofNat 64 (f 0x28 8)
          (∀ z, resolveFor s x.partition h 1 (kindIs .forecast) = .error z → done 0x25 0x28) ∧
          ∀ b, resolveFor s x.partition h 1 (kindIs .forecast) = .ok b →
            let rows := tableRows b b.current
            (contentWaits s b = true → exec (.launch x.number) s = .next s) ∧
            (∀ i, contentWaits s b = false → firstBadRow rows = some i → done 0x24 i) ∧
            (contentWaits s b = false → firstBadRow rows = none → quiet image → (∀ l ∈ s.launches, l.id ≠ s.nextId) →
              ∃ t, exec (.launch x.number) s = .next t ∧ binds t h rows)) ∧
        (imageError image = none → badMath e image = none → fitsPartition s x.partition (g 8 1) (g 9 1) = true → f 0x28 8 = 0 →
          (sectionOf image 5).2 ≠ 0 →
          let made := createTable { s with nextId := s.nextId + 1, launches := s.launches ++ [new image] } x.partition 0
            (imageForecast image (recordHandles e))
          (4096 < (sectionOf image 5).2 → done 0x24 4096) ∧
          (∀ z, made = .error z → z ≠ 1 → done 0x25 0x28) ∧
          ∀ b u, made = .ok (b, u) →
            (∀ i, firstBadRow (tableRows b b.current) = some i → done 0x24 i) ∧
            (firstBadRow (tableRows b b.current) = none → quiet image → (∀ l ∈ s.launches, l.id ≠ s.nextId) →
              ∃ t, exec (.launch x.number) s = .next t ∧ binds t (objHandle b) (tableRows b b.current) ∧ t.objects = u.objects)) ∧
        (imageError image = none → badMath e image = none → fitsPartition s x.partition (g 8 1) (g 9 1) = true → f 0x28 8 = 0 →
          (sectionOf image 5).2 = 0 → placementFree s (new image) = false → ∀ (m : Launch) (u : Team), (m, u) ∈ victims s (new image) →
          TeamIs s m u → (∀ y ∈ victims s (new image), y ≠ (m, u) →
            m.cls < y.1.cls ∨ m.cls = y.1.cls ∧ u.placedAt < y.2.placedAt) →
          let soon := ∃ n, remaining s u = some n ∧ n < m.drain
          (soon → ∃ t, exec (.launch x.number) s = .next t ∧ HeadActive s t x e rest ∧
            teamBy t m.id u.index = some { u with drainUntil := some (s.micros + 2 * m.drain) }) ∧
          (¬soon → m.killable = false → ∃ t, exec (.launch x.number) s = .next t ∧ HeadActive s t x e rest ∧
            teamBy t m.id u.index = some { u with status := .stopping, drainUntil := none }) ∧
          (¬soon → m.killable = true → ∃ t d, exec (.launch x.number) s = .next t ∧ launchBy t m.id = some d ∧ d.ended = true ∧
            ∀ v ∈ d.teams, v.status = .exited)) ∧
        (imageError image = none → badMath e image = none → fitsPartition s x.partition (g 8 1) (g 9 1) = true → f 0x28 8 = 0 →
          (sectionOf image 5).2 = 0 → quiet image → ∃ t l, exec (.launch x.number) s = .next t ∧
          HeadActive s t x e rest ∧ t.launches = s.launches ++ [l] ∧ l.stream = x.number ∧ l.partition = x.partition ∧
          l.rows = g 8 1 ∧ l.cols = g 9 1 ∧ l.contexts = g 10 1 ∧ l.grid = f 0x10 4 ∧ l.teams.length = f 0x10 4 ∧
          (∀ u ∈ l.teams, u.status = .unstarted) ∧ l.tokens = f 0x18 4 ∧ l.cls = f 0x16 2 / 256 % 8 ∧ l.bundles = (sectionOf image 0).2 ∧
          (∀ k < 32 * (sectionOf image 0).2, readByte l.code k = image.getD ((sectionOf image 0).1 + k) 0) ∧
          l.handles.length = f 0x39 1 ∧ l.scalars.length = f 0x3A 1 ∧
          (∀ i < f 0x3A 1, l.scalars.getD i 0 = BitVec.ofNat 64 (f (0x40 + 8 * f 0x39 1 + 8 * i) 8)) ∧ l.ended = false)))

/-- R341 to R348: the queues of a partition's device. A malformed chain is returned unperformed, in its turn, with an event of type 2; a
submit request appends its entry; a control request makes or ends a host buffer, reads a published version, or calls a service; the
features are accepted as the part offers them; buffers take the events that were held.

The model's readings: where the payload of an event of type 2 or 4 holds the queue and the count (log entry 84); 0x26 at offset 0x10
for a host buffer of length 0 (log entry 85); a control request waits while an earlier one of its queue has not completed, a read
that waits keeps its place, and a turn that brings a later request changes nothing (log entry 86). -/
def Obligations.QueuesServeTheirRequests : Prop :=
  ∀ (s : State) (p : Partition) (c : Chain), partitionBy s p.number = some p → s.device = 1 → p.active = true →
    p.reassigning = false → p.number < 64 →
    let f := recordField c.bytes
    let whole := 24 ≤ c.writable ∧ c.bytes.length ≤ 1024
    let sound := fun (op n : Nat) => whole ∧ controlBusy s p c = false ∧ f 0 2 = op ∧ c.bytes.length = n ∧ f 2 2 = 0
    let answers := fun (t : State) (status detail count : Nat) (data : List Byte) => t.completions =
      s.completions ++ [⟨p.number, some 1, none, BitVec.ofNat 32 (f 4 4), status, detail, count, 0, data, false⟩]
    let control := fun (i : Instr) => i ∈ [.createHostBuffer p.number c, .releaseHostBuffer p.number c, .readObject p.number c,
      .service p.number c]
    (∀ w : BitVec 64, ∃ t, exec (.featuresOk p.number w) s = .next t ∧ partitionBy t p.number = some
      (if w.getLsbD 32 ∧ w.getLsbD 33 ∧ w &&& ~~~0x0000000730000001#64 = 0 then { p with featuresOk := true, features := w }
       else { p with featuresOk := false })) ∧
    (p.featuresOk = true →
    let reports := fun (t : State) (q : Nat) => t.completions = s.completions ++ [unperformedRecord p.number (some q)] ∧
      (0 < p.buffers → partitionBy t p.number = some
        { p with buffers := p.buffers - 1, posted := p.posted ++ [⟨2, 0, payload24 (bytesOfNat 2 q)⟩] }) ∧
      (p.buffers = 0 → p.pendingEvents.length < 256 → partitionBy t p.number = some
        { p with pendingEvents := p.pendingEvents ++ [⟨2, 0, payload24 (bytesOfNat 2 q)⟩] }) ∧
      (p.buffers = 0 → 256 ≤ p.pendingEvents.length → partitionBy t p.number = some { p with lostEvents := p.lostEvents + 1 })
    (∀ q n x, p.streams[q]? = some n → streamBy s n = some x → x.skip = 0 → (∀ e, x.entries.head? = some e → e.unperformed = false) →
      (queueFull x (q + 3) = true → exec (.submitRequest p.number (q + 3) c) s = .next s) ∧
      (queueFull x (q + 3) = false → whole ∨ x.entries ≠ [] → ∃ t, exec (.submitRequest p.number (q + 3) c) s = .next t ∧
        t.completions = s.completions ∧
        streamBy t n = some { x with entries := x.entries ++ [⟨c.bytes, some (q + 3), false, 0, !decide whole⟩] }) ∧
      (queueFull x (q + 3) = false → ¬whole → x.entries = [] → x.partition = p.number → ∃ t,
        exec (.submitRequest p.number (q + 3) c) s = .next t ∧ streamBy t n = some x ∧ reports t (q + 3))) ∧
    (∀ i, control i → controlBusy s p c = true → exec i s = .next s) ∧
    (∀ i, control i → ¬whole → controlBusy s p c = false → ∃ t, exec i s = .next t ∧ reports t 1 ∧
      { t with partitions := s.partitions, completions := s.completions } = s) ∧
    (∀ i, control i → whole → controlBusy s p c = false → f 0 2 = 0 ∨ 4 < f 0 2 → ∃ t, exec i s = .next t ∧
      answers t 0x26 0 0 [] ∧ t.objects = s.objects ∧ t.calls = s.calls) ∧
    (sound 1 0x20 → f 0x19 7 = 0 → 1 ≤ f 0x10 8 → f 0x10 8 < 2 ^ 32 → f 0x18 1 ≤ 3 → 32 ≤ c.writable → pickNumber s ≠ none → ∃ t o,
      exec (.createHostBuffer p.number c) s = .next t ∧ objAt t o.key = some o ∧ o.kind = .host ∧ o.partition = p.number ∧
      o.iova = f 8 8 ∧ o.extent = [f 0x10 8] ∧ o.key.home = s.package ∧ (∀ r, hasRight o p.number r =
        (if r ≤ 1 then f 0x18 1 % 2 == 1 else r == 2 && f 0x18 1 / 2 == 1)) ∧
      (objAt s o.key = none) ∧ answers t 0 0 (o.geometry.toNat % 2 ^ 32) (bytesOfNat 8 (objHandle o).toNat)) ∧
    (sound 1 0x20 → f 0x19 7 = 0 → f 0x10 8 = 0 → ∃ t, exec (.createHostBuffer p.number c) s = .next t ∧ answers t 0x26 0x10 0 [] ∧
      t.objects = s.objects) ∧
    (∀ o, sound 2 0x10 → resolveHandle s (BitVec.ofNat 64 (f 8 8)) = .ok o →
      (o.kind = .host → o.partition = p.number → ∃ t b, exec (.releaseHostBuffer p.number c) s = .next t ∧
        objAt t o.key = some b ∧ b = { o with ending := o.ending ++ [BitVec.ofNat 32 (f 4 4)] } ∧ t.completions = s.completions) ∧
      (o.kind ≠ .host → ∃ t, exec (.releaseHostBuffer p.number c) s = .next t ∧ answers t 0x25 8 0 [] ∧ t.objects = s.objects)) ∧
    (∀ o tag, objAt s o.key = some o → o.ending = [tag] → (∀ d ∈ s.cmds, cmdNames o.key d = false) →
      (∀ y ∈ s.streams, ∀ e, y.entries.head? = some e → e.active = false) → ∃ t,
      exec (.hostBufferEnd o.key) s = .next t ∧ objAt t o.key = none ∧
      t.completions = s.completions ++ [⟨o.partition, some 1, none, tag, 0, 0, 0, 0, [], false⟩]) ∧
    (∀ z, sound 3 0x28 → f 0x14 4 = 0 → resolveFor s p.number (BitVec.ofNat 64 (f 8 8)) 1 anyKind = .error z → ∃ t,
      exec (.readObject p.number c) s = .next t ∧ answers t 0x25 8 0 [] ∧ t.objects = s.objects) ∧
    (∀ o, sound 3 0x28 → f 0x14 4 = 0 → resolveFor s p.number (BitVec.ofNat 64 (f 8 8)) 1 anyKind = .ok o →
      let v := if f 0x10 4 = 0 then o.current else f 0x10 4
      (∀ n < shardCount o, absentCause s o n (some v) none = 0) →
      (readBad s c o v = true → ∃ t, exec (.readObject p.number c) s = .next t ∧ { t with partitions := s.partitions } = s ∧
        partitionBy t p.number = some { p with reading := some c }) ∧
      (readBad s c o v = false → versionStore o v = none → ∃ t, exec (.readObject p.number c) s = .next t ∧ answers t 0x32 0x21 0 [])) ∧
    (∀ o st, sound 3 0x28 → f 0x14 4 = 0 → resolveFor s p.number (BitVec.ofNat 64 (f 8 8)) 1 anyKind = .ok o →
      let v := if f 0x10 4 = 0 then o.current else f 0x10 4
      absentCause s o 0 (some v) none = 0 → readBad s c o v = false →
      o.kind ≠ .host → shardCount o = 1 → o.compressed = false → versionStore o v = some st →
      Memory.wf st.bytes = true → f 0x20 8 ≤ c.writable - 24 → f 0x18 8 + f 0x20 8 ≤ shardBytes o 0 → f 0x20 8 < 2 ^ 32 → ∃ t,
      exec (.readObject p.number c) s = .next t ∧ t.objects = s.objects ∧
      partitionBy t p.number = some { p with reading := none } ∧
      answers t 0 0 (f 0x20 8) ((List.range (f 0x20 8)).map fun k => readByte st.bytes (f 0x18 8 + k))) ∧
    (sound 4 0x40 → f 0x0A 6 = 0 → f 8 2 ∈ serviceNumbers → ∃ t d, exec (.service p.number c) s = .next t ∧ t.calls = s.calls ++ [d] ∧
      d.service = f 8 2 ∧ d.partition = p.number ∧ d.caller = .control (BitVec.ofNat 32 (f 4 4)) ∧ d.callId = none ∧
      d.args = (List.range 6).map fun i => BitVec.ofNat 64 (f (0x10 + 8 * i) 8)) ∧
    (∀ n, let held := Nat.min (p.buffers + n) (Config.queueEntries p.number 2)
      p.pendingEvents.length ≤ held → ∃ t, exec (.eventQueueBuffers p.number n) s = .next t ∧
      { t with partitions := s.partitions } = s ∧
      let left := held - p.pendingEvents.length
      (p.lostEvents = 0 ∨ left = 0 → partitionBy t p.number = some
        { p with buffers := left, posted := p.posted ++ p.pendingEvents, pendingEvents := [] }) ∧
      (0 < p.lostEvents → 0 < left → partitionBy t p.number = some
        { p with buffers := left - 1, pendingEvents := [], lostEvents := 0
                 posted := p.posted ++ p.pendingEvents ++ [⟨4, 0, payload24 (bytesOfNat 4 p.lostEvents)⟩] })))

/-- R233, R377, R382, R383, R401: how a call is answered, of whatever service. One whose id stands in the journal is answered from it with
status 0x02, and so is one whose service restarts; one that finds the journal full waits, and so does one whose object is absent;
an argument that the table does not name gets error 0x01 when it is not zero, and a handle that fails its checks 0x23 and the number
of the argument; a reply goes to its caller once, and under the call's id into the journal. -/
def Obligations.CallsAreAnsweredOnce : Prop :=
  ∀ (s : State) (c : Call) (d : Cmd), (s.calls.find? fun e => e.id == c.id) = some c → c.caller = .command d.id →
    cmdBy s d.id = some d → d.result = none →
    (∀ x, journalled s c = some x → ∃ t, exec (.serviceRestart c.id) s = .next t ∧
      cmdBy t d.id = some { d with result := some { x with status := 0x02 } } ∧ { t with cmds := s.cmds } = s) ∧
    (journalled s c = none → exec (.serviceRestart c.id) s = .next s) ∧
    let answered := fun (t : State) (r : Result) => cmdBy t d.id = some { d with result := some r } ∧
      ∀ id p, c.callId = some id → partitionBy s c.partition = some p →
        partitionBy t c.partition = some { p with journal := p.journal ++ [⟨id, r⟩] }
    let names := fun (a : Nat × Nat × (Obj → Bool)) => resolveFor s c.partition (c.args.getD a.1 0) a.2.1 a.2.2
    (∀ n i, Performs n c.id i → c.service = n →
      (callBehind s c = true → exec i s = .next s) ∧
      (callBehind s c = false →
        (∀ x, journalled s c = some x → ∃ t r, exec i s = .next t ∧ cmdBy t d.id = some { d with result := some r } ∧
          r.status = 0x02 ∧ r.detail = x.detail ∧ r.count = x.count ∧ r.follow = x.follow ∧ { t with cmds := s.cmds } = s) ∧
        (journalled s c = none → journalFull s c = true → exec i s = .next s) ∧
        (journalled s c = none → journalFull s c = false → ¬ZeroAfter c (serviceArity n) → ∃ t r, exec i s = .next t ∧
          answered t r ∧ r.status = 0x25 ∧ r.detail = 1 ∧ r.count = 0 ∧ r.follow = [] ∧
          { t with cmds := s.cmds, partitions := s.partitions } = s) ∧
        (journalled s c = none → journalFull s c = false → ZeroAfter c (serviceArity n) →
          (∀ a z, a ∈ serviceHandles n → (∀ b ∈ serviceHandles n, b.1 < a.1 → ∃ o, names b = .ok o) → names a = .error z →
            ∃ t r, exec i s = .next t ∧ answered t r ∧ r.status = 0x23 ∧ r.detail = a.1 + 1 ∧ r.count = 0 ∧ r.follow = [] ∧
              { t with cmds := s.cmds, partitions := s.partitions } = s) ∧
          (n ≠ 68 → (∀ a ∈ serviceHandles n, ∃ o, names a = .ok o) → (∃ a ∈ serviceHandles n, ∃ o, names a = .ok o ∧ absentObj s o = true) →
            exec i s = .next s)))) ∧
    (∀ (r : Reply) (u : State), cmdBy u d.id = some d → (∀ p, partitionBy s c.partition = some p → partitionBy u c.partition = some p) →
      answered (commit c r u) ⟨r.status, r.detail, r.count, r.values, none, none, 0⟩) ∧
    (∀ (r : Reply) (u : State) (tag : BitVec 32), commit { c with caller := .control tag, callId := none } r u =
      { u with calls := u.calls.filter fun e => e.id != c.id
               completions := u.completions ++ [if r.status ≤ 2 then ⟨c.partition, some 1, none, tag, 0x00, 0, r.count, 0, [], false⟩
                 else ⟨c.partition, some 1, none, tag, 0x32, r.status, r.count, 0, [], false⟩] }) ∧
    (c.service = 32 → callBehind s c = false →
      (journalled s c = none → journalFull s c = false → ZeroAfter c 3 →
        (∀ o, Names s c 0 1 anyKind o → c.args.getD 1 0 = 0 → c.args.getD 2 0 = 0 → (∃ w ∈ o.versions, w.num = o.current) →
          ∃ t r, exec (.retain c.id) s = .next t ∧ cmdBy t d.id = some { d with result := some r } ∧ r.status = 0 ∧ r.detail = 0 ∧
            r.follow = [BitVec.ofNat 64 o.current, 0] ∧
            objAt t o.key = some { o with retains := o.retains ++ [o.current] } ∧
            ∀ id p, c.callId = some id → partitionBy s c.partition = some p →
              partitionBy t c.partition = some { p with journal := p.journal ++ [⟨id, r⟩] })))

/-- R295, R377, R378, R402: services that make and end objects. `create-object` takes a descriptor that is in order, or answers error 0x01;
an object that is held is not destroyed; a stage set and a forecast table hold the bytes that they are made from.

The model's readings: storage that does not fit, a new stage set's and a new table's among it, is refused with error 0x02 (log entries
81 and 106), and a descriptor of the kinds host and stage with error 0x01 (log entry 108). -/
def Obligations.ServicesMakeAndEndObjects : Prop :=
  ∀ (s : State) (c : Call) (o : Obj),
    (Called s c 0 → ZeroAfter c 1 → exec (.null c.id) s = .next (commit c (serviceOk (c.args.getD 0 0) 0) s)) ∧
    (Called s c 16 → ZeroAfter c 1 → Names s c 0 1 (kindIs .byte) o → 128 ≤ extentAt o 0 →
      let d := parseDescriptor (contentOf o 128)
      let sound := classOk d c.partition && kindOk d && wordsOk d
      (sound = false → exec (.createObject c.id) s = .next (commit c (serviceError 0x01) s)) ∧
      let fits := ∀ n, storageFits (objOfDescriptor s ⟨s.package, n⟩ c.partition d) = true
      (sound = true → pickNumber s = none → exec (.createObject c.id) s = .next (commit c (serviceError 0x06) s)) ∧
      (sound = true → pickNumber s ≠ none → (∀ n, storageFits (objOfDescriptor s ⟨s.package, n⟩ c.partition d) = false) →
        exec (.createObject c.id) s = .next (commit c (serviceError 0x02) s)) ∧
      (sound = true → pickNumber s ≠ none → fits → dKind d = .expert → 
        let die := fieldOf d.placement 56 2
        (s.pools.getD die 0 = 0 → exec (.createObject c.id) s = .next (commit c (serviceError 0x02) s)) ∧
        (0 < s.pools.getD die 0 → ∃ t n, exec (.createObject c.id) s = .next (commit c (serviceOk (objHandle n) 1) t) ∧
          objAt s n.key = none ∧ n.kind = .expert ∧ t.pools = s.pools.modify die (· - 1) ∧
          ∃ b, objAt t n.key = some b ∧ b.draft.isSome = true ∧ b.bufRows = 0 ∧ b.bufPages = 1 ∧ b.current = 1)) ∧
      (sound = true → pickNumber s ≠ none → fits → dKind d ≠ .expert → ∃ t n,
        exec (.createObject c.id) s = .next (commit c (serviceOk (objHandle n) 1) t) ∧ NewObject s t n ∧ n.kind = dKind d ∧
        n.fmt.toNat = dFmt d ∧ n.extent = d.extent ∧ n.dims = dDims d ∧ n.partition = c.partition ∧ n.loc.materialised = false ∧
        n.rights = BitVec.ofNat 128 d.rights ∧ n.versions = [⟨1, ⟨[], []⟩, 0, []⟩])) ∧
    (Called s c 16 → ZeroAfter c 1 → Names s c 0 1 (kindIs .byte) o → extentAt o 0 < 128 →
      exec (.createObject c.id) s = .next (commit c (serviceError 0x01) s)) ∧
    (Called s c 17 → ZeroAfter c 1 → Names s c 0 2 anyKind o →
      (heldObj s o = true → exec (.destroyObject c.id) s = .next (commit c (serviceError 0x05) s)) ∧
      (heldObj s o = false → ∃ t, exec (.destroyObject c.id) s = .next (commit c (serviceOk 0 0) t) ∧ objAt t o.key = none ∧
        ∃ g ∈ t.objects, g.key = o.key ∧ g.generation = if o.generation = 4095 then 1 else o.generation + 1)) ∧
    (∀ q z, Called s c 18 → ZeroAfter c 1 → Names s c 0 1 (kindIs .byte) o → 32 ≤ extentAt o 0 →
      declarationOk (contentOf o 32) = true → pickNumber s ≠ none →
      resolveFor s c.partition (BitVec.ofNat 64 (recordField (contentOf o 32) 0 8)) 2 (kindIs .queue) = .ok q →
      resolveFor s c.partition (BitVec.ofNat 64 (recordField (contentOf o 32) 8 8)) 2 (kindIs .queue) = .ok z →
      let made := fun (k : Nat) => placeFilled s (filledObj s k c.partition q.loc.die .stage [32] ((contentOf o 32).take 32))
      ((∀ k, made k = none) → exec (.createStageSet c.id) s = .next (commit c (serviceError 0x02) s)) ∧
      ((∀ k, made k ≠ none) → ∃ t n w, exec (.createStageSet c.id) s = .next (commit c (serviceOk (objHandle n) 1) t) ∧ NewObject s t n ∧ n.kind = .stage ∧
      t.sets = s.sets ++ [w] ∧ w.obj = n.key ∧ w.queue = q.key ∧ w.sink = z.key ∧ w.stages = recordField (contentOf o 32) 0x10 1 ∧
      w.producers = recordField (contentOf o 32) 0x12 1 ∧ (∀ i : Fin 8, w.queues.get i = []) ∧
      ∃ b d, objAt t q.key = some b ∧ b.draft = some d ∧ d.routed = true)) ∧
    (Called s c 19 → ZeroAfter c 2 → Names s c 0 1 (kindIs .byte) o → pickNumber s ≠ none →
      let n := (c.args.getD 1 0).toNat
      (1 ≤ n → n ≤ 4096 → 64 * n ≤ extentAt o 0 →
        (∀ i < n, ∀ b, resolveHandle s (parseEntry ((contentOf o (64 * n)).drop (64 * i) |>.take 64)).handle = .ok b →
          hasRight b c.partition 1 = true) →
        let rows := (List.range n).map fun i => ((contentOf o (64 * n)).drop (64 * i)).take 64
        let made := fun (k : Nat) => placeFilled s (filledObj s k c.partition o.loc.die .forecast [64, n] (rows.flatMap id))
        ((∀ k, made k = none) → exec (.createForecastTable c.id) s = .next (commit c (serviceError 0x02) s)) ∧
        ((∀ k, made k ≠ none) → ∃ t k, exec (.createForecastTable c.id) s = .next (commit c (serviceOk (objHandle k) n) t) ∧ NewObject s t k ∧ k.kind = .forecast ∧
        k.extent = [64, n] ∧ ∃ v, k.versions = [v] ∧ v.num = 1 ∧
          ∀ j < 64 * n, readByte v.store.bytes j = (contentOf o (64 * n)).getD j 0)) ∧
      (n = 0 ∨ 4096 < n → exec (.createForecastTable c.id) s = .next (commit c (serviceError 0x01) s)))

/-- R304, R305, R353, R354, R377, R378: services that write records: a hint, with which the translations of its object are kept or no
longer kept; a retain of a version and its end, after which a version that nothing holds is gone; an endpoint; a receiver, which
keeps its index and takes the job named last when it is registered again (log entry 77, the model's reading); a port; an entry of a
stream; and a set of counters. -/
def Obligations.ServicesWriteRecords : Prop :=
  ∀ (s : State) (c : Call) (o : Obj),
    (∀ b, Called s c 20 → ZeroAfter c 2 → Names s c 0 2 notHost o → Names s c 1 1 (kindIs .byte) b → 16 ≤ extentAt b 0 →
      (∀ h, parseHint (contentOf b 16) = some h → exec (.writeHintRecord c.id) s = .next (commit c (serviceOk 0 0)
        { s with objects := s.objects.map fun x => if x.key = o.key then { x with hint := some h } else x
                 xlats := s.xlats.map fun y =>
                  if y.obj = o.key ∧ y.page = none then { y with kept := decide (s.package ∈ h.mapped) } else y })) ∧
      (parseHint (contentOf b 16) = none → exec (.writeHintRecord c.id) s = .next (commit c (serviceError 0x01) s))) ∧
    (Called s c 32 → ZeroAfter c 3 → Names s c 0 1 anyKind o →
      let v := if c.args.getD 1 0 = 0 then o.current else (c.args.getD 1 0).toNat
      let n := (o.retains.filter fun r => r == v).length
      let ends := fun (e : Nat) => exec (.retain c.id) s = .next (commit c (serviceError e) s)
      (2 ^ 32 ≤ (c.args.getD 1 0).toNat ∨ 1 < (c.args.getD 2 0).toNat → ends 0x01) ∧
      ((c.args.getD 1 0).toNat < 2 ^ 32 → c.args.getD 2 0 = 0 →
        ((∀ y ∈ o.versions, y.num ≠ v) → ends 0x04) ∧
        ((∃ y ∈ o.versions, y.num = v) → exec (.retain c.id) s = .next (commit c (serviceOk (BitVec.ofNat 64 v) (n + 1))
          { s with objects := s.objects.map fun x => if x.key = o.key then { x with retains := x.retains ++ [v] } else x }))) ∧
      ((c.args.getD 1 0).toNat < 2 ^ 32 → c.args.getD 2 0 = 1 →
        (v ∉ o.retains → ends 0x04) ∧
        (v ∈ o.retains → ∃ t b, exec (.retain c.id) s = .next (commit c (serviceOk (BitVec.ofNat 64 v) (n - 1)) t) ∧
          objAt t o.key = some b ∧ b.retains = o.retains.erase v ∧ b.current = o.current ∧ b.draft = o.draft ∧
          ∀ y ∈ o.versions, y ∈ b.versions ↔ y.num = o.current ∨ y.num ∈ b.retains ∨
            ∃ d ∈ allCtxs s, ∃ p ∈ d.pins, p.obj = o.key ∧ p.version = y.num))) ∧
    (Called s c 48 → ZeroAfter c 1 → Names s c 0 2 (kindIs .byte) o → 48 ≤ extentAt o 0 →
      exec (.markEndpoint c.id) s = .next (if endpointOk (contentOf o 48) = true
        then commit c (serviceOk 0 0) { s with objects := s.objects.map fun x => if x.key = o.key then { x with endpoint := true } else x }
        else commit c (serviceError 0x01) s)) ∧
    (Called s c 49 → ZeroAfter c 2 → Names s c 0 2 dataKind o →
      ((c.args.getD 1 0).toNat < 2 ^ 24 → (pickResource s ≠ none ∨ ∃ r ∈ s.receivers, r.obj = o.key) → ∃ t n,
        exec (.registerReceiver c.id) s = .next (commit c (serviceOk (BitVec.ofNat 64 n) 0) t) ∧
        ⟨n, o.key, (c.args.getD 1 0).toNat⟩ ∈ t.receivers ∧ (∀ r ∈ t.receivers, r.obj = o.key → r.resource = n) ∧
        (∀ r ∈ s.receivers, r.obj ≠ o.key → r ∈ t.receivers) ∧ t.objects = s.objects) ∧
      ((c.args.getD 1 0).toNat < 2 ^ 24 → pickResource s = none → (∀ r ∈ s.receivers, r.obj ≠ o.key) →
        exec (.registerReceiver c.id) s = .next (commit c (serviceError 0x06) s)) ∧
      (2 ^ 24 ≤ (c.args.getD 1 0).toNat → exec (.registerReceiver c.id) s = .next (commit c (serviceError 0x01) s))) ∧
    (Called s c 50 → ZeroAfter c 1 → Names s c 0 1 (kindIs .byte) o →
      (c.partition ≠ s.owner → exec (.configurePort c.id) s = .next (commit c (serviceError 0x03) s)) ∧
      (c.partition = s.owner → extentAt o 0 < 48 → exec (.configurePort c.id) s = .next (commit c (serviceError 0x01) s)) ∧
      (c.partition = s.owner → 48 ≤ extentAt o 0 → ∀ n r, parsePort (contentOf o 48) = some (n, r) → n < 4 ∧ ∃ t,
        exec (.configurePort c.id) s = .next (commit c (serviceOk 0 0) t) ∧ { t with ports := s.ports } = s ∧ t.ports[n]? = some r ∧
        ∀ m < 4, m ≠ n → t.ports[m]? = some (s.ports.getD m ⟨false, false, 0, 0, 0, 0⟩)) ∧
      (c.partition = s.owner → 48 ≤ extentAt o 0 → parsePort (contentOf o 48) = none →
        exec (.configurePort c.id) s = .next (commit c (serviceError 0x01) s))) ∧
    (∀ x, Called s c 80 → ZeroAfter c 2 → Names s c 0 1 (kindIs .byte) o → streamBy s (c.args.getD 1 0).toNat = some x →
      x.partition = c.partition →
      let n := recordField (contentOf o (Nat.min 8 (extentAt o 0))) 2 2
      8 ≤ n → n ≤ extentAt o 0 → x.skip = 0 → (∀ e, x.entries.head? = some e → e.unperformed = false) → ∃ t, exec (.submit c.id) s = .next (commit c
          (serviceOk (BitVec.ofNat 64 (recordField (contentOf o n) 4 4)) 0) t) ∧ t.completions = s.completions ∧
        streamBy t x.number = some { x with entries := x.entries ++ [⟨contentOf o n, none, false, 0, false⟩] }) ∧
    (∀ d, Called s c 96 → ZeroAfter c 2 → Names s c 1 2 (kindIs .byte) o → o.draft = none → c.caller = .control d →
      4 < (c.args.getD 0 0).toNat → exec (.readCounters c.id) s = .next (commit c (serviceError 0x01) s)) ∧
    (∀ d p, Called s c 96 → ZeroAfter c 2 → Names s c 1 2 (kindIs .byte) o → o.draft = none → o.compressed = false →
      c.caller = .control d → c.args.getD 0 0 = 4 → 64 ≤ extentAt o 0 → shardCount o = 1 → 64 ≤ shardBytes o 0 → wouldRetain s o < 4 → o.current < 0xFFFFFFFF →
      (∀ w ∈ o.versions, Memory.wf w.store.bytes = true) → (∃ w ∈ o.versions, w.num = o.current) →
      (∀ w ∈ o.versions, w.num ≤ o.current) → partitionBy s c.partition = some p →
      ∃ t b v, exec (.readCounters c.id) s = .next (commit c (serviceOk 8 8) t) ∧ objAt t o.key = some b ∧ b.current = o.current + 1 ∧
        b.draft = none ∧ versionStore b (o.current + 1) = some v ∧ ∀ g < 8, ∀ k < 48,
          (readNat v.bytes (8 * g) 8).testBit k = decide (k ∈ p.clusters ∧ k / 6 = g))

/-- R306, R319, R377, R378, R396: services that move storage: migrate, replicate, spill, and an export with its end and return. The
model's readings: a spill replies when its copies begin, or with error 0x02 where the far tier has no room for their images (log
entries 79 and 107), and a migration within the package places all shards at once, or answers 0x02 where there is no room for them (log
entry 107). -/
def Obligations.ServicesMoveStorage : Prop :=
  ∀ (s : State) (c : Call) (o : Obj),
    (Called s c 64 → ZeroAfter c 3 → Names s c 0 2 notHost o →
      let pkg := (c.args.getD 1 0).toNat
      let die := (c.args.getD 2 0).toNat
      (576 ≤ pkg ∨ 3 < die → exec (.migrate c.id) s = .next (commit c (serviceError 0x01) s)) ∧
      (pkg < 576 → die ≤ 3 → pkg ≠ s.package → pkg ∈ s.lostLinks → exec (.migrate c.id) s = .next (commit c (serviceError 0x07) s)) ∧
      (pkg < 576 → die ≤ 3 → pkg = s.package ∨ (pkg ∉ s.lostLinks ∧ pkg ∉ s.failedPackages) →
        (migrateTo s o pkg die = none → exec (.migrate c.id) s = .next (commit c (serviceError 0x02) s)) ∧
        (migrateTo s o pkg die ≠ none → o.shardMap.length = shardCount o - 1 → ∃ t b,
          exec (.migrate c.id) s = .next (commit c (serviceOk 0 0) t) ∧ objAt t o.key = some b ∧
          if ∀ n < shardCount o, shardPackage o n = pkg then
            b.loc.package = pkg ∧ b.loc.die = die ∧ b.loc.moving = false ∧ (∀ x ∈ b.shardMap, x = (pkg, die)) ∧
              b.versions = o.versions ∧ b.current = o.current
          else b = { o with loc := { o.loc with moving := true, toPackage := pkg, toDie := die } }))) ∧
    (Called s c 65 → ZeroAfter c 2 → Names s c 0 1 notHost o →
      ∀ pkg, (c.args.getD 1 0).toNat = 2 ^ 63 + pkg → pkg < 576 → pkg ∉ s.lostLinks → pkg ∉ s.failedPackages →
        (o.replicas = [] → exec (.replicate c.id) s = .next (commit c (serviceOk (BitVec.ofNat 64 o.current) 1)
          { s with objects := s.objects.map fun x => if x.key = o.key then { x with replicas := x.replicas ++ [(o.current, pkg)] } else x })) ∧
        (7 ≤ replicaCount o → (∀ r ∈ o.replicas, r.2 ≠ pkg) → exec (.replicate c.id) s = .next (commit c (serviceError 0x02) s))) ∧
    (Called s c 66 → ZeroAfter c 1 → Names s c 0 2 notHost o →
      let new := ((List.range (shardCount o)).filter fun n => !o.loc.spilled.contains n).filter fun n => !o.spilling.contains n
      let copied := if o.loc.materialised && !o.loc.moving && !o.loc.lent then new else []
      exec (.spill c.id) s = .next (if unused s o = true ∧ farRoom s ((copied.map (spillPages s o)).sum) = false
        then commit c (serviceError 0x02) s else if unused s o = true
        then commit c (serviceOk 0 0) { s with objects := s.objects.map fun x => if x.key = o.key then { x with
            spilling := if x.loc.materialised && !x.loc.moving && !x.loc.lent then
              (List.range (shardCount x)).filter fun n => !x.loc.spilled.contains n else [] } else x }
        else commit c (serviceError 0x05) s)) ∧
    (∀ w, Called s c 67 → ZeroAfter c 3 → Names s c 0 2 lendable o →
      windowOf s c.partition (c.args.getD 2 0).toNat = some w → (c.args.getD 1 0).toNat < 2 ^ 32 →
      let v := (c.args.getD 1 0).toNat
      ((∃ x ∈ o.versions, x.num = v) → unused s o = false → exec (.exportObject c.id) s = .next (commit c (serviceError 0x05) s)) ∧
      ((∃ x ∈ o.versions, x.num = v) → unused s o = true → ∃ t,
        exec (.exportObject c.id) s = .next (commit c (serviceOk 0 (Nat.min (lentBytes o v) 0xFFFFFFFF)) t) ∧
        objAt t o.key = some { o with loc := { o.loc with lent := true }, lentVersion := v }) ∧
      ((∀ x ∈ o.versions, x.num ≠ v) → exec (.exportObject c.id) s = .next (commit c (serviceError 0x04) s))) ∧
    (Called s c 68 → ZeroAfter c 1 → resolveFor s c.partition (c.args.getD 0 0) 2 lendable = .ok o → o.loc.lent = true →
      ∃ t, exec (.endExport c.id) s = .next (commit c (serviceOk 0 0) t) ∧
        objAt t o.key = some { o with loc := { o.loc with lent := false }, lentVersion := 0 }) ∧
    (objAt s o.key = some o →
      (o.loc.lent = true → ∃ t, exec (.exportReturn o.key) s = .next t ∧
        objAt t o.key = some { o with loc := { o.loc with lent := false }, lentVersion := 0 }) ∧
      (o.loc.lent = false → exec (.exportReturn o.key) s = .next s))

/-- R388 to R390: the administrative queue. Each SPDM request is answered once the requests before it in the sequence have been; one
that comes too early, of another version or malformed gets an error, and so does an unknown code; another op, and flags that are
not zero, complete with 0x26; the tenant report carries the magic, the package, the partition, the nonce and the measurement
registers. The model's readings: the order of the checks, code, sequence, version and form, and 0x26 at offset 2 for flags (log entry
87); what a response holds and what its completion record counts as written (log entry 88). -/
def Obligations.AdministrationIsAnswered : Prop :=
  ∀ (s : State) (p : Partition) (q : SpdmRequest), AdminOpen s p →
    let rank := sequenceRank p.spdm
    let message := q.op = 1 ∧ q.flags = 0
    let fails := fun (i : Instr) (e : Nat) => ∃ t, exec i s = .next t ∧ AdminAnswers s t p p.spdm ⟨q.tag, 0x7F, e, []⟩
    let refused := fun (i : Instr) => ((q.op = 0 ∨ 2 < q.op) → exec i s = .next { s with
        completions := s.completions ++ [⟨p.number, some 0, none, q.tag, 0x26, 0, 0, 0, [], false⟩] }) ∧
      ((q.op = 1 ∨ q.op = 2) → q.flags ≠ 0 → exec i s = .next { s with
        completions := s.completions ++ [⟨p.number, some 0, none, q.tag, 0x26, 2, 0, 0, [], false⟩] }) ∧
      (message → q.code ∉ [0x84, 0xE1, 0xE3, 0x81, 0x82, 0x83, 0xE0] → fails i 0x07)
    let answers := fun (i : Instr) (need : Nat) (state : SpdmState) (code : BitVec 8) (ok : List Byte → Prop) =>
      (rank < need → fails i 0x04) ∧ (need ≤ rank → q.version ≠ 0x12 → fails i 0x41) ∧
      (need ≤ rank → q.version = 0x12 → q.wellFormed = false → fails i 0x01) ∧
      (need ≤ rank → q.version = 0x12 → q.wellFormed = true → ∃ t b, exec i s = .next t ∧
        AdminAnswers s t p (if rank < sequenceRank state then state else p.spdm) ⟨q.tag, code, 0, b⟩ ∧ ok b)
    refused (.getVersion p.number q) ∧ refused (.getCapabilities p.number q) ∧ refused (.negotiateAlgorithms p.number q) ∧
    refused (.getDigests p.number q) ∧ refused (.getCertificate p.number q) ∧ refused (.challenge p.number q) ∧
    refused (.getMeasurements p.number q) ∧
    (message → q.code = 0x84 → q.wellFormed = false → fails (.getVersion p.number q) 0x01) ∧
    (message → q.code = 0x84 → q.wellFormed = true → ∃ t, exec (.getVersion p.number q) s = .next t ∧
      AdminAnswers s t p .version ⟨q.tag, 0x04, 0, [0x12]⟩) ∧
    (message → q.code = 0xE1 → answers (.getCapabilities p.number q) 1 .capabilities 0x61 (fun _ => True)) ∧
    (message → q.code = 0xE3 → answers (.negotiateAlgorithms p.number q) 2 .algorithms 0x63 (fun _ => True)) ∧
    (message → q.code = 0x81 → answers (.getDigests p.number q) 3 .none 0x01 (fun b => b = wordBytes Config.certDigest)) ∧
    (message → q.code = 0x82 → answers (.getCertificate p.number q) 3 .none 0x02 (fun b => b = Config.certChain)) ∧
    (message → q.code = 0x83 → answers (.challenge p.number q) 3 .none 0x03 (fun b =>
      b.take 32 = wordBytes Config.certDigest ∧ b.length = 96)) ∧
    (message → q.code = 0xE0 → answers (.getMeasurements p.number q) 3 .none 0x60 (fun b =>
      b.take 256 = (s.measure.toList.flatMap wordBytes) ∧ b.length = if q.signed = true then 320 else 256)) ∧
    ∀ (nonce : BitVec 256) (tag : BitVec 32), ∃ t b, exec (.tenantReport p.number nonce tag) s = .next t ∧
      AdminAnswers s t p p.spdm ⟨tag, 0, 0, b⟩ ∧ b.length = 416 ∧ natOfBytes (b.take 4) = 0x5450574E ∧
      (s.package < 2 ^ 16 → natOfBytes ((b.drop 8).take 2) = s.package) ∧ (p.number < 2 ^ 8 → natOfBytes ((b.drop 10).take 1) = p.number) ∧
      natOfBytes ((b.drop 16).take 32) = nonce.toNat ∧ (b.drop 48).take 256 = s.measure.toList.flatMap wordBytes ∧
      natOfBytes ((b.drop 336).take 8) = s.fuses.toNat

/-- R391: the power arbiter. Concerned are every cluster when the package draws more than its limit, and the clusters of a partition that
draw more than its cap. A window with clusters concerned raises by one the level of the one that draws most and is below 8, the
lowest number on a tie; when none is below 8, each of them below step 2 takes a throttle step. After 10 µs of calm the last
throttle step is undone whose partitions' caps have been calm as well; with no step left, the level raised last is lowered. The
model's readings: one raise per window for all that are concerned, calm that each relax uses up, and when a cap is calm (log entry
90). -/
def Obligations.PowerFollowsTheDraw : Prop :=
  ∀ (s : State) (draws : List Nat),
    let w := s.power
    let total := draws.foldl (· + ·) 0
    let of := fun (p : Partition) => (p.clusters.map fun c => draws.getD c 0).foldl (· + ·) 0
    let capped := fun (p : Partition) => p ∈ s.partitions ∧ p.active = true ∧ p.cap ≠ 0
    let concerned := fun (i : Nat) => i < 48 ∧ (5880 < total ∨ ∃ p, capped p ∧ i ∈ p.clusters ∧ p.cap.toNat < of p)
    let calm := fun (v : Power) (p : Partition) => ((v.capCalm.find? fun x => x.1 == p.number).map (·.2)).getD 0
    let calmFor := fun (cs : List Nat) => ∀ p, capped p → (∃ i ∈ p.clusters, i ∈ cs) → 10 ≤ calm w p
    (∃ t, exec (.powerWindowEnd draws) s = .next t ∧ t.micros = s.micros + 1 ∧ { t with power := w, micros := s.micros } = s ∧
      (∀ i < 48, t.power.estimate.getD i 0 = draws.getD i 0 % 2 ^ 16) ∧
      (∀ p, capped p → (∀ q ∈ s.partitions, q.number = p.number → q = p) →
        calm t.power p = if 100 * of p < 95 * p.cap.toNat then Nat.min 10 (calm w p + 1) else 0) ∧
      ((∀ i, ¬concerned i) → t.power.level = w.level ∧ t.power.throttle = w.throttle ∧ t.power.raised = w.raised ∧
        t.power.stepped = w.stepped ∧ t.power.calm = if total < 5700 then Nat.min 10 (w.calm + 1) else 0) ∧
      ((∃ i, concerned i ∧ w.level.getD i 0 < 8) → ∃ k, concerned k ∧ w.level.getD k 0 < 8 ∧ t.power.throttle = w.throttle ∧
        (∀ i, concerned i → w.level.getD i 0 < 8 → draws.getD i 0 < draws.getD k 0 ∨ draws.getD i 0 = draws.getD k 0 ∧ k ≤ i) ∧
        (∀ i < 48, t.power.level.getD i 0 = w.level.getD i 0 + if i = k then 1 else 0) ∧ t.power.raised = k :: w.raised ∧
        t.power.calm = 0) ∧
      ((∃ i, concerned i) → (∀ i, concerned i → 8 ≤ w.level.getD i 0) → t.power.level = w.level ∧
        ∀ i < 48, (concerned i → w.throttle.getD i 0 < 2 → t.power.throttle.getD i 0 = w.throttle.getD i 0 + 1) ∧
          (¬concerned i ∨ 2 ≤ w.throttle.getD i 0 → t.power.throttle.getD i 0 = w.throttle.getD i 0))) ∧
    (w.calm < 10 → exec .powerRelax s = .next s) ∧
    (w.stepped ≠ [] → (∀ cs ∈ w.stepped, ¬calmFor cs) → exec .powerRelax s = .next s) ∧
    (∀ front cs r, 10 ≤ w.calm → w.stepped = front ++ cs :: r → (∀ d ∈ front, ¬calmFor d) → calmFor cs → ∃ u,
      exec .powerRelax s = .next u ∧ u.power.level = w.level ∧ u.power.stepped = front ++ r ∧ u.power.calm = w.calm - 10 ∧
      ∀ i < 48, u.power.throttle.getD i 0 = w.throttle.getD i 0 - if i ∈ cs then 1 else 0) ∧
    (∀ k r, 10 ≤ w.calm → w.stepped = [] → w.raised = k :: r → k < 48 → ∃ u, exec .powerRelax s = .next u ∧
      u.power.throttle = w.throttle ∧ u.power.raised = r ∧ u.power.calm = w.calm - 10 ∧
      ∀ i < 48, u.power.level.getD i 0 = w.level.getD i 0 - if i = k then 1 else 0)

/-- R341, R374, R384 to R387, R393, R400: bring-up ends in state 1 with the words of the fuses and of the record of defects, the ports and
the partitions of the stored configuration, and nothing of before, or in state 3; a configuration that no package can take fails
its step 4 (log entry 113, the model's choice); a duplicate package number leads to state 3; the launches of a partition end
before it is reassigned, and once none of its commands is in flight it gets its new clusters and a new key; a partition that is
not there is created. The model's readings: the two turns of a reassignment and the creation (log entry 93), the reach lost at a
duplicate number (log entry 94), and the payload of an event of type 3 (log entry 84). -/
def Obligations.PackagesComeUpAndPartitionsChange : Prop :=
  ∀ (s : State) (b : BootRecord),
    let c := s.stored.getD b.config
    (b.failStep = none → configOk c = true → ∃ t, exec (.packageReset b) s = .next t ∧ t.device = 1 ∧ t.package = c.package ∧
      t.owner = c.owner ∧ t.fuses = b.fuses &&& 0xFF ∧ t.pools = c.pools ∧ t.ports.length = 4 ∧
      (∀ n < 4, t.ports[n]? = some (c.ports.getD n ⟨false, false, 0, 0, 0, 0⟩)) ∧ t.stored = some c ∧ t.recorded = s.recorded ∧
      t.objects = [] ∧ t.launches = [] ∧ t.cmds = [] ∧ t.parked = [] ∧ t.core = Reset.core ∧
      (∀ i : Fin 48, t.defects.get i = (b.defects.getD i.val 0 ||| s.recorded.get i) &&& 0x8FFFFFFF) ∧ t.streams.length = 256 ∧
      t.partitions.map (fun p => (p.number, p.active, p.clusters, p.cap, p.quotas, p.featuresOk, p.traps.length)) =
        c.partitions.map fun r => (r.number, true, r.clusters, r.cap, r.quotas, false, 0)) ∧
    (b.failStep ≠ none ∨ configOk c = false → ∃ t, exec (.packageReset b) s = .next t ∧ t.device = 3 ∧ t.objects = [] ∧
      t.launches = [] ∧ t.stored = some c ∧ t.recorded = s.recorded) ∧
    (s.device = 1 → ∃ t, exec .duplicatePackageNumber s = .next t ∧ t.device = 3 ∧ t.objects = s.objects ∧
      (∀ p ∈ t.partitions, p.featuresOk = false) ∧ ∀ p < 576, p ≠ s.package → p ∈ t.lostLinks) ∧
    (s.device ≠ 1 → exec .duplicatePackageNumber s = .next s) ∧
    (∀ n clusters cap k, partitionBy s n = none → s.device = 1 → n < 64 → clusters ≠ [] → mayAssign s n clusters = true →
      newStream s = some k → ∃ t q x, exec (.partitionReassignment n clusters cap) s = .next t ∧ partitionBy t n = some q ∧
        q.active = true ∧ q.clusters = clusters ∧ q.cap = cap ∧ q.streams = [k] ∧ q.key = Config.partitionKey s.drawn ∧
        streamBy t k = some x ∧ x.partition = n ∧ t.objects = s.objects) ∧
    (∀ p clusters cap, partitionBy s p.number = some p → s.device = 1 → mayAssign s p.number clusters = true →
      let i := Instr.partitionReassignment p.number clusters cap
      let settled := ∀ l ∈ s.launches, l.partition = p.number → l.ended = true
      (p.reassigning = false ∨ ¬settled → ∃ t q, exec i s = .next t ∧ partitionBy t p.number = some q ∧ q.reassigning = true ∧
        q.featuresOk = false ∧ q.clusters = p.clusters ∧ q.key = p.key ∧ ∀ l ∈ t.launches, l.partition = p.number → l.ended = true) ∧
      (p.reassigning = false → (∀ l ∈ s.launches, l.partition ≠ p.number) → 0 < p.buffers → ∃ t q,
        exec i s = .next t ∧ partitionBy t p.number = some q ∧ q.posted = p.posted ++ [⟨3, 0, payload24 [2]⟩] ∧
        t.objects = s.objects) ∧
      (p.reassigning = true → settled → (∃ d ∈ s.cmds, cmdOfPart s p.number d = true) → exec i s = .next s) ∧
      (p.reassigning = true → (∀ l ∈ s.launches, l.partition ≠ p.number) → (∀ c ∈ s.cmds, cmdOfPart s p.number c = false) →
        (∀ o ∈ s.objects, o.present = true → o.partition ≠ p.number) → ∃ t q,
        exec i s = .next t ∧ partitionBy t p.number = some q ∧ q.reassigning = false ∧
        q.active = !clusters.isEmpty ∧ q.clusters = clusters ∧ q.cap = cap ∧ q.key = Config.partitionKey s.drawn ∧ q.traps = [] ∧
        q.journal = [] ∧ t.objects = s.objects ∧ (∀ x ∈ t.streams, x.partition = p.number → x.entries = []) ∧
        (∀ c ∈ t.calls, c.partition ≠ p.number)))

/-- R296, R297, R299, R300, R342, R344, R347, R364: the records that the device keeps or shows hold each field at its place, whatever the
other fields hold. The configuration of a function whose partition does not exist shows no submit queues and 0xFFFF for every
stream, which is the model's choice (log entry 103).

R275 to R278: a directory holds the offset and the length of each block; a block that the compression engine encodes decodes to as many
elements, without a bound to the same bits, and with one to values of which none is further from its source than the bound. -/
def Obligations.RecordsHoldTheirFields : Prop :=
  (∀ o : Obj, let f := recordField (descriptorBytes o)
    (descriptorBytes o).length = 128 ∧ f 0 8 = classWord o % 2 ^ 64 ∧ (∀ j < 6, f (8 + 4 * j) 4 = o.extent.getD j 1 % 2 ^ 32) ∧
    f 0x20 8 = o.geometry.toNat ∧ f 0x28 8 = o.storage % 2 ^ 64 ∧ f 0x30 8 = o.scalePlane % 2 ^ 64 ∧ f 0x38 4 = o.current % 2 ^ 32 ∧
    f 0x3C 4 = o.draft.elim 0 (·.base) % 2 ^ 32 ∧ f 0x40 8 = versionWord o % 2 ^ 64 ∧ f 0x48 8 = o.shard.toNat ∧
    f 0x50 8 = placementWord o % 2 ^ 64 ∧ f 0x58 8 = networkWord o % 2 ^ 64 ∧ f 0x60 16 = 0 ∧ f 0x70 16 = o.rights.toNat) ∧
  (∀ o : Obj, o.generation < 2 ^ 12 → o.partition < 2 ^ 6 → o.dims < 8 → o.point < 4 → -2048 ≤ o.epsExp → o.epsExp < 2048 →
    fieldOf (classWord o) 44 12 = o.generation ∧ fieldOf (classWord o) 38 6 = o.partition ∧ fieldOf (classWord o) 35 3 = o.dims ∧
    fieldOf (classWord o) 32 3 = kindCode o.kind ∧ fieldOf (classWord o) 28 4 = o.fmt.toNat ∧
    (classWord o).testBit 27 = o.scaled ∧ (classWord o).testBit 26 = o.compressed ∧ fieldOf (classWord o) 24 2 = o.point ∧
    (classWord o).testBit 23 = o.epsZero ∧ (fieldOf (classWord o) 11 12 : Int) = o.epsExp % 2 ^ 12 ∧
    classWord o / 2 ^ 56 = 0 ∧ classWord o % 2 ^ 11 = 0) ∧
  (∀ o : Obj, 1 ≤ o.versions.length → o.versions.length ≤ 4 → o.marks < 256 →
    (versionWord o).testBit 63 = o.draft.isSome ∧ fieldOf (versionWord o) 61 2 = o.versions.length - 1 ∧
    (versionWord o).testBit 60 = o.started ∧ fieldOf (versionWord o) 52 8 = o.marks ∧
    fieldOf (versionWord o) 36 16 = o.draftNo % 2 ^ 16 ∧ versionWord o % 2 ^ 36 = 0) ∧
  (∀ o : Obj, o.loc.die < 4 → replicaCount o < 8 →
    fieldOf (placementWord o) 56 2 = o.loc.die ∧ (placementWord o).testBit 55 = o.loc.materialised ∧
    (placementWord o).testBit 54 = o.loc.far ∧ (placementWord o).testBit 53 = !o.loc.spilled.isEmpty ∧
    (placementWord o).testBit 52 = o.loc.lent ∧ (placementWord o).testBit 51 = o.loc.moving ∧
    fieldOf (placementWord o) 48 3 = replicaCount o ∧ (placementWord o).testBit 47 = o.hint.isSome ∧
    fieldOf (placementWord o) 24 23 = 0) ∧
  (∀ o : Obj, o.pendingBytes < 2 ^ 24 →
    fieldOf (networkWord o) 32 32 = o.counter.toNat ∧ fieldOf (networkWord o) 8 24 = o.pendingBytes ∧
    (networkWord o).testBit 7 = o.overrun ∧ (networkWord o).testBit 6 = o.endpoint) ∧
  (∀ h : Hint, h.package < 2 ^ 10 → h.die < 4 → h.mapped.length ≤ 8 → (∀ p ∈ h.mapped, p < 2 ^ 10) → let f := recordField (hintBytes h)
    (hintBytes h).length = 16 ∧ f 0 2 = h.package + 2 ^ 10 * h.die + 2 ^ 12 * h.mapped.length ∧
    f 2 1 = (if h.unwritten then 1 else 0) + (if h.far then 2 else 0) ∧
    (∀ i < 8, fieldOf (f 3 10) (10 * i) 10 = h.mapped.getD i 0) ∧ f 13 3 = 0) ∧
  (∀ (s : State) (p : Nat), (deviceConfig s p).length = 144 ∧ (let f := recordField (deviceConfig s p)
    let streams := (partitionBy s p).elim [] (·.streams)
    f 0 2 = Config.part % 2 ^ 16 ∧ f 2 1 = p % 2 ^ 8 ∧ f 3 1 = deviceState s p % 2 ^ 8 ∧ f 4 2 = s.package % 2 ^ 16 ∧
    f 6 2 = streams.length % 2 ^ 16 ∧ f 8 4 = Config.firmware.toNat ∧ f 12 4 = 0 ∧
    ∀ i < 64, f (16 + 2 * i) 2 = streams.getD i 0xFFFF % 2 ^ 16) ∧
    (s.device ≠ 1 → deviceState s p = s.device) ∧
    (s.device = 1 → partitionBy s p = none → deviceState s p = 4) ∧
    (∀ x, s.device = 1 → partitionBy s p = some x → deviceState s p = if !x.active then 4 else if x.reassigning then 2 else 1)) ∧
  (∀ c : Completion, (completionRecord c).length = 24 ∧ natOfBytes ((completionRecord c).take 4) = c.tag.toNat ∧
    natOfBytes (((completionRecord c).drop 4).take 1) = c.status % 2 ^ 8 ∧
    natOfBytes (((completionRecord c).drop 5).take 3) = c.detail % 2 ^ 24 ∧ recordField (completionRecord c) 8 4 = c.count % 2 ^ 32 ∧
    recordField (completionRecord c) 12 4 = c.data.length % 2 ^ 32 ∧ recordField (completionRecord c) 16 4 = c.fault % 2 ^ 32 ∧
    recordField (completionRecord c) 20 4 = 0 ∧ usedLength c = if c.returned then 0 else c.data.length + 24) ∧
  (∀ e : HostEvent, (eventBytes e).length = 32 ∧ natOfBytes ((eventBytes e).take 2) = e.type % 2 ^ 16 ∧
    natOfBytes (((eventBytes e).drop 4).take 4) = e.tag.toNat ∧ (e.payload.length = 24 → (eventBytes e).drop 8 = e.payload)) ∧
  (∀ (c : CodecMode) (xs : List Nat), c.fmt = f32 ∨ c.fmt = f64 → 1 ≤ xs.length → xs.length ≤ 256 → (∀ x ∈ xs, x < 2 ^ c.fmt.width) →
    (encodeBlock c xs).length % 8 = 0 ∧ 8 ≤ (encodeBlock c xs).length ∧ (encodeBlock c xs).length ≤ 8 * 513 ∧
    ∃ ys, decodeBlock c xs.length (encodeBlock c xs) = some ys ∧ ys.length = xs.length ∧ (c.lossy = false → ys = xs) ∧
      ∀ i < xs.length, ys.getD i 0 = xs.getD i 0 ∨ apartBy c.fmt (ys.getD i 0) (xs.getD i 0) c.epsExp = false) ∧
  (∀ (off : Nat) (bs : List (List Byte)), off + (bs.map List.length).sum < 2 ^ 48 → (∀ b ∈ bs, b.length ≤ 8 * 513) →
    (directory off bs).length = 8 * bs.length ∧ ∀ i < bs.length, let w := recordField (directory off bs) (8 * i) 8
      fieldOf w 0 48 = off + ((bs.take i).map List.length).sum ∧ fieldOf w 48 12 = (bs.getD i []).length / 8 ∧ fieldOf w 60 4 = 0) ∧
  ∀ r : TrapRecord, (trapBytes r).length = 24 ∧ (trapBytes r).take 4 = [r.cls, r.slot, r.ctx, 0] ∧
    natOfBytes (((trapBytes r).drop 4).take 4) = r.bundle.toNat ∧ natOfBytes (((trapBytes r).drop 8).take 4) = r.detail.toNat ∧
    natOfBytes (((trapBytes r).drop 12).take 4) = r.team.toNat ∧ natOfBytes ((trapBytes r).drop 16) = r.operand.toNat
end

