-- ==== Sys2Proof/Laws/Memory.lean ====
section
/-!
SUPPORT. The laws of the memories: every operation keeps the canonical form, what a byte reads after each, and that memories
in canonical form with the same bytes are the same list. The accumulator elements likewise.
-/

namespace Sys2Proof.Laws

open Sys2Proof.Machine

/-! ## The canonical form -/

theorem wfFrom_cons {lo a : Nat} {b : Byte} {r : Mem} :
    Memory.wfFrom lo ((a, b) :: r) = true ↔ lo ≤ a ∧ b ≠ 0 ∧ Memory.wfFrom (a + 1) r = true := by
  simp [Memory.wfFrom, and_assoc]

theorem wfFrom_mono {lo lo' : Nat} {m : Mem} (h : Memory.wfFrom lo m = true) (hl : lo' ≤ lo) : Memory.wfFrom lo' m = true := by
  cases m with
  | nil => rfl
  | cons c r => obtain ⟨a, b⟩ := c; rw [wfFrom_cons] at h ⊢; exact ⟨Nat.le_trans hl h.1, h.2⟩

theorem wfFrom_mem {lo : Nat} {m : Mem} (h : Memory.wfFrom lo m = true) : ∀ c ∈ m, lo ≤ c.1 := by
  induction m generalizing lo with
  | nil => simp
  | cons d r ih =>
    obtain ⟨a, b⟩ := d
    rw [wfFrom_cons] at h
    intro c hc
    rcases List.mem_cons.mp hc with rfl | hc
    · exact h.1
    · have := ih h.2.2 c hc
      omega

theorem wfFrom_append {lo mid : Nat} {x y : Mem} (hx : Memory.wfFrom lo x = true) (hm : ∀ c ∈ x, c.1 < mid)
    (hy : Memory.wfFrom mid y = true) (hl : lo ≤ mid) : Memory.wfFrom lo (x ++ y) = true := by
  induction x generalizing lo with
  | nil => exact wfFrom_mono hy hl
  | cons c r ih =>
    obtain ⟨a, b⟩ := c
    rw [List.cons_append, wfFrom_cons] at *
    have ha : a < mid := hm (a, b) (List.mem_cons_self ..)
    exact ⟨hx.1, hx.2.1, ih hx.2.2 (fun d hd => hm d (List.mem_cons_of_mem _ hd)) (by omega)⟩

theorem wfFrom_below {lo : Nat} {m : Mem} (a : Nat) (h : Memory.wfFrom lo m = true) : Memory.wfFrom lo (cellsBelow a m) = true := by
  induction m generalizing lo with
  | nil => rfl
  | cons c r ih =>
    obtain ⟨k, b⟩ := c
    rw [wfFrom_cons] at h
    rw [cellsBelow]
    split
    · exact wfFrom_cons.mpr ⟨h.1, h.2.1, ih h.2.2⟩
    · rfl

theorem below_lt (a : Nat) (m : Mem) : ∀ c ∈ cellsBelow a m, c.1 < a := by
  induction m with
  | nil => simp [cellsBelow]
  | cons d r ih =>
    obtain ⟨k, b⟩ := d
    rw [cellsBelow]
    split
    · intro c hc
      rcases List.mem_cons.mp hc with rfl | hc
      · assumption
      · exact ih c hc
    · simp

theorem wfFrom_from {lo : Nat} {m : Mem} (a : Nat) (h : Memory.wfFrom lo m = true) : Memory.wfFrom a (cellsFrom a m) = true := by
  induction m generalizing lo with
  | nil => rfl
  | cons c r ih =>
    obtain ⟨k, b⟩ := c
    rw [wfFrom_cons] at h
    rw [cellsFrom]
    split
    · exact ih h.2.2
    · exact wfFrom_cons.mpr ⟨by omega, h.2⟩

theorem wfFrom_cellsOf (a : Nat) (bs : List Byte) : Memory.wfFrom a (cellsOf a bs) = true := by
  induction bs generalizing a with
  | nil => rfl
  | cons b r ih =>
    rw [cellsOf]
    split
    · exact wfFrom_mono (ih (a + 1)) (by omega)
    · exact wfFrom_cons.mpr ⟨Nat.le_refl a, ‹_›, ih (a + 1)⟩

theorem cellsOf_lt (a : Nat) (bs : List Byte) : ∀ c ∈ cellsOf a bs, c.1 < a + bs.length := by
  induction bs generalizing a with
  | nil => simp [cellsOf]
  | cons b r ih =>
    intro c hc
    rw [cellsOf] at hc
    simp only [List.length_cons]
    split at hc
    · have := ih (a + 1) c hc
      omega
    · rcases List.mem_cons.mp hc with rfl | hc
      · simp only
        omega
      · have := ih (a + 1) c hc
        omega

/-- Cells moved upward. -/
theorem wfFrom_up {lo : Nat} {m : Mem} (d : Nat) (h : Memory.wfFrom lo m = true) :
    Memory.wfFrom (lo + d) (m.map fun c => (c.1 + d, c.2)) = true := by
  induction m generalizing lo with
  | nil => rfl
  | cons c r ih =>
    obtain ⟨k, b⟩ := c
    rw [wfFrom_cons] at h
    refine wfFrom_cons.mpr ⟨by omega, h.2.1, ?_⟩
    have := ih h.2.2
    rwa [show k + 1 + d = k + d + 1 by omega] at this

/-- Cells moved downward. -/
theorem wfFrom_down {lo : Nat} {m : Mem} (d : Nat) (hd : d ≤ lo) (h : Memory.wfFrom lo m = true) :
    Memory.wfFrom (lo - d) (m.map fun c => (c.1 - d, c.2)) = true := by
  induction m generalizing lo with
  | nil => rfl
  | cons c r ih =>
    obtain ⟨k, b⟩ := c
    rw [wfFrom_cons] at h
    refine wfFrom_cons.mpr ⟨by omega, h.2.1, ?_⟩
    have := ih (by omega : d ≤ k + 1) h.2.2
    rwa [show k + 1 - d = k - d + 1 by omega] at this

theorem wf_cellsOf (bs : List Byte) : Memory.wf (cellsOf 0 bs) = true := wfFrom_cellsOf 0 bs

theorem wf_writeBytes {m : Mem} (a : Nat) (bs : List Byte) (h : Memory.wf m = true) : Memory.wf (writeBytes m a bs) = true := by
  unfold writeBytes
  refine wfFrom_append (mid := a + bs.length)
    (wfFrom_append (mid := a) (wfFrom_below a h) (below_lt a m) (wfFrom_cellsOf a bs) (Nat.zero_le _)) ?_ (wfFrom_from _ h) (Nat.zero_le _)
  intro c hc
  rcases List.mem_append.mp hc with hc | hc
  · have := below_lt a m c hc
    omega
  · exact cellsOf_lt a bs c hc

theorem wf_writeByte {m : Mem} (a : Nat) (b : Byte) (h : Memory.wf m = true) : Memory.wf (writeByte m a b) = true :=
  wf_writeBytes a [b] h

theorem wf_writeNat {m : Mem} (a n x : Nat) (h : Memory.wf m = true) : Memory.wf (writeNat m a n x) = true :=
  wf_writeBytes a _ h

theorem wf_clearBytes {m : Mem} (a n : Nat) (h : Memory.wf m = true) : Memory.wf (clearBytes m a n) = true :=
  wfFrom_append (mid := a + n) (wfFrom_below a h) (fun c hc => Nat.lt_of_lt_of_le (below_lt a m c hc) (Nat.le_add_right ..))
    (wfFrom_from _ h) (Nat.zero_le _)

theorem wf_sliceMem {m : Mem} (a n : Nat) (h : Memory.wf m = true) : Memory.wf (sliceMem m a n) = true := by
  have := wfFrom_down a (Nat.le_refl a) (wfFrom_below (a + n) (wfFrom_from a h))
  rwa [Nat.sub_self] at this

theorem wf_spliceMem {m x : Mem} (a n : Nat) (h : Memory.wf m = true) (hx : Memory.wf x = true) :
    Memory.wf (spliceMem m a n x) = true := by
  have hmid : Memory.wfFrom a ((cellsBelow n x).map fun c => (c.1 + a, c.2)) = true := by
    have := wfFrom_up a (wfFrom_below n hx)
    rwa [Nat.zero_add] at this
  refine wfFrom_append (mid := a + n) (wfFrom_append (mid := a) (wfFrom_below a h) (below_lt a m) hmid (Nat.zero_le _)) ?_
    (wfFrom_from _ h) (Nat.zero_le _)
  intro c hc
  rcases List.mem_append.mp hc with hc | hc
  · have := below_lt a m c hc
    omega
  · obtain ⟨d, hd, rfl⟩ := List.mem_map.mp hc
    have := below_lt n x d hd
    simp only
    omega

/-- Reset leaves every memory in canonical form: it lists nothing. -/
theorem wf_reset : Memory.wf State.reset.core.scratch = true ∧ bankWfFrom 0 State.reset.core.banks = true := by decide

/-! ## What a byte reads -/

theorem readByte_below_lo {lo : Nat} {m : Mem} (h : Memory.wfFrom lo m = true) {a : Nat} (ha : a < lo) : readByte m a = 0 := by
  induction m generalizing lo with
  | nil => rfl
  | cons c r ih =>
    obtain ⟨k, b⟩ := c
    rw [wfFrom_cons] at h
    rw [readByte, if_neg (by omega)]
    exact ih h.2.2 (by omega)

theorem readByte_of_lt {m : Mem} {hi : Nat} (h : ∀ c ∈ m, c.1 < hi) {a : Nat} (ha : hi ≤ a) : readByte m a = 0 := by
  induction m with
  | nil => rfl
  | cons c r ih =>
    obtain ⟨k, b⟩ := c
    have : k < hi := h (k, b) (List.mem_cons_self ..)
    rw [readByte, if_neg (by omega)]
    exact ih fun d hd => h d (List.mem_cons_of_mem _ hd)

theorem readByte_append {lo mid : Nat} {x y : Mem} (hx : ∀ c ∈ x, c.1 < mid) (hy : Memory.wfFrom lo y = true) (hm : mid ≤ lo) (a : Nat) :
    readByte (x ++ y) a = if a < mid then readByte x a else readByte y a := by
  induction x with
  | nil =>
    split
    · exact readByte_below_lo hy (by omega)
    · rfl
  | cons c r ih =>
    obtain ⟨k, b⟩ := c
    have hk : k < mid := hx (k, b) (List.mem_cons_self ..)
    rw [List.cons_append, readByte, readByte]
    by_cases e : k = a
    · subst e
      simp [hk]
    · simp only [if_neg e]
      exact ih fun d hd => hx d (List.mem_cons_of_mem _ hd)

theorem readByte_cellsBelow (n : Nat) {lo : Nat} {m : Mem} (h : Memory.wfFrom lo m = true) (a : Nat) :
    readByte (cellsBelow n m) a = if a < n then readByte m a else 0 := by
  induction m generalizing lo with
  | nil => simp [cellsBelow, readByte]
  | cons c r ih =>
    obtain ⟨k, b⟩ := c
    rw [wfFrom_cons] at h
    rw [cellsBelow]
    split
    · rw [readByte, readByte, ih h.2.2]
      by_cases e : k = a
      · subst e
        simp [*]
      · simp only [if_neg e]
    · rename_i hk
      rw [readByte]
      split
      · rw [readByte, if_neg (by omega)]
        exact (readByte_below_lo h.2.2 (by omega)).symm
      · rfl

theorem readByte_cellsFrom (n : Nat) {lo : Nat} {m : Mem} (h : Memory.wfFrom lo m = true) (a : Nat) :
    readByte (cellsFrom n m) a = if n ≤ a then readByte m a else 0 := by
  induction m generalizing lo with
  | nil => simp [cellsFrom, readByte]
  | cons c r ih =>
    obtain ⟨k, b⟩ := c
    rw [wfFrom_cons] at h
    rw [cellsFrom]
    split
    · rw [ih h.2.2]
      split
      · rw [readByte, if_neg (by omega)]
      · rfl
    · split
      · rfl
      · exact readByte_below_lo (lo := k) (wfFrom_cons.mpr ⟨Nat.le_refl k, h.2⟩) (by omega)

theorem readByte_cellsOf (a : Nat) (bs : List Byte) (x : Nat) :
    readByte (cellsOf a bs) x = if a ≤ x ∧ x < a + bs.length then bs.getD (x - a) 0 else 0 := by
  induction bs generalizing a with
  | nil =>
    rw [if_neg (by simp only [List.length_nil]; omega)]
    rfl
  | cons b r ih =>
    have hstep : readByte (cellsOf a (b :: r)) x = if a = x then b else readByte (cellsOf (a + 1) r) x := by
      rw [cellsOf]
      split
      · rename_i hb
        split
        · rename_i e
          rw [hb]
          exact readByte_below_lo (wfFrom_cellsOf (a + 1) r) (by omega)
        · rfl
      · rfl
    rw [hstep, ih]
    simp only [List.length_cons]
    by_cases e : a = x
    · subst e
      rw [if_pos rfl, if_pos ⟨Nat.le_refl _, by omega⟩]
      simp
    · rw [if_neg e]
      by_cases hx : a + 1 ≤ x ∧ x < a + 1 + r.length
      · rw [if_pos hx, if_pos (by omega), show x - a = x - (a + 1) + 1 by omega, List.getD_cons_succ]
      · rw [if_neg hx, if_neg (by omega)]

/-- A byte reads what was written there, and every other byte what it read before. -/
theorem readByte_writeBytes {m : Mem} (a : Nat) (bs : List Byte) (h : Memory.wf m = true) (x : Nat) :
    readByte (writeBytes m a bs) x = if a ≤ x ∧ x < a + bs.length then bs.getD (x - a) 0 else readByte m x := by
  have hlt : ∀ c ∈ cellsBelow a m ++ cellsOf a bs, c.1 < a + bs.length := by
    intro c hc
    rcases List.mem_append.mp hc with hc | hc
    · have := below_lt a m c hc
      omega
    · exact cellsOf_lt a bs c hc
  rw [writeBytes, readByte_append hlt (wfFrom_from _ h) (Nat.le_refl _), readByte_append (below_lt a m) (wfFrom_cellsOf a bs) (Nat.le_refl _),
    readByte_cellsBelow a h, readByte_cellsOf, readByte_cellsFrom _ h]
  repeat' split
  all_goals first | rfl | omega

theorem readByte_writeByte {m : Mem} (a : Nat) (b : Byte) (h : Memory.wf m = true) (x : Nat) :
    readByte (writeByte m a b) x = if x = a then b else readByte m x := by
  rw [writeByte, readByte_writeBytes a [b] h]
  by_cases e : x = a
  · subst e
    rw [if_pos (by simp), if_pos rfl, Nat.sub_self]
    rfl
  · rw [if_neg (by simp only [List.length_singleton]; omega), if_neg e]

theorem readByte_clearBytes {m : Mem} (a n : Nat) (h : Memory.wf m = true) (x : Nat) :
    readByte (clearBytes m a n) x = if a ≤ x ∧ x < a + n then 0 else readByte m x := by
  rw [clearBytes, readByte_append (below_lt a m) (wfFrom_from _ h) (by omega), readByte_cellsBelow a h, readByte_cellsFrom _ h]
  repeat' split
  all_goals first | rfl | omega

/-! ## Runs of bytes -/

theorem readBytes_length (m : Mem) (a n : Nat) : (readBytes m a n).length = n := by
  induction n generalizing m a with
  | zero => rfl
  | succ n ih =>
    rw [readBytes]
    split
    · simp
    · split <;> simp [ih]

theorem readBytes_getD {lo : Nat} {m : Mem} (h : Memory.wfFrom lo m = true) (a n k : Nat) (hk : k < n) :
    (readBytes m a n).getD k 0 = readByte m (a + k) := by
  induction n generalizing m a k lo with
  | zero => omega
  | succ n ih =>
    have hf := wfFrom_from a h
    have hr : ∀ x, a ≤ x → readByte m x = readByte (cellsFrom a m) x := fun x hx => by rw [readByte_cellsFrom a h, if_pos hx]
    rw [hr (a + k) (by omega), readBytes]
    split
    · rename_i e
      rw [e, readByte]
      simp [List.getD_eq_getElem?_getD, hk]
    · rename_i c b r e
      rw [e] at hf ⊢
      have hc := wfFrom_cons.mp hf
      split
      · rename_i ek
        subst ek
        cases k with
        | zero => simp [readByte]
        | succ k =>
          rw [List.getD_cons_succ, ih hc.2.2 (c + 1) k (by omega), readByte, if_neg (by omega), show c + 1 + k = c + (k + 1) by omega]
      · rename_i ek
        cases k with
        | zero =>
          rw [List.getD_cons_zero, readByte, if_neg (by omega)]
          exact (readByte_below_lo hc.2.2 (by omega)).symm
        | succ k =>
          rw [List.getD_cons_succ, ih hf (a + 1) k (by omega), show a + 1 + k = a + (k + 1) by omega]

/-! ## One list for one memory -/

theorem mem_ext_from {lo : Nat} {m n : Mem} (hm : Memory.wfFrom lo m = true) (hn : Memory.wfFrom lo n = true)
    (h : ∀ a, lo ≤ a → readByte m a = readByte n a) : m = n := by
  induction m generalizing lo n with
  | nil =>
    cases n with
    | nil => rfl
    | cons c r =>
      obtain ⟨k, b⟩ := c
      rw [wfFrom_cons] at hn
      exact absurd (by simpa [readByte] using (h k hn.1).symm) hn.2.1
  | cons c r ih =>
    obtain ⟨k, b⟩ := c
    have hm' := wfFrom_cons.mp hm
    cases n with
    | nil => exact absurd (by simpa [readByte] using h k hm'.1) hm'.2.1
    | cons d q =>
      obtain ⟨j, x⟩ := d
      have hn' := wfFrom_cons.mp hn
      have hk : k = j := by
        rcases Nat.lt_trichotomy k j with e | e | e
        · have := h k hm'.1
          rw [readByte, if_pos rfl, readByte, if_neg (by omega), readByte_below_lo hn'.2.2 (by omega)] at this
          exact absurd this hm'.2.1
        · exact e
        · have := h j hn'.1
          rw [readByte, if_neg (by omega), readByte, if_pos rfl, readByte_below_lo hm'.2.2 (by omega)] at this
          exact absurd this.symm hn'.2.1
      subst hk
      have hb : b = x := by simpa [readByte] using h k hm'.1
      subst hb
      congr 1
      refine ih hm'.2.2 hn'.2.2 fun a ha => ?_
      have := h a (by omega)
      rwa [readByte, if_neg (by omega), readByte, if_neg (by omega)] at this

/-- Memories in canonical form with the same bytes are the same list. -/
theorem mem_ext {m n : Mem} (hm : Memory.wf m = true) (hn : Memory.wf n = true) (h : ∀ a, readByte m a = readByte n a) : m = n :=
  mem_ext_from hm hn fun a _ => h a

/-! ## Accumulator elements -/

theorem bankWf_cons {lo a : Nat} {b : BitVec 64} {r : Bank64} :
    bankWfFrom lo ((a, b) :: r) = true ↔ lo ≤ a ∧ b ≠ 0 ∧ bankWfFrom (a + 1) r = true := by
  simp [bankWfFrom, and_assoc]

theorem bankGet_below {lo : Nat} {m : Bank64} (h : bankWfFrom lo m = true) {a : Nat} (ha : a < lo) : bankGet m a = 0 := by
  induction m generalizing lo with
  | nil => rfl
  | cons c r ih =>
    obtain ⟨k, b⟩ := c
    rw [bankWf_cons] at h
    rw [bankGet, if_neg (by omega)]
    exact ih h.2.2 (by omega)

theorem bankWf_bankSet {lo : Nat} {m : Bank64} (a : Nat) (x : BitVec 64) (h : bankWfFrom lo m = true) (ha : lo ≤ a) :
    bankWfFrom lo (bankSet m a x) = true := by
  induction m generalizing lo with
  | nil =>
    rw [bankSet]
    split
    · rfl
    · exact bankWf_cons.mpr ⟨ha, ‹_›, rfl⟩
  | cons c r ih =>
    obtain ⟨k, b⟩ := c
    have h' := bankWf_cons.mp h
    have hlow : ∀ {p q : Nat} {n : Bank64}, bankWfFrom p n = true → q ≤ p → bankWfFrom q n = true := by
      intro p q n hn hq
      cases n with
      | nil => rfl
      | cons d n => obtain ⟨i, y⟩ := d; rw [bankWf_cons] at hn ⊢; exact ⟨Nat.le_trans hq hn.1, hn.2⟩
    rw [bankSet]
    split
    · exact bankWf_cons.mpr ⟨h'.1, h'.2.1, ih h'.2.2 (by omega)⟩
    · split
      · split
        · exact hlow h'.2.2 (by omega)
        · exact h
      · split
        · subst_vars
          exact bankWf_cons.mpr ⟨ha, ‹_›, h'.2.2⟩
        · exact bankWf_cons.mpr ⟨ha, ‹_›, bankWf_cons.mpr ⟨by omega, h'.2⟩⟩

theorem bankGet_cons (k : Nat) (b : BitVec 64) (r : Bank64) (i : Nat) : bankGet ((k, b) :: r) i = if i = k then b else bankGet r i := by
  rw [bankGet]
  by_cases e : i = k
  · rw [if_pos e, if_pos e.symm]
  · rw [if_neg e, if_neg (Ne.symm e)]

theorem bankGet_bankSet {lo : Nat} {m : Bank64} (a : Nat) (x : BitVec 64) (h : bankWfFrom lo m = true) (i : Nat) :
    bankGet (bankSet m a x) i = if i = a then x else bankGet m i := by
  induction m generalizing lo with
  | nil =>
    rw [bankSet]
    split
    · subst_vars
      simp [bankGet]
    · rw [bankGet_cons]
  | cons c r ih =>
    obtain ⟨k, b⟩ := c
    have h' := bankWf_cons.mp h
    rw [bankSet, bankGet_cons]
    by_cases hk : k < a
    · rw [if_pos hk, bankGet_cons, ih h'.2.2]
      by_cases e : i = k
      · rw [if_pos e, if_pos e, if_neg (by omega)]
      · rw [if_neg e, if_neg e]
    · rw [if_neg hk]
      have low : i ≤ k → bankGet r i = 0 := fun e => bankGet_below h'.2.2 (by omega)
      by_cases hx : x = 0
      · rw [if_pos hx]
        by_cases ha : k = a
        · rw [if_pos ha]
          by_cases e : i = a
          · rw [if_pos e, hx, low (by omega)]
          · rw [if_neg e, if_neg (by omega)]
        · rw [if_neg ha, bankGet_cons]
          by_cases e : i = a
          · rw [if_pos e, if_neg (by omega), hx, low (by omega)]
          · rw [if_neg e]
      · rw [if_neg hx]
        by_cases ha : k = a
        · rw [if_pos ha, bankGet_cons]
          by_cases e : i = a
          · rw [if_pos e, if_pos e]
          · rw [if_neg e, if_neg e, if_neg (by omega)]
        · rw [if_neg ha, bankGet_cons, bankGet_cons]

theorem bankWf_bankWrite {m : Bank64} (a : Nat) (xs : List (BitVec 64)) (h : bankWfFrom 0 m = true) :
    bankWfFrom 0 (bankWrite m a xs) = true := by
  induction xs generalizing m a with
  | nil => exact h
  | cons x r ih => exact ih (a + 1) (bankWf_bankSet a x h (Nat.zero_le _))

theorem bankGet_bankWrite {m : Bank64} (a : Nat) (xs : List (BitVec 64)) (h : bankWfFrom 0 m = true) (i : Nat) :
    bankGet (bankWrite m a xs) i = if a ≤ i ∧ i < a + xs.length then xs.getD (i - a) 0 else bankGet m i := by
  induction xs generalizing m a with
  | nil =>
    rw [if_neg (by simp only [List.length_nil]; omega)]
    rfl
  | cons x r ih =>
    rw [bankWrite, ih (a + 1) (bankWf_bankSet a x h (Nat.zero_le _)), bankGet_bankSet a x h]
    simp only [List.length_cons]
    by_cases e : i = a
    · subst e
      rw [if_neg (by omega), if_pos rfl, if_pos ⟨Nat.le_refl _, by omega⟩]
      simp
    · by_cases hx : a + 1 ≤ i ∧ i < a + 1 + r.length
      · rw [if_pos hx, if_pos (by omega), show i - a = i - (a + 1) + 1 by omega, List.getD_cons_succ]
      · rw [if_neg hx, if_neg e, if_neg (by omega)]

end Sys2Proof.Laws
end

