-- ==== Sys2Proof/Laws/Numbers.lean ====
section
/-!
SUPPORT. Object numbers (R295): as long as fewer numbers than the field has are taken, a free one is found, whatever the free
starting point is.
-/

namespace Sys2Proof.Laws

open Sys2Proof.Machine

/-- A list without repeats is no longer than a list that holds all of it. -/
theorem length_le_of_nodup_subset {α : Type} [DecidableEq α] : ∀ {a b : List α}, a.Nodup → (∀ x ∈ a, x ∈ b) → a.length ≤ b.length
  | [], _, _, _ => Nat.zero_le _
  | x :: a, b, hn, hs => by
    have hx : x ∈ b := hs x (List.mem_cons_self ..)
    have ht := List.nodup_cons.mp hn
    have := length_le_of_nodup_subset (a := a) (b := b.erase x) ht.2 fun y hy =>
      (List.mem_erase_of_ne fun (e : y = x) => ht.1 (e ▸ hy)).mpr (hs y (List.mem_cons_of_mem _ hy))
    rw [List.length_erase_of_mem hx] at this
    have hp : 0 < b.length := List.length_pos_of_mem hx
    simp only [List.length_cons]
    omega

/-- The numbers that something in the state may bear. -/
def takenList (s : State) : List Nat :=
  s.objects.map (·.key.number) ++ s.shoots.map (·.obj.number) ++ s.launches.flatMap fun l => l.handles.map fun h => (handleKey h).number

theorem takenList_length (s : State) : (takenList s).length = takenNumbers s := by
  simp [takenList, takenNumbers, List.length_flatMap, Nat.add_assoc]

theorem mem_takenList (s : State) (k : ObjKey) (h : numberFree s k = false) : k.number ∈ takenList s := by
  simp only [numberFree, Bool.and_eq_false_iff, Bool.not_eq_false', List.any_eq_true, Bool.and_eq_true, beq_iff_eq] at h
  simp only [takenList, List.mem_append, List.mem_map, List.mem_flatMap]
  rcases h with (⟨o, ho, e, _⟩ | ⟨x, hx, e⟩) | ⟨l, hl, _, d, hd, e⟩
  · exact .inl (.inl ⟨o, ho, by rw [e]⟩)
  · exact .inl (.inr ⟨x, hx, by rw [e]⟩)
  · exact .inr ⟨l, hl, d, hd, by rw [e]⟩

theorem candidates_nodup (d n : Nat) (h : n ≤ 2 ^ 24) : ((List.range n).map fun i => (d + i) % 2 ^ 24).Nodup := by
  rw [List.nodup_iff_pairwise_ne, List.pairwise_map]
  refine List.Pairwise.imp_of_mem (R := (· < ·)) ?_ List.pairwise_lt_range
  intro a b ha hb hab
  have := List.mem_range.mp ha
  have := List.mem_range.mp hb
  omega

/-- R295: a number is found while fewer than 2^24 are taken. -/
theorem pickNumber_ne_none (s : State) (h : takenNumbers s < 2 ^ 24) : pickNumber s ≠ none := by
  intro hn
  rw [pickNumber, List.find?_eq_none] at hn
  have hsub : ∀ x ∈ (List.range (takenNumbers s + 1)).map (fun i => (Config.objectNumber s.drawn + i) % 2 ^ 24), x ∈ takenList s :=
    fun x hx => mem_takenList s ⟨s.package, x⟩ (by simpa using hn x hx)
  have := length_le_of_nodup_subset (candidates_nodup _ _ (by omega)) hsub
  rw [takenList_length, List.length_map, List.length_range] at this
  omega

end Sys2Proof.Laws
end

