-- ==== Sys2Proof/Laws/State.lean ====
section
/-!
SUPPORT. What each named update of the state leaves and what it changes: one equation for each field and update, so that no
proof unfolds a record update.
-/

namespace Sys2Proof.Machine

/-! ## The acting core changed -/

@[simp] theorem modCore_parked (s : State) (f : CoreRec → CoreRec) : (modCore s f).parked = s.parked := rfl
@[simp] theorem modCore_issue (s : State) (f : CoreRec → CoreRec) : (modCore s f).issue = s.issue := rfl
@[simp] theorem modCore_cmds (s : State) (f : CoreRec → CoreRec) : (modCore s f).cmds = s.cmds := rfl
@[simp] theorem modCore_nextId (s : State) (f : CoreRec → CoreRec) : (modCore s f).nextId = s.nextId := rfl
@[simp] theorem modCore_objects (s : State) (f : CoreRec → CoreRec) : (modCore s f).objects = s.objects := rfl
@[simp] theorem modCore_sets (s : State) (f : CoreRec → CoreRec) : (modCore s f).sets = s.sets := rfl
@[simp] theorem modCore_actions (s : State) (f : CoreRec → CoreRec) : (modCore s f).actions = s.actions := rfl
@[simp] theorem modCore_moves (s : State) (f : CoreRec → CoreRec) : (modCore s f).moves = s.moves := rfl
@[simp] theorem modCore_lines (s : State) (f : CoreRec → CoreRec) : (modCore s f).lines = s.lines := rfl
@[simp] theorem modCore_blocks (s : State) (f : CoreRec → CoreRec) : (modCore s f).blocks = s.blocks := rfl
@[simp] theorem modCore_pageUse (s : State) (f : CoreRec → CoreRec) : (modCore s f).pageUse = s.pageUse := rfl
@[simp] theorem modCore_launches (s : State) (f : CoreRec → CoreRec) : (modCore s f).launches = s.launches := rfl
@[simp] theorem modCore_streams (s : State) (f : CoreRec → CoreRec) : (modCore s f).streams = s.streams := rfl
@[simp] theorem modCore_completions (s : State) (f : CoreRec → CoreRec) : (modCore s f).completions = s.completions := rfl
@[simp] theorem modCore_partitions (s : State) (f : CoreRec → CoreRec) : (modCore s f).partitions = s.partitions := rfl
@[simp] theorem modCore_calls (s : State) (f : CoreRec → CoreRec) : (modCore s f).calls = s.calls := rfl
@[simp] theorem modCore_pools (s : State) (f : CoreRec → CoreRec) : (modCore s f).pools = s.pools := rfl
@[simp] theorem modCore_xlats (s : State) (f : CoreRec → CoreRec) : (modCore s f).xlats = s.xlats := rfl
@[simp] theorem modCore_shoots (s : State) (f : CoreRec → CoreRec) : (modCore s f).shoots = s.shoots := rfl
@[simp] theorem modCore_bad (s : State) (f : CoreRec → CoreRec) : (modCore s f).bad = s.bad := rfl
@[simp] theorem modCore_lostLinks (s : State) (f : CoreRec → CoreRec) : (modCore s f).lostLinks = s.lostLinks := rfl
@[simp] theorem modCore_failedPackages (s : State) (f : CoreRec → CoreRec) : (modCore s f).failedPackages = s.failedPackages := rfl
@[simp] theorem modCore_flitErrors (s : State) (f : CoreRec → CoreRec) : (modCore s f).flitErrors = s.flitErrors := rfl
@[simp] theorem modCore_ports (s : State) (f : CoreRec → CoreRec) : (modCore s f).ports = s.ports := rfl
@[simp] theorem modCore_portCounts (s : State) (f : CoreRec → CoreRec) : (modCore s f).portCounts = s.portCounts := rfl
@[simp] theorem modCore_macBase (s : State) (f : CoreRec → CoreRec) : (modCore s f).macBase = s.macBase := rfl
@[simp] theorem modCore_receivers (s : State) (f : CoreRec → CoreRec) : (modCore s f).receivers = s.receivers := rfl
@[simp] theorem modCore_conns (s : State) (f : CoreRec → CoreRec) : (modCore s f).conns = s.conns := rfl
@[simp] theorem modCore_sends (s : State) (f : CoreRec → CoreRec) : (modCore s f).sends = s.sends := rfl
@[simp] theorem modCore_wire (s : State) (f : CoreRec → CoreRec) : (modCore s f).wire = s.wire := rfl
@[simp] theorem modCore_power (s : State) (f : CoreRec → CoreRec) : (modCore s f).power = s.power := rfl
@[simp] theorem modCore_measure (s : State) (f : CoreRec → CoreRec) : (modCore s f).measure = s.measure := rfl
@[simp] theorem modCore_clocks (s : State) (f : CoreRec → CoreRec) : (modCore s f).clocks = s.clocks := rfl
@[simp] theorem modCore_fuses (s : State) (f : CoreRec → CoreRec) : (modCore s f).fuses = s.fuses := rfl
@[simp] theorem modCore_defects (s : State) (f : CoreRec → CoreRec) : (modCore s f).defects = s.defects := rfl
@[simp] theorem modCore_recorded (s : State) (f : CoreRec → CoreRec) : (modCore s f).recorded = s.recorded := rfl
@[simp] theorem modCore_stored (s : State) (f : CoreRec → CoreRec) : (modCore s f).stored = s.stored := rfl
@[simp] theorem modCore_device (s : State) (f : CoreRec → CoreRec) : (modCore s f).device = s.device := rfl
@[simp] theorem modCore_package (s : State) (f : CoreRec → CoreRec) : (modCore s f).package = s.package := rfl
@[simp] theorem modCore_owner (s : State) (f : CoreRec → CoreRec) : (modCore s f).owner = s.owner := rfl
@[simp] theorem modCore_micros (s : State) (f : CoreRec → CoreRec) : (modCore s f).micros = s.micros := rfl
@[simp] theorem modCore_parity (s : State) (f : CoreRec → CoreRec) : (modCore s f).parity = s.parity := rfl
@[simp] theorem modCore_spoiled (s : State) (f : CoreRec → CoreRec) : (modCore s f).spoiled = s.spoiled := rfl
@[simp] theorem modCore_corrected (s : State) (f : CoreRec → CoreRec) : (modCore s f).corrected = s.corrected := rfl
@[simp] theorem modCore_drawn (s : State) (f : CoreRec → CoreRec) : (modCore s f).drawn = s.drawn := rfl
@[simp] theorem modCore_schedule (s : State) (f : CoreRec → CoreRec) : (modCore s f).schedule = s.schedule := rfl

@[simp] theorem modCore_core (s : State) (f : CoreRec → CoreRec) : (modCore s f).core = f s.core := rfl

/-! ## The acting context changed -/

@[simp] theorem modCtx_parked (s : State) (f : Ctx → Ctx) : (modCtx s f).parked = s.parked := rfl
@[simp] theorem modCtx_issue (s : State) (f : Ctx → Ctx) : (modCtx s f).issue = s.issue := rfl
@[simp] theorem modCtx_cmds (s : State) (f : Ctx → Ctx) : (modCtx s f).cmds = s.cmds := rfl
@[simp] theorem modCtx_nextId (s : State) (f : Ctx → Ctx) : (modCtx s f).nextId = s.nextId := rfl
@[simp] theorem modCtx_objects (s : State) (f : Ctx → Ctx) : (modCtx s f).objects = s.objects := rfl
@[simp] theorem modCtx_sets (s : State) (f : Ctx → Ctx) : (modCtx s f).sets = s.sets := rfl
@[simp] theorem modCtx_actions (s : State) (f : Ctx → Ctx) : (modCtx s f).actions = s.actions := rfl
@[simp] theorem modCtx_moves (s : State) (f : Ctx → Ctx) : (modCtx s f).moves = s.moves := rfl
@[simp] theorem modCtx_lines (s : State) (f : Ctx → Ctx) : (modCtx s f).lines = s.lines := rfl
@[simp] theorem modCtx_blocks (s : State) (f : Ctx → Ctx) : (modCtx s f).blocks = s.blocks := rfl
@[simp] theorem modCtx_pageUse (s : State) (f : Ctx → Ctx) : (modCtx s f).pageUse = s.pageUse := rfl
@[simp] theorem modCtx_launches (s : State) (f : Ctx → Ctx) : (modCtx s f).launches = s.launches := rfl
@[simp] theorem modCtx_streams (s : State) (f : Ctx → Ctx) : (modCtx s f).streams = s.streams := rfl
@[simp] theorem modCtx_completions (s : State) (f : Ctx → Ctx) : (modCtx s f).completions = s.completions := rfl
@[simp] theorem modCtx_partitions (s : State) (f : Ctx → Ctx) : (modCtx s f).partitions = s.partitions := rfl
@[simp] theorem modCtx_calls (s : State) (f : Ctx → Ctx) : (modCtx s f).calls = s.calls := rfl
@[simp] theorem modCtx_pools (s : State) (f : Ctx → Ctx) : (modCtx s f).pools = s.pools := rfl
@[simp] theorem modCtx_xlats (s : State) (f : Ctx → Ctx) : (modCtx s f).xlats = s.xlats := rfl
@[simp] theorem modCtx_shoots (s : State) (f : Ctx → Ctx) : (modCtx s f).shoots = s.shoots := rfl
@[simp] theorem modCtx_bad (s : State) (f : Ctx → Ctx) : (modCtx s f).bad = s.bad := rfl
@[simp] theorem modCtx_lostLinks (s : State) (f : Ctx → Ctx) : (modCtx s f).lostLinks = s.lostLinks := rfl
@[simp] theorem modCtx_failedPackages (s : State) (f : Ctx → Ctx) : (modCtx s f).failedPackages = s.failedPackages := rfl
@[simp] theorem modCtx_flitErrors (s : State) (f : Ctx → Ctx) : (modCtx s f).flitErrors = s.flitErrors := rfl
@[simp] theorem modCtx_ports (s : State) (f : Ctx → Ctx) : (modCtx s f).ports = s.ports := rfl
@[simp] theorem modCtx_portCounts (s : State) (f : Ctx → Ctx) : (modCtx s f).portCounts = s.portCounts := rfl
@[simp] theorem modCtx_macBase (s : State) (f : Ctx → Ctx) : (modCtx s f).macBase = s.macBase := rfl
@[simp] theorem modCtx_receivers (s : State) (f : Ctx → Ctx) : (modCtx s f).receivers = s.receivers := rfl
@[simp] theorem modCtx_conns (s : State) (f : Ctx → Ctx) : (modCtx s f).conns = s.conns := rfl
@[simp] theorem modCtx_sends (s : State) (f : Ctx → Ctx) : (modCtx s f).sends = s.sends := rfl
@[simp] theorem modCtx_wire (s : State) (f : Ctx → Ctx) : (modCtx s f).wire = s.wire := rfl
@[simp] theorem modCtx_power (s : State) (f : Ctx → Ctx) : (modCtx s f).power = s.power := rfl
@[simp] theorem modCtx_measure (s : State) (f : Ctx → Ctx) : (modCtx s f).measure = s.measure := rfl
@[simp] theorem modCtx_clocks (s : State) (f : Ctx → Ctx) : (modCtx s f).clocks = s.clocks := rfl
@[simp] theorem modCtx_fuses (s : State) (f : Ctx → Ctx) : (modCtx s f).fuses = s.fuses := rfl
@[simp] theorem modCtx_defects (s : State) (f : Ctx → Ctx) : (modCtx s f).defects = s.defects := rfl
@[simp] theorem modCtx_recorded (s : State) (f : Ctx → Ctx) : (modCtx s f).recorded = s.recorded := rfl
@[simp] theorem modCtx_stored (s : State) (f : Ctx → Ctx) : (modCtx s f).stored = s.stored := rfl
@[simp] theorem modCtx_device (s : State) (f : Ctx → Ctx) : (modCtx s f).device = s.device := rfl
@[simp] theorem modCtx_package (s : State) (f : Ctx → Ctx) : (modCtx s f).package = s.package := rfl
@[simp] theorem modCtx_owner (s : State) (f : Ctx → Ctx) : (modCtx s f).owner = s.owner := rfl
@[simp] theorem modCtx_micros (s : State) (f : Ctx → Ctx) : (modCtx s f).micros = s.micros := rfl
@[simp] theorem modCtx_parity (s : State) (f : Ctx → Ctx) : (modCtx s f).parity = s.parity := rfl
@[simp] theorem modCtx_spoiled (s : State) (f : Ctx → Ctx) : (modCtx s f).spoiled = s.spoiled := rfl
@[simp] theorem modCtx_corrected (s : State) (f : Ctx → Ctx) : (modCtx s f).corrected = s.corrected := rfl
@[simp] theorem modCtx_drawn (s : State) (f : Ctx → Ctx) : (modCtx s f).drawn = s.drawn := rfl
@[simp] theorem modCtx_schedule (s : State) (f : Ctx → Ctx) : (modCtx s f).schedule = s.schedule := rfl

@[simp] theorem modCtx_core_id (s : State) (f : Ctx → Ctx) : (modCtx s f).core.id = s.core.id := rfl
@[simp] theorem modCtx_core_launch (s : State) (f : Ctx → Ctx) : (modCtx s f).core.launch = s.core.launch := rfl
@[simp] theorem modCtx_core_team (s : State) (f : Ctx → Ctx) : (modCtx s f).core.team = s.core.team := rfl
@[simp] theorem modCtx_core_rel (s : State) (f : Ctx → Ctx) : (modCtx s f).core.rel = s.core.rel := rfl
@[simp] theorem modCtx_core_place (s : State) (f : Ctx → Ctx) : (modCtx s f).core.place = s.core.place := rfl
@[simp] theorem modCtx_core_cur (s : State) (f : Ctx → Ctx) : (modCtx s f).core.cur = s.core.cur := rfl
@[simp] theorem modCtx_core_yielded (s : State) (f : Ctx → Ctx) : (modCtx s f).core.yielded = s.core.yielded := rfl
@[simp] theorem modCtx_core_cycle (s : State) (f : Ctx → Ctx) : (modCtx s f).core.cycle = s.core.cycle := rfl
@[simp] theorem modCtx_core_tiles (s : State) (f : Ctx → Ctx) : (modCtx s f).core.tiles = s.core.tiles := rfl
@[simp] theorem modCtx_core_scratch (s : State) (f : Ctx → Ctx) : (modCtx s f).core.scratch = s.core.scratch := rfl
@[simp] theorem modCtx_core_unseen (s : State) (f : Ctx → Ctx) : (modCtx s f).core.unseen = s.core.unseen := rfl
@[simp] theorem modCtx_core_banks (s : State) (f : Ctx → Ctx) : (modCtx s f).core.banks = s.core.banks := rfl
@[simp] theorem modCtx_core_tags (s : State) (f : Ctx → Ctx) : (modCtx s f).core.tags = s.core.tags := rfl
@[simp] theorem modCtx_core_bankRead (s : State) (f : Ctx → Ctx) : (modCtx s f).core.bankRead = s.core.bankRead := rfl
@[simp] theorem modCtx_core_rowWritten (s : State) (f : Ctx → Ctx) : (modCtx s f).core.rowWritten = s.core.rowWritten := rfl
@[simp] theorem modCtx_core_active (s : State) (f : Ctx → Ctx) : (modCtx s f).core.active = s.core.active := rfl
@[simp] theorem modCtx_core_shadowPlane (s : State) (f : Ctx → Ctx) : (modCtx s f).core.shadowPlane = s.core.shadowPlane := rfl
@[simp] theorem modCtx_core_fresh (s : State) (f : Ctx → Ctx) : (modCtx s f).core.fresh = s.core.fresh := rfl
@[simp] theorem modCtx_core_planeRead (s : State) (f : Ctx → Ctx) : (modCtx s f).core.planeRead = s.core.planeRead := rfl
@[simp] theorem modCtx_core_preSwap (s : State) (f : Ctx → Ctx) : (modCtx s f).core.preSwap = s.core.preSwap := rfl
@[simp] theorem modCtx_core_shadowRegion (s : State) (f : Ctx → Ctx) : (modCtx s f).core.shadowRegion = s.core.shadowRegion := rfl
@[simp] theorem modCtx_core_streams (s : State) (f : Ctx → Ctx) : (modCtx s f).core.streams = s.core.streams := rfl
@[simp] theorem modCtx_core_load (s : State) (f : Ctx → Ctx) : (modCtx s f).core.load = s.core.load := rfl
@[simp] theorem modCtx_core_micro (s : State) (f : Ctx → Ctx) : (modCtx s f).core.micro = s.core.micro := rfl

/-- The entry of a vector that has just been set. -/
theorem get_set_same {α : Type} {n : Nat} (v : Vector α n) (i : Fin n) (x : α) : (v.set i.val x i.isLt).get i = x := by
  show (v.set i.val x i.isLt)[i.val] = x
  simp

@[simp] theorem curCtx_modCtx (s : State) (f : Ctx → Ctx) : curCtx (modCtx s f) = f (curCtx s) := by
  simp [curCtx, modCtx, modCore, get_set_same]

/-! ## The live registers changed -/

@[simp] theorem modLive_parked (s : State) (f : Regs → Regs) : (modLive s f).parked = s.parked := rfl
@[simp] theorem modLive_issue (s : State) (f : Regs → Regs) : (modLive s f).issue = s.issue := rfl
@[simp] theorem modLive_cmds (s : State) (f : Regs → Regs) : (modLive s f).cmds = s.cmds := rfl
@[simp] theorem modLive_nextId (s : State) (f : Regs → Regs) : (modLive s f).nextId = s.nextId := rfl
@[simp] theorem modLive_objects (s : State) (f : Regs → Regs) : (modLive s f).objects = s.objects := rfl
@[simp] theorem modLive_sets (s : State) (f : Regs → Regs) : (modLive s f).sets = s.sets := rfl
@[simp] theorem modLive_actions (s : State) (f : Regs → Regs) : (modLive s f).actions = s.actions := rfl
@[simp] theorem modLive_moves (s : State) (f : Regs → Regs) : (modLive s f).moves = s.moves := rfl
@[simp] theorem modLive_lines (s : State) (f : Regs → Regs) : (modLive s f).lines = s.lines := rfl
@[simp] theorem modLive_blocks (s : State) (f : Regs → Regs) : (modLive s f).blocks = s.blocks := rfl
@[simp] theorem modLive_pageUse (s : State) (f : Regs → Regs) : (modLive s f).pageUse = s.pageUse := rfl
@[simp] theorem modLive_launches (s : State) (f : Regs → Regs) : (modLive s f).launches = s.launches := rfl
@[simp] theorem modLive_streams (s : State) (f : Regs → Regs) : (modLive s f).streams = s.streams := rfl
@[simp] theorem modLive_completions (s : State) (f : Regs → Regs) : (modLive s f).completions = s.completions := rfl
@[simp] theorem modLive_partitions (s : State) (f : Regs → Regs) : (modLive s f).partitions = s.partitions := rfl
@[simp] theorem modLive_calls (s : State) (f : Regs → Regs) : (modLive s f).calls = s.calls := rfl
@[simp] theorem modLive_pools (s : State) (f : Regs → Regs) : (modLive s f).pools = s.pools := rfl
@[simp] theorem modLive_xlats (s : State) (f : Regs → Regs) : (modLive s f).xlats = s.xlats := rfl
@[simp] theorem modLive_shoots (s : State) (f : Regs → Regs) : (modLive s f).shoots = s.shoots := rfl
@[simp] theorem modLive_bad (s : State) (f : Regs → Regs) : (modLive s f).bad = s.bad := rfl
@[simp] theorem modLive_lostLinks (s : State) (f : Regs → Regs) : (modLive s f).lostLinks = s.lostLinks := rfl
@[simp] theorem modLive_failedPackages (s : State) (f : Regs → Regs) : (modLive s f).failedPackages = s.failedPackages := rfl
@[simp] theorem modLive_flitErrors (s : State) (f : Regs → Regs) : (modLive s f).flitErrors = s.flitErrors := rfl
@[simp] theorem modLive_ports (s : State) (f : Regs → Regs) : (modLive s f).ports = s.ports := rfl
@[simp] theorem modLive_portCounts (s : State) (f : Regs → Regs) : (modLive s f).portCounts = s.portCounts := rfl
@[simp] theorem modLive_macBase (s : State) (f : Regs → Regs) : (modLive s f).macBase = s.macBase := rfl
@[simp] theorem modLive_receivers (s : State) (f : Regs → Regs) : (modLive s f).receivers = s.receivers := rfl
@[simp] theorem modLive_conns (s : State) (f : Regs → Regs) : (modLive s f).conns = s.conns := rfl
@[simp] theorem modLive_sends (s : State) (f : Regs → Regs) : (modLive s f).sends = s.sends := rfl
@[simp] theorem modLive_wire (s : State) (f : Regs → Regs) : (modLive s f).wire = s.wire := rfl
@[simp] theorem modLive_power (s : State) (f : Regs → Regs) : (modLive s f).power = s.power := rfl
@[simp] theorem modLive_measure (s : State) (f : Regs → Regs) : (modLive s f).measure = s.measure := rfl
@[simp] theorem modLive_clocks (s : State) (f : Regs → Regs) : (modLive s f).clocks = s.clocks := rfl
@[simp] theorem modLive_fuses (s : State) (f : Regs → Regs) : (modLive s f).fuses = s.fuses := rfl
@[simp] theorem modLive_defects (s : State) (f : Regs → Regs) : (modLive s f).defects = s.defects := rfl
@[simp] theorem modLive_recorded (s : State) (f : Regs → Regs) : (modLive s f).recorded = s.recorded := rfl
@[simp] theorem modLive_stored (s : State) (f : Regs → Regs) : (modLive s f).stored = s.stored := rfl
@[simp] theorem modLive_device (s : State) (f : Regs → Regs) : (modLive s f).device = s.device := rfl
@[simp] theorem modLive_package (s : State) (f : Regs → Regs) : (modLive s f).package = s.package := rfl
@[simp] theorem modLive_owner (s : State) (f : Regs → Regs) : (modLive s f).owner = s.owner := rfl
@[simp] theorem modLive_micros (s : State) (f : Regs → Regs) : (modLive s f).micros = s.micros := rfl
@[simp] theorem modLive_parity (s : State) (f : Regs → Regs) : (modLive s f).parity = s.parity := rfl
@[simp] theorem modLive_spoiled (s : State) (f : Regs → Regs) : (modLive s f).spoiled = s.spoiled := rfl
@[simp] theorem modLive_corrected (s : State) (f : Regs → Regs) : (modLive s f).corrected = s.corrected := rfl
@[simp] theorem modLive_drawn (s : State) (f : Regs → Regs) : (modLive s f).drawn = s.drawn := rfl
@[simp] theorem modLive_schedule (s : State) (f : Regs → Regs) : (modLive s f).schedule = s.schedule := rfl

@[simp] theorem modLive_core_id (s : State) (f : Regs → Regs) : (modLive s f).core.id = s.core.id := rfl
@[simp] theorem modLive_core_launch (s : State) (f : Regs → Regs) : (modLive s f).core.launch = s.core.launch := rfl
@[simp] theorem modLive_core_team (s : State) (f : Regs → Regs) : (modLive s f).core.team = s.core.team := rfl
@[simp] theorem modLive_core_rel (s : State) (f : Regs → Regs) : (modLive s f).core.rel = s.core.rel := rfl
@[simp] theorem modLive_core_place (s : State) (f : Regs → Regs) : (modLive s f).core.place = s.core.place := rfl
@[simp] theorem modLive_core_cur (s : State) (f : Regs → Regs) : (modLive s f).core.cur = s.core.cur := rfl
@[simp] theorem modLive_core_yielded (s : State) (f : Regs → Regs) : (modLive s f).core.yielded = s.core.yielded := rfl
@[simp] theorem modLive_core_cycle (s : State) (f : Regs → Regs) : (modLive s f).core.cycle = s.core.cycle := rfl
@[simp] theorem modLive_core_tiles (s : State) (f : Regs → Regs) : (modLive s f).core.tiles = s.core.tiles := rfl
@[simp] theorem modLive_core_scratch (s : State) (f : Regs → Regs) : (modLive s f).core.scratch = s.core.scratch := rfl
@[simp] theorem modLive_core_unseen (s : State) (f : Regs → Regs) : (modLive s f).core.unseen = s.core.unseen := rfl
@[simp] theorem modLive_core_banks (s : State) (f : Regs → Regs) : (modLive s f).core.banks = s.core.banks := rfl
@[simp] theorem modLive_core_tags (s : State) (f : Regs → Regs) : (modLive s f).core.tags = s.core.tags := rfl
@[simp] theorem modLive_core_bankRead (s : State) (f : Regs → Regs) : (modLive s f).core.bankRead = s.core.bankRead := rfl
@[simp] theorem modLive_core_rowWritten (s : State) (f : Regs → Regs) : (modLive s f).core.rowWritten = s.core.rowWritten := rfl
@[simp] theorem modLive_core_active (s : State) (f : Regs → Regs) : (modLive s f).core.active = s.core.active := rfl
@[simp] theorem modLive_core_shadowPlane (s : State) (f : Regs → Regs) : (modLive s f).core.shadowPlane = s.core.shadowPlane := rfl
@[simp] theorem modLive_core_fresh (s : State) (f : Regs → Regs) : (modLive s f).core.fresh = s.core.fresh := rfl
@[simp] theorem modLive_core_planeRead (s : State) (f : Regs → Regs) : (modLive s f).core.planeRead = s.core.planeRead := rfl
@[simp] theorem modLive_core_preSwap (s : State) (f : Regs → Regs) : (modLive s f).core.preSwap = s.core.preSwap := rfl
@[simp] theorem modLive_core_shadowRegion (s : State) (f : Regs → Regs) : (modLive s f).core.shadowRegion = s.core.shadowRegion := rfl
@[simp] theorem modLive_core_streams (s : State) (f : Regs → Regs) : (modLive s f).core.streams = s.core.streams := rfl
@[simp] theorem modLive_core_load (s : State) (f : Regs → Regs) : (modLive s f).core.load = s.core.load := rfl
@[simp] theorem modLive_core_micro (s : State) (f : Regs → Regs) : (modLive s f).core.micro = s.core.micro := rfl
@[simp] theorem curCtx_modLive_status (s : State) (f : Regs → Regs) : (curCtx (modLive s f)).status = (curCtx s).status := by simp [modLive]
@[simp] theorem curCtx_modLive_index (s : State) (f : Regs → Regs) : (curCtx (modLive s f)).index = (curCtx s).index := by simp [modLive]
@[simp] theorem curCtx_modLive_shadow (s : State) (f : Regs → Regs) : (curCtx (modLive s f)).shadow = (curCtx s).shadow := by simp [modLive]
@[simp] theorem curCtx_modLive_region (s : State) (f : Regs → Regs) : (curCtx (modLive s f)).region = (curCtx s).region := by simp [modLive]
@[simp] theorem curCtx_modLive_waiting (s : State) (f : Regs → Regs) : (curCtx (modLive s f)).waiting = (curCtx s).waiting := by simp [modLive]
@[simp] theorem curCtx_modLive_closing (s : State) (f : Regs → Regs) : (curCtx (modLive s f)).closing = (curCtx s).closing := by simp [modLive]
@[simp] theorem curCtx_modLive_withheld (s : State) (f : Regs → Regs) : (curCtx (modLive s f)).withheld = (curCtx s).withheld := by simp [modLive]
@[simp] theorem curCtx_modLive_drafts (s : State) (f : Regs → Regs) : (curCtx (modLive s f)).drafts = (curCtx s).drafts := by simp [modLive]
@[simp] theorem curCtx_modLive_pins (s : State) (f : Regs → Regs) : (curCtx (modLive s f)).pins = (curCtx s).pins := by simp [modLive]
@[simp] theorem curCtx_modLive_refusals (s : State) (f : Regs → Regs) : (curCtx (modLive s f)).refusals = (curCtx s).refusals := by simp [modLive]
@[simp] theorem curCtx_modLive_overflow (s : State) (f : Regs → Regs) : (curCtx (modLive s f)).overflow = (curCtx s).overflow := by simp [modLive]
@[simp] theorem curCtx_modLive_overflowMarked (s : State) (f : Regs → Regs) : (curCtx (modLive s f)).overflowMarked = (curCtx s).overflowMarked := by simp [modLive]
@[simp] theorem curCtx_modLive_binding (s : State) (f : Regs → Regs) : (curCtx (modLive s f)).binding = (curCtx s).binding := by simp [modLive]
@[simp] theorem curCtx_modLive_held (s : State) (f : Regs → Regs) : (curCtx (modLive s f)).held = (curCtx s).held := by simp [modLive]
@[simp] theorem curCtx_modLive_silence (s : State) (f : Regs → Regs) : (curCtx (modLive s f)).silence = (curCtx s).silence := by simp [modLive]
@[simp] theorem curCtx_modLive_trap (s : State) (f : Regs → Regs) : (curCtx (modLive s f)).trap = (curCtx s).trap := by simp [modLive]
@[simp] theorem curCtx_modLive_grace (s : State) (f : Regs → Regs) : (curCtx (modLive s f)).grace = (curCtx s).grace := by simp [modLive]
@[simp] theorem curCtx_modLive_atCheckpoint (s : State) (f : Regs → Regs) : (curCtx (modLive s f)).atCheckpoint = (curCtx s).atCheckpoint := by simp [modLive]
@[simp] theorem curCtx_modLive_draining (s : State) (f : Regs → Regs) : (curCtx (modLive s f)).draining = (curCtx s).draining := by simp [modLive]
@[simp] theorem curCtx_modLive_lags (s : State) (f : Regs → Regs) : (curCtx (modLive s f)).lags = (curCtx s).lags := by simp [modLive]
@[simp] theorem curCtx_modLive_defers (s : State) (f : Regs → Regs) : (curCtx (modLive s f)).defers = (curCtx s).defers := by simp [modLive]
@[simp] theorem curCtx_modLive_loads (s : State) (f : Regs → Regs) : (curCtx (modLive s f)).loads = (curCtx s).loads := by simp [modLive]
@[simp] theorem curCtx_modLive_holds (s : State) (f : Regs → Regs) : (curCtx (modLive s f)).holds = (curCtx s).holds := by simp [modLive]
@[simp] theorem curCtx_modLive_live (s : State) (f : Regs → Regs) : (curCtx (modLive s f)).live = f (curCtx s).live := by
  simp [modLive]

/-! ## A launch, a command, a partition, a team, an object, a tile changed -/

@[simp] theorem modLaunch_core (s : State) (id : Nat) (f : Launch → Launch) : (modLaunch s id f).core = s.core := rfl
@[simp] theorem modLaunch_parked (s : State) (id : Nat) (f : Launch → Launch) : (modLaunch s id f).parked = s.parked := rfl
@[simp] theorem modLaunch_issue (s : State) (id : Nat) (f : Launch → Launch) : (modLaunch s id f).issue = s.issue := rfl
@[simp] theorem modLaunch_cmds (s : State) (id : Nat) (f : Launch → Launch) : (modLaunch s id f).cmds = s.cmds := rfl
@[simp] theorem modLaunch_nextId (s : State) (id : Nat) (f : Launch → Launch) : (modLaunch s id f).nextId = s.nextId := rfl
@[simp] theorem modLaunch_objects (s : State) (id : Nat) (f : Launch → Launch) : (modLaunch s id f).objects = s.objects := rfl
@[simp] theorem modLaunch_sets (s : State) (id : Nat) (f : Launch → Launch) : (modLaunch s id f).sets = s.sets := rfl
@[simp] theorem modLaunch_actions (s : State) (id : Nat) (f : Launch → Launch) : (modLaunch s id f).actions = s.actions := rfl
@[simp] theorem modLaunch_moves (s : State) (id : Nat) (f : Launch → Launch) : (modLaunch s id f).moves = s.moves := rfl
@[simp] theorem modLaunch_lines (s : State) (id : Nat) (f : Launch → Launch) : (modLaunch s id f).lines = s.lines := rfl
@[simp] theorem modLaunch_blocks (s : State) (id : Nat) (f : Launch → Launch) : (modLaunch s id f).blocks = s.blocks := rfl
@[simp] theorem modLaunch_pageUse (s : State) (id : Nat) (f : Launch → Launch) : (modLaunch s id f).pageUse = s.pageUse := rfl
@[simp] theorem modLaunch_streams (s : State) (id : Nat) (f : Launch → Launch) : (modLaunch s id f).streams = s.streams := rfl
@[simp] theorem modLaunch_completions (s : State) (id : Nat) (f : Launch → Launch) : (modLaunch s id f).completions = s.completions := rfl
@[simp] theorem modLaunch_partitions (s : State) (id : Nat) (f : Launch → Launch) : (modLaunch s id f).partitions = s.partitions := rfl
@[simp] theorem modLaunch_calls (s : State) (id : Nat) (f : Launch → Launch) : (modLaunch s id f).calls = s.calls := rfl
@[simp] theorem modLaunch_pools (s : State) (id : Nat) (f : Launch → Launch) : (modLaunch s id f).pools = s.pools := rfl
@[simp] theorem modLaunch_xlats (s : State) (id : Nat) (f : Launch → Launch) : (modLaunch s id f).xlats = s.xlats := rfl
@[simp] theorem modLaunch_shoots (s : State) (id : Nat) (f : Launch → Launch) : (modLaunch s id f).shoots = s.shoots := rfl
@[simp] theorem modLaunch_bad (s : State) (id : Nat) (f : Launch → Launch) : (modLaunch s id f).bad = s.bad := rfl
@[simp] theorem modLaunch_lostLinks (s : State) (id : Nat) (f : Launch → Launch) : (modLaunch s id f).lostLinks = s.lostLinks := rfl
@[simp] theorem modLaunch_failedPackages (s : State) (id : Nat) (f : Launch → Launch) : (modLaunch s id f).failedPackages = s.failedPackages := rfl
@[simp] theorem modLaunch_flitErrors (s : State) (id : Nat) (f : Launch → Launch) : (modLaunch s id f).flitErrors = s.flitErrors := rfl
@[simp] theorem modLaunch_ports (s : State) (id : Nat) (f : Launch → Launch) : (modLaunch s id f).ports = s.ports := rfl
@[simp] theorem modLaunch_portCounts (s : State) (id : Nat) (f : Launch → Launch) : (modLaunch s id f).portCounts = s.portCounts := rfl
@[simp] theorem modLaunch_macBase (s : State) (id : Nat) (f : Launch → Launch) : (modLaunch s id f).macBase = s.macBase := rfl
@[simp] theorem modLaunch_receivers (s : State) (id : Nat) (f : Launch → Launch) : (modLaunch s id f).receivers = s.receivers := rfl
@[simp] theorem modLaunch_conns (s : State) (id : Nat) (f : Launch → Launch) : (modLaunch s id f).conns = s.conns := rfl
@[simp] theorem modLaunch_sends (s : State) (id : Nat) (f : Launch → Launch) : (modLaunch s id f).sends = s.sends := rfl
@[simp] theorem modLaunch_wire (s : State) (id : Nat) (f : Launch → Launch) : (modLaunch s id f).wire = s.wire := rfl
@[simp] theorem modLaunch_power (s : State) (id : Nat) (f : Launch → Launch) : (modLaunch s id f).power = s.power := rfl
@[simp] theorem modLaunch_measure (s : State) (id : Nat) (f : Launch → Launch) : (modLaunch s id f).measure = s.measure := rfl
@[simp] theorem modLaunch_clocks (s : State) (id : Nat) (f : Launch → Launch) : (modLaunch s id f).clocks = s.clocks := rfl
@[simp] theorem modLaunch_fuses (s : State) (id : Nat) (f : Launch → Launch) : (modLaunch s id f).fuses = s.fuses := rfl
@[simp] theorem modLaunch_defects (s : State) (id : Nat) (f : Launch → Launch) : (modLaunch s id f).defects = s.defects := rfl
@[simp] theorem modLaunch_recorded (s : State) (id : Nat) (f : Launch → Launch) : (modLaunch s id f).recorded = s.recorded := rfl
@[simp] theorem modLaunch_stored (s : State) (id : Nat) (f : Launch → Launch) : (modLaunch s id f).stored = s.stored := rfl
@[simp] theorem modLaunch_device (s : State) (id : Nat) (f : Launch → Launch) : (modLaunch s id f).device = s.device := rfl
@[simp] theorem modLaunch_package (s : State) (id : Nat) (f : Launch → Launch) : (modLaunch s id f).package = s.package := rfl
@[simp] theorem modLaunch_owner (s : State) (id : Nat) (f : Launch → Launch) : (modLaunch s id f).owner = s.owner := rfl
@[simp] theorem modLaunch_micros (s : State) (id : Nat) (f : Launch → Launch) : (modLaunch s id f).micros = s.micros := rfl
@[simp] theorem modLaunch_parity (s : State) (id : Nat) (f : Launch → Launch) : (modLaunch s id f).parity = s.parity := rfl
@[simp] theorem modLaunch_spoiled (s : State) (id : Nat) (f : Launch → Launch) : (modLaunch s id f).spoiled = s.spoiled := rfl
@[simp] theorem modLaunch_corrected (s : State) (id : Nat) (f : Launch → Launch) : (modLaunch s id f).corrected = s.corrected := rfl
@[simp] theorem modLaunch_drawn (s : State) (id : Nat) (f : Launch → Launch) : (modLaunch s id f).drawn = s.drawn := rfl
@[simp] theorem modLaunch_schedule (s : State) (id : Nat) (f : Launch → Launch) : (modLaunch s id f).schedule = s.schedule := rfl

@[simp] theorem modCmd_core (s : State) (id : Nat) (f : Cmd → Cmd) : (modCmd s id f).core = s.core := rfl
@[simp] theorem modCmd_parked (s : State) (id : Nat) (f : Cmd → Cmd) : (modCmd s id f).parked = s.parked := rfl
@[simp] theorem modCmd_issue (s : State) (id : Nat) (f : Cmd → Cmd) : (modCmd s id f).issue = s.issue := rfl
@[simp] theorem modCmd_nextId (s : State) (id : Nat) (f : Cmd → Cmd) : (modCmd s id f).nextId = s.nextId := rfl
@[simp] theorem modCmd_objects (s : State) (id : Nat) (f : Cmd → Cmd) : (modCmd s id f).objects = s.objects := rfl
@[simp] theorem modCmd_sets (s : State) (id : Nat) (f : Cmd → Cmd) : (modCmd s id f).sets = s.sets := rfl
@[simp] theorem modCmd_actions (s : State) (id : Nat) (f : Cmd → Cmd) : (modCmd s id f).actions = s.actions := rfl
@[simp] theorem modCmd_moves (s : State) (id : Nat) (f : Cmd → Cmd) : (modCmd s id f).moves = s.moves := rfl
@[simp] theorem modCmd_lines (s : State) (id : Nat) (f : Cmd → Cmd) : (modCmd s id f).lines = s.lines := rfl
@[simp] theorem modCmd_blocks (s : State) (id : Nat) (f : Cmd → Cmd) : (modCmd s id f).blocks = s.blocks := rfl
@[simp] theorem modCmd_pageUse (s : State) (id : Nat) (f : Cmd → Cmd) : (modCmd s id f).pageUse = s.pageUse := rfl
@[simp] theorem modCmd_launches (s : State) (id : Nat) (f : Cmd → Cmd) : (modCmd s id f).launches = s.launches := rfl
@[simp] theorem modCmd_streams (s : State) (id : Nat) (f : Cmd → Cmd) : (modCmd s id f).streams = s.streams := rfl
@[simp] theorem modCmd_completions (s : State) (id : Nat) (f : Cmd → Cmd) : (modCmd s id f).completions = s.completions := rfl
@[simp] theorem modCmd_partitions (s : State) (id : Nat) (f : Cmd → Cmd) : (modCmd s id f).partitions = s.partitions := rfl
@[simp] theorem modCmd_calls (s : State) (id : Nat) (f : Cmd → Cmd) : (modCmd s id f).calls = s.calls := rfl
@[simp] theorem modCmd_pools (s : State) (id : Nat) (f : Cmd → Cmd) : (modCmd s id f).pools = s.pools := rfl
@[simp] theorem modCmd_xlats (s : State) (id : Nat) (f : Cmd → Cmd) : (modCmd s id f).xlats = s.xlats := rfl
@[simp] theorem modCmd_shoots (s : State) (id : Nat) (f : Cmd → Cmd) : (modCmd s id f).shoots = s.shoots := rfl
@[simp] theorem modCmd_bad (s : State) (id : Nat) (f : Cmd → Cmd) : (modCmd s id f).bad = s.bad := rfl
@[simp] theorem modCmd_lostLinks (s : State) (id : Nat) (f : Cmd → Cmd) : (modCmd s id f).lostLinks = s.lostLinks := rfl
@[simp] theorem modCmd_failedPackages (s : State) (id : Nat) (f : Cmd → Cmd) : (modCmd s id f).failedPackages = s.failedPackages := rfl
@[simp] theorem modCmd_flitErrors (s : State) (id : Nat) (f : Cmd → Cmd) : (modCmd s id f).flitErrors = s.flitErrors := rfl
@[simp] theorem modCmd_ports (s : State) (id : Nat) (f : Cmd → Cmd) : (modCmd s id f).ports = s.ports := rfl
@[simp] theorem modCmd_portCounts (s : State) (id : Nat) (f : Cmd → Cmd) : (modCmd s id f).portCounts = s.portCounts := rfl
@[simp] theorem modCmd_macBase (s : State) (id : Nat) (f : Cmd → Cmd) : (modCmd s id f).macBase = s.macBase := rfl
@[simp] theorem modCmd_receivers (s : State) (id : Nat) (f : Cmd → Cmd) : (modCmd s id f).receivers = s.receivers := rfl
@[simp] theorem modCmd_conns (s : State) (id : Nat) (f : Cmd → Cmd) : (modCmd s id f).conns = s.conns := rfl
@[simp] theorem modCmd_sends (s : State) (id : Nat) (f : Cmd → Cmd) : (modCmd s id f).sends = s.sends := rfl
@[simp] theorem modCmd_wire (s : State) (id : Nat) (f : Cmd → Cmd) : (modCmd s id f).wire = s.wire := rfl
@[simp] theorem modCmd_power (s : State) (id : Nat) (f : Cmd → Cmd) : (modCmd s id f).power = s.power := rfl
@[simp] theorem modCmd_measure (s : State) (id : Nat) (f : Cmd → Cmd) : (modCmd s id f).measure = s.measure := rfl
@[simp] theorem modCmd_clocks (s : State) (id : Nat) (f : Cmd → Cmd) : (modCmd s id f).clocks = s.clocks := rfl
@[simp] theorem modCmd_fuses (s : State) (id : Nat) (f : Cmd → Cmd) : (modCmd s id f).fuses = s.fuses := rfl
@[simp] theorem modCmd_defects (s : State) (id : Nat) (f : Cmd → Cmd) : (modCmd s id f).defects = s.defects := rfl
@[simp] theorem modCmd_recorded (s : State) (id : Nat) (f : Cmd → Cmd) : (modCmd s id f).recorded = s.recorded := rfl
@[simp] theorem modCmd_stored (s : State) (id : Nat) (f : Cmd → Cmd) : (modCmd s id f).stored = s.stored := rfl
@[simp] theorem modCmd_device (s : State) (id : Nat) (f : Cmd → Cmd) : (modCmd s id f).device = s.device := rfl
@[simp] theorem modCmd_package (s : State) (id : Nat) (f : Cmd → Cmd) : (modCmd s id f).package = s.package := rfl
@[simp] theorem modCmd_owner (s : State) (id : Nat) (f : Cmd → Cmd) : (modCmd s id f).owner = s.owner := rfl
@[simp] theorem modCmd_micros (s : State) (id : Nat) (f : Cmd → Cmd) : (modCmd s id f).micros = s.micros := rfl
@[simp] theorem modCmd_parity (s : State) (id : Nat) (f : Cmd → Cmd) : (modCmd s id f).parity = s.parity := rfl
@[simp] theorem modCmd_spoiled (s : State) (id : Nat) (f : Cmd → Cmd) : (modCmd s id f).spoiled = s.spoiled := rfl
@[simp] theorem modCmd_corrected (s : State) (id : Nat) (f : Cmd → Cmd) : (modCmd s id f).corrected = s.corrected := rfl
@[simp] theorem modCmd_drawn (s : State) (id : Nat) (f : Cmd → Cmd) : (modCmd s id f).drawn = s.drawn := rfl
@[simp] theorem modCmd_schedule (s : State) (id : Nat) (f : Cmd → Cmd) : (modCmd s id f).schedule = s.schedule := rfl

@[simp] theorem dropCmd_core (s : State) (id : Nat) : (dropCmd s id).core = s.core := rfl
@[simp] theorem dropCmd_parked (s : State) (id : Nat) : (dropCmd s id).parked = s.parked := rfl
@[simp] theorem dropCmd_issue (s : State) (id : Nat) : (dropCmd s id).issue = s.issue := rfl
@[simp] theorem dropCmd_nextId (s : State) (id : Nat) : (dropCmd s id).nextId = s.nextId := rfl
@[simp] theorem dropCmd_objects (s : State) (id : Nat) : (dropCmd s id).objects = s.objects := rfl
@[simp] theorem dropCmd_sets (s : State) (id : Nat) : (dropCmd s id).sets = s.sets := rfl
@[simp] theorem dropCmd_actions (s : State) (id : Nat) : (dropCmd s id).actions = s.actions := rfl
@[simp] theorem dropCmd_moves (s : State) (id : Nat) : (dropCmd s id).moves = s.moves := rfl
@[simp] theorem dropCmd_lines (s : State) (id : Nat) : (dropCmd s id).lines = s.lines := rfl
@[simp] theorem dropCmd_blocks (s : State) (id : Nat) : (dropCmd s id).blocks = s.blocks := rfl
@[simp] theorem dropCmd_pageUse (s : State) (id : Nat) : (dropCmd s id).pageUse = s.pageUse := rfl
@[simp] theorem dropCmd_launches (s : State) (id : Nat) : (dropCmd s id).launches = s.launches := rfl
@[simp] theorem dropCmd_streams (s : State) (id : Nat) : (dropCmd s id).streams = s.streams := rfl
@[simp] theorem dropCmd_completions (s : State) (id : Nat) : (dropCmd s id).completions = s.completions := rfl
@[simp] theorem dropCmd_partitions (s : State) (id : Nat) : (dropCmd s id).partitions = s.partitions := rfl
@[simp] theorem dropCmd_calls (s : State) (id : Nat) : (dropCmd s id).calls = s.calls := rfl
@[simp] theorem dropCmd_pools (s : State) (id : Nat) : (dropCmd s id).pools = s.pools := rfl
@[simp] theorem dropCmd_xlats (s : State) (id : Nat) : (dropCmd s id).xlats = s.xlats := rfl
@[simp] theorem dropCmd_shoots (s : State) (id : Nat) : (dropCmd s id).shoots = s.shoots := rfl
@[simp] theorem dropCmd_bad (s : State) (id : Nat) : (dropCmd s id).bad = s.bad := rfl
@[simp] theorem dropCmd_lostLinks (s : State) (id : Nat) : (dropCmd s id).lostLinks = s.lostLinks := rfl
@[simp] theorem dropCmd_failedPackages (s : State) (id : Nat) : (dropCmd s id).failedPackages = s.failedPackages := rfl
@[simp] theorem dropCmd_flitErrors (s : State) (id : Nat) : (dropCmd s id).flitErrors = s.flitErrors := rfl
@[simp] theorem dropCmd_ports (s : State) (id : Nat) : (dropCmd s id).ports = s.ports := rfl
@[simp] theorem dropCmd_portCounts (s : State) (id : Nat) : (dropCmd s id).portCounts = s.portCounts := rfl
@[simp] theorem dropCmd_macBase (s : State) (id : Nat) : (dropCmd s id).macBase = s.macBase := rfl
@[simp] theorem dropCmd_receivers (s : State) (id : Nat) : (dropCmd s id).receivers = s.receivers := rfl
@[simp] theorem dropCmd_conns (s : State) (id : Nat) : (dropCmd s id).conns = s.conns := rfl
@[simp] theorem dropCmd_sends (s : State) (id : Nat) : (dropCmd s id).sends = s.sends := rfl
@[simp] theorem dropCmd_wire (s : State) (id : Nat) : (dropCmd s id).wire = s.wire := rfl
@[simp] theorem dropCmd_power (s : State) (id : Nat) : (dropCmd s id).power = s.power := rfl
@[simp] theorem dropCmd_measure (s : State) (id : Nat) : (dropCmd s id).measure = s.measure := rfl
@[simp] theorem dropCmd_clocks (s : State) (id : Nat) : (dropCmd s id).clocks = s.clocks := rfl
@[simp] theorem dropCmd_fuses (s : State) (id : Nat) : (dropCmd s id).fuses = s.fuses := rfl
@[simp] theorem dropCmd_defects (s : State) (id : Nat) : (dropCmd s id).defects = s.defects := rfl
@[simp] theorem dropCmd_recorded (s : State) (id : Nat) : (dropCmd s id).recorded = s.recorded := rfl
@[simp] theorem dropCmd_stored (s : State) (id : Nat) : (dropCmd s id).stored = s.stored := rfl
@[simp] theorem dropCmd_device (s : State) (id : Nat) : (dropCmd s id).device = s.device := rfl
@[simp] theorem dropCmd_package (s : State) (id : Nat) : (dropCmd s id).package = s.package := rfl
@[simp] theorem dropCmd_owner (s : State) (id : Nat) : (dropCmd s id).owner = s.owner := rfl
@[simp] theorem dropCmd_micros (s : State) (id : Nat) : (dropCmd s id).micros = s.micros := rfl
@[simp] theorem dropCmd_parity (s : State) (id : Nat) : (dropCmd s id).parity = s.parity := rfl
@[simp] theorem dropCmd_spoiled (s : State) (id : Nat) : (dropCmd s id).spoiled = s.spoiled := rfl
@[simp] theorem dropCmd_corrected (s : State) (id : Nat) : (dropCmd s id).corrected = s.corrected := rfl
@[simp] theorem dropCmd_drawn (s : State) (id : Nat) : (dropCmd s id).drawn = s.drawn := rfl
@[simp] theorem dropCmd_schedule (s : State) (id : Nat) : (dropCmd s id).schedule = s.schedule := rfl

@[simp] theorem modPartition_core (s : State) (n : Nat) (f : Partition → Partition) : (modPartition s n f).core = s.core := rfl
@[simp] theorem modPartition_parked (s : State) (n : Nat) (f : Partition → Partition) : (modPartition s n f).parked = s.parked := rfl
@[simp] theorem modPartition_issue (s : State) (n : Nat) (f : Partition → Partition) : (modPartition s n f).issue = s.issue := rfl
@[simp] theorem modPartition_cmds (s : State) (n : Nat) (f : Partition → Partition) : (modPartition s n f).cmds = s.cmds := rfl
@[simp] theorem modPartition_nextId (s : State) (n : Nat) (f : Partition → Partition) : (modPartition s n f).nextId = s.nextId := rfl
@[simp] theorem modPartition_objects (s : State) (n : Nat) (f : Partition → Partition) : (modPartition s n f).objects = s.objects := rfl
@[simp] theorem modPartition_sets (s : State) (n : Nat) (f : Partition → Partition) : (modPartition s n f).sets = s.sets := rfl
@[simp] theorem modPartition_actions (s : State) (n : Nat) (f : Partition → Partition) : (modPartition s n f).actions = s.actions := rfl
@[simp] theorem modPartition_moves (s : State) (n : Nat) (f : Partition → Partition) : (modPartition s n f).moves = s.moves := rfl
@[simp] theorem modPartition_lines (s : State) (n : Nat) (f : Partition → Partition) : (modPartition s n f).lines = s.lines := rfl
@[simp] theorem modPartition_blocks (s : State) (n : Nat) (f : Partition → Partition) : (modPartition s n f).blocks = s.blocks := rfl
@[simp] theorem modPartition_pageUse (s : State) (n : Nat) (f : Partition → Partition) : (modPartition s n f).pageUse = s.pageUse := rfl
@[simp] theorem modPartition_launches (s : State) (n : Nat) (f : Partition → Partition) : (modPartition s n f).launches = s.launches := rfl
@[simp] theorem modPartition_streams (s : State) (n : Nat) (f : Partition → Partition) : (modPartition s n f).streams = s.streams := rfl
@[simp] theorem modPartition_completions (s : State) (n : Nat) (f : Partition → Partition) : (modPartition s n f).completions = s.completions := rfl
@[simp] theorem modPartition_calls (s : State) (n : Nat) (f : Partition → Partition) : (modPartition s n f).calls = s.calls := rfl
@[simp] theorem modPartition_pools (s : State) (n : Nat) (f : Partition → Partition) : (modPartition s n f).pools = s.pools := rfl
@[simp] theorem modPartition_xlats (s : State) (n : Nat) (f : Partition → Partition) : (modPartition s n f).xlats = s.xlats := rfl
@[simp] theorem modPartition_shoots (s : State) (n : Nat) (f : Partition → Partition) : (modPartition s n f).shoots = s.shoots := rfl
@[simp] theorem modPartition_bad (s : State) (n : Nat) (f : Partition → Partition) : (modPartition s n f).bad = s.bad := rfl
@[simp] theorem modPartition_lostLinks (s : State) (n : Nat) (f : Partition → Partition) : (modPartition s n f).lostLinks = s.lostLinks := rfl
@[simp] theorem modPartition_failedPackages (s : State) (n : Nat) (f : Partition → Partition) : (modPartition s n f).failedPackages = s.failedPackages := rfl
@[simp] theorem modPartition_flitErrors (s : State) (n : Nat) (f : Partition → Partition) : (modPartition s n f).flitErrors = s.flitErrors := rfl
@[simp] theorem modPartition_ports (s : State) (n : Nat) (f : Partition → Partition) : (modPartition s n f).ports = s.ports := rfl
@[simp] theorem modPartition_portCounts (s : State) (n : Nat) (f : Partition → Partition) : (modPartition s n f).portCounts = s.portCounts := rfl
@[simp] theorem modPartition_macBase (s : State) (n : Nat) (f : Partition → Partition) : (modPartition s n f).macBase = s.macBase := rfl
@[simp] theorem modPartition_receivers (s : State) (n : Nat) (f : Partition → Partition) : (modPartition s n f).receivers = s.receivers := rfl
@[simp] theorem modPartition_conns (s : State) (n : Nat) (f : Partition → Partition) : (modPartition s n f).conns = s.conns := rfl
@[simp] theorem modPartition_sends (s : State) (n : Nat) (f : Partition → Partition) : (modPartition s n f).sends = s.sends := rfl
@[simp] theorem modPartition_wire (s : State) (n : Nat) (f : Partition → Partition) : (modPartition s n f).wire = s.wire := rfl
@[simp] theorem modPartition_power (s : State) (n : Nat) (f : Partition → Partition) : (modPartition s n f).power = s.power := rfl
@[simp] theorem modPartition_measure (s : State) (n : Nat) (f : Partition → Partition) : (modPartition s n f).measure = s.measure := rfl
@[simp] theorem modPartition_clocks (s : State) (n : Nat) (f : Partition → Partition) : (modPartition s n f).clocks = s.clocks := rfl
@[simp] theorem modPartition_fuses (s : State) (n : Nat) (f : Partition → Partition) : (modPartition s n f).fuses = s.fuses := rfl
@[simp] theorem modPartition_defects (s : State) (n : Nat) (f : Partition → Partition) : (modPartition s n f).defects = s.defects := rfl
@[simp] theorem modPartition_recorded (s : State) (n : Nat) (f : Partition → Partition) : (modPartition s n f).recorded = s.recorded := rfl
@[simp] theorem modPartition_stored (s : State) (n : Nat) (f : Partition → Partition) : (modPartition s n f).stored = s.stored := rfl
@[simp] theorem modPartition_device (s : State) (n : Nat) (f : Partition → Partition) : (modPartition s n f).device = s.device := rfl
@[simp] theorem modPartition_package (s : State) (n : Nat) (f : Partition → Partition) : (modPartition s n f).package = s.package := rfl
@[simp] theorem modPartition_owner (s : State) (n : Nat) (f : Partition → Partition) : (modPartition s n f).owner = s.owner := rfl
@[simp] theorem modPartition_micros (s : State) (n : Nat) (f : Partition → Partition) : (modPartition s n f).micros = s.micros := rfl
@[simp] theorem modPartition_parity (s : State) (n : Nat) (f : Partition → Partition) : (modPartition s n f).parity = s.parity := rfl
@[simp] theorem modPartition_spoiled (s : State) (n : Nat) (f : Partition → Partition) : (modPartition s n f).spoiled = s.spoiled := rfl
@[simp] theorem modPartition_corrected (s : State) (n : Nat) (f : Partition → Partition) : (modPartition s n f).corrected = s.corrected := rfl
@[simp] theorem modPartition_drawn (s : State) (n : Nat) (f : Partition → Partition) : (modPartition s n f).drawn = s.drawn := rfl
@[simp] theorem modPartition_schedule (s : State) (n : Nat) (f : Partition → Partition) : (modPartition s n f).schedule = s.schedule := rfl

@[simp] theorem modTeam_core (s : State) (f : Team → Team) : (modTeam s f).core = s.core := rfl
@[simp] theorem modTeam_parked (s : State) (f : Team → Team) : (modTeam s f).parked = s.parked := rfl
@[simp] theorem modTeam_issue (s : State) (f : Team → Team) : (modTeam s f).issue = s.issue := rfl
@[simp] theorem modTeam_cmds (s : State) (f : Team → Team) : (modTeam s f).cmds = s.cmds := rfl
@[simp] theorem modTeam_nextId (s : State) (f : Team → Team) : (modTeam s f).nextId = s.nextId := rfl
@[simp] theorem modTeam_objects (s : State) (f : Team → Team) : (modTeam s f).objects = s.objects := rfl
@[simp] theorem modTeam_sets (s : State) (f : Team → Team) : (modTeam s f).sets = s.sets := rfl
@[simp] theorem modTeam_actions (s : State) (f : Team → Team) : (modTeam s f).actions = s.actions := rfl
@[simp] theorem modTeam_moves (s : State) (f : Team → Team) : (modTeam s f).moves = s.moves := rfl
@[simp] theorem modTeam_lines (s : State) (f : Team → Team) : (modTeam s f).lines = s.lines := rfl
@[simp] theorem modTeam_blocks (s : State) (f : Team → Team) : (modTeam s f).blocks = s.blocks := rfl
@[simp] theorem modTeam_pageUse (s : State) (f : Team → Team) : (modTeam s f).pageUse = s.pageUse := rfl
@[simp] theorem modTeam_streams (s : State) (f : Team → Team) : (modTeam s f).streams = s.streams := rfl
@[simp] theorem modTeam_completions (s : State) (f : Team → Team) : (modTeam s f).completions = s.completions := rfl
@[simp] theorem modTeam_partitions (s : State) (f : Team → Team) : (modTeam s f).partitions = s.partitions := rfl
@[simp] theorem modTeam_calls (s : State) (f : Team → Team) : (modTeam s f).calls = s.calls := rfl
@[simp] theorem modTeam_pools (s : State) (f : Team → Team) : (modTeam s f).pools = s.pools := rfl
@[simp] theorem modTeam_xlats (s : State) (f : Team → Team) : (modTeam s f).xlats = s.xlats := rfl
@[simp] theorem modTeam_shoots (s : State) (f : Team → Team) : (modTeam s f).shoots = s.shoots := rfl
@[simp] theorem modTeam_bad (s : State) (f : Team → Team) : (modTeam s f).bad = s.bad := rfl
@[simp] theorem modTeam_lostLinks (s : State) (f : Team → Team) : (modTeam s f).lostLinks = s.lostLinks := rfl
@[simp] theorem modTeam_failedPackages (s : State) (f : Team → Team) : (modTeam s f).failedPackages = s.failedPackages := rfl
@[simp] theorem modTeam_flitErrors (s : State) (f : Team → Team) : (modTeam s f).flitErrors = s.flitErrors := rfl
@[simp] theorem modTeam_ports (s : State) (f : Team → Team) : (modTeam s f).ports = s.ports := rfl
@[simp] theorem modTeam_portCounts (s : State) (f : Team → Team) : (modTeam s f).portCounts = s.portCounts := rfl
@[simp] theorem modTeam_macBase (s : State) (f : Team → Team) : (modTeam s f).macBase = s.macBase := rfl
@[simp] theorem modTeam_receivers (s : State) (f : Team → Team) : (modTeam s f).receivers = s.receivers := rfl
@[simp] theorem modTeam_conns (s : State) (f : Team → Team) : (modTeam s f).conns = s.conns := rfl
@[simp] theorem modTeam_sends (s : State) (f : Team → Team) : (modTeam s f).sends = s.sends := rfl
@[simp] theorem modTeam_wire (s : State) (f : Team → Team) : (modTeam s f).wire = s.wire := rfl
@[simp] theorem modTeam_power (s : State) (f : Team → Team) : (modTeam s f).power = s.power := rfl
@[simp] theorem modTeam_measure (s : State) (f : Team → Team) : (modTeam s f).measure = s.measure := rfl
@[simp] theorem modTeam_clocks (s : State) (f : Team → Team) : (modTeam s f).clocks = s.clocks := rfl
@[simp] theorem modTeam_fuses (s : State) (f : Team → Team) : (modTeam s f).fuses = s.fuses := rfl
@[simp] theorem modTeam_defects (s : State) (f : Team → Team) : (modTeam s f).defects = s.defects := rfl
@[simp] theorem modTeam_recorded (s : State) (f : Team → Team) : (modTeam s f).recorded = s.recorded := rfl
@[simp] theorem modTeam_stored (s : State) (f : Team → Team) : (modTeam s f).stored = s.stored := rfl
@[simp] theorem modTeam_device (s : State) (f : Team → Team) : (modTeam s f).device = s.device := rfl
@[simp] theorem modTeam_package (s : State) (f : Team → Team) : (modTeam s f).package = s.package := rfl
@[simp] theorem modTeam_owner (s : State) (f : Team → Team) : (modTeam s f).owner = s.owner := rfl
@[simp] theorem modTeam_micros (s : State) (f : Team → Team) : (modTeam s f).micros = s.micros := rfl
@[simp] theorem modTeam_parity (s : State) (f : Team → Team) : (modTeam s f).parity = s.parity := rfl
@[simp] theorem modTeam_spoiled (s : State) (f : Team → Team) : (modTeam s f).spoiled = s.spoiled := rfl
@[simp] theorem modTeam_corrected (s : State) (f : Team → Team) : (modTeam s f).corrected = s.corrected := rfl
@[simp] theorem modTeam_drawn (s : State) (f : Team → Team) : (modTeam s f).drawn = s.drawn := rfl
@[simp] theorem modTeam_schedule (s : State) (f : Team → Team) : (modTeam s f).schedule = s.schedule := rfl

@[simp] theorem modTile_parked (s : State) (t : Nat) (f : Tile → Tile) : (modTile s t f).parked = s.parked := rfl
@[simp] theorem modTile_issue (s : State) (t : Nat) (f : Tile → Tile) : (modTile s t f).issue = s.issue := rfl
@[simp] theorem modTile_cmds (s : State) (t : Nat) (f : Tile → Tile) : (modTile s t f).cmds = s.cmds := rfl
@[simp] theorem modTile_nextId (s : State) (t : Nat) (f : Tile → Tile) : (modTile s t f).nextId = s.nextId := rfl
@[simp] theorem modTile_objects (s : State) (t : Nat) (f : Tile → Tile) : (modTile s t f).objects = s.objects := rfl
@[simp] theorem modTile_sets (s : State) (t : Nat) (f : Tile → Tile) : (modTile s t f).sets = s.sets := rfl
@[simp] theorem modTile_actions (s : State) (t : Nat) (f : Tile → Tile) : (modTile s t f).actions = s.actions := rfl
@[simp] theorem modTile_moves (s : State) (t : Nat) (f : Tile → Tile) : (modTile s t f).moves = s.moves := rfl
@[simp] theorem modTile_lines (s : State) (t : Nat) (f : Tile → Tile) : (modTile s t f).lines = s.lines := rfl
@[simp] theorem modTile_blocks (s : State) (t : Nat) (f : Tile → Tile) : (modTile s t f).blocks = s.blocks := rfl
@[simp] theorem modTile_pageUse (s : State) (t : Nat) (f : Tile → Tile) : (modTile s t f).pageUse = s.pageUse := rfl
@[simp] theorem modTile_launches (s : State) (t : Nat) (f : Tile → Tile) : (modTile s t f).launches = s.launches := rfl
@[simp] theorem modTile_streams (s : State) (t : Nat) (f : Tile → Tile) : (modTile s t f).streams = s.streams := rfl
@[simp] theorem modTile_completions (s : State) (t : Nat) (f : Tile → Tile) : (modTile s t f).completions = s.completions := rfl
@[simp] theorem modTile_partitions (s : State) (t : Nat) (f : Tile → Tile) : (modTile s t f).partitions = s.partitions := rfl
@[simp] theorem modTile_calls (s : State) (t : Nat) (f : Tile → Tile) : (modTile s t f).calls = s.calls := rfl
@[simp] theorem modTile_pools (s : State) (t : Nat) (f : Tile → Tile) : (modTile s t f).pools = s.pools := rfl
@[simp] theorem modTile_xlats (s : State) (t : Nat) (f : Tile → Tile) : (modTile s t f).xlats = s.xlats := rfl
@[simp] theorem modTile_shoots (s : State) (t : Nat) (f : Tile → Tile) : (modTile s t f).shoots = s.shoots := rfl
@[simp] theorem modTile_bad (s : State) (t : Nat) (f : Tile → Tile) : (modTile s t f).bad = s.bad := rfl
@[simp] theorem modTile_lostLinks (s : State) (t : Nat) (f : Tile → Tile) : (modTile s t f).lostLinks = s.lostLinks := rfl
@[simp] theorem modTile_failedPackages (s : State) (t : Nat) (f : Tile → Tile) : (modTile s t f).failedPackages = s.failedPackages := rfl
@[simp] theorem modTile_flitErrors (s : State) (t : Nat) (f : Tile → Tile) : (modTile s t f).flitErrors = s.flitErrors := rfl
@[simp] theorem modTile_ports (s : State) (t : Nat) (f : Tile → Tile) : (modTile s t f).ports = s.ports := rfl
@[simp] theorem modTile_portCounts (s : State) (t : Nat) (f : Tile → Tile) : (modTile s t f).portCounts = s.portCounts := rfl
@[simp] theorem modTile_macBase (s : State) (t : Nat) (f : Tile → Tile) : (modTile s t f).macBase = s.macBase := rfl
@[simp] theorem modTile_receivers (s : State) (t : Nat) (f : Tile → Tile) : (modTile s t f).receivers = s.receivers := rfl
@[simp] theorem modTile_conns (s : State) (t : Nat) (f : Tile → Tile) : (modTile s t f).conns = s.conns := rfl
@[simp] theorem modTile_sends (s : State) (t : Nat) (f : Tile → Tile) : (modTile s t f).sends = s.sends := rfl
@[simp] theorem modTile_wire (s : State) (t : Nat) (f : Tile → Tile) : (modTile s t f).wire = s.wire := rfl
@[simp] theorem modTile_power (s : State) (t : Nat) (f : Tile → Tile) : (modTile s t f).power = s.power := rfl
@[simp] theorem modTile_measure (s : State) (t : Nat) (f : Tile → Tile) : (modTile s t f).measure = s.measure := rfl
@[simp] theorem modTile_clocks (s : State) (t : Nat) (f : Tile → Tile) : (modTile s t f).clocks = s.clocks := rfl
@[simp] theorem modTile_fuses (s : State) (t : Nat) (f : Tile → Tile) : (modTile s t f).fuses = s.fuses := rfl
@[simp] theorem modTile_defects (s : State) (t : Nat) (f : Tile → Tile) : (modTile s t f).defects = s.defects := rfl
@[simp] theorem modTile_recorded (s : State) (t : Nat) (f : Tile → Tile) : (modTile s t f).recorded = s.recorded := rfl
@[simp] theorem modTile_stored (s : State) (t : Nat) (f : Tile → Tile) : (modTile s t f).stored = s.stored := rfl
@[simp] theorem modTile_device (s : State) (t : Nat) (f : Tile → Tile) : (modTile s t f).device = s.device := rfl
@[simp] theorem modTile_package (s : State) (t : Nat) (f : Tile → Tile) : (modTile s t f).package = s.package := rfl
@[simp] theorem modTile_owner (s : State) (t : Nat) (f : Tile → Tile) : (modTile s t f).owner = s.owner := rfl
@[simp] theorem modTile_micros (s : State) (t : Nat) (f : Tile → Tile) : (modTile s t f).micros = s.micros := rfl
@[simp] theorem modTile_parity (s : State) (t : Nat) (f : Tile → Tile) : (modTile s t f).parity = s.parity := rfl
@[simp] theorem modTile_spoiled (s : State) (t : Nat) (f : Tile → Tile) : (modTile s t f).spoiled = s.spoiled := rfl
@[simp] theorem modTile_corrected (s : State) (t : Nat) (f : Tile → Tile) : (modTile s t f).corrected = s.corrected := rfl
@[simp] theorem modTile_drawn (s : State) (t : Nat) (f : Tile → Tile) : (modTile s t f).drawn = s.drawn := rfl
@[simp] theorem modTile_schedule (s : State) (t : Nat) (f : Tile → Tile) : (modTile s t f).schedule = s.schedule := rfl

@[simp] theorem putTile_parked (s : State) (t off : Nat) (bs : List Byte) : (putTile s t off bs).parked = s.parked := rfl
@[simp] theorem putTile_issue (s : State) (t off : Nat) (bs : List Byte) : (putTile s t off bs).issue = s.issue := rfl
@[simp] theorem putTile_cmds (s : State) (t off : Nat) (bs : List Byte) : (putTile s t off bs).cmds = s.cmds := rfl
@[simp] theorem putTile_nextId (s : State) (t off : Nat) (bs : List Byte) : (putTile s t off bs).nextId = s.nextId := rfl
@[simp] theorem putTile_objects (s : State) (t off : Nat) (bs : List Byte) : (putTile s t off bs).objects = s.objects := rfl
@[simp] theorem putTile_sets (s : State) (t off : Nat) (bs : List Byte) : (putTile s t off bs).sets = s.sets := rfl
@[simp] theorem putTile_actions (s : State) (t off : Nat) (bs : List Byte) : (putTile s t off bs).actions = s.actions := rfl
@[simp] theorem putTile_moves (s : State) (t off : Nat) (bs : List Byte) : (putTile s t off bs).moves = s.moves := rfl
@[simp] theorem putTile_lines (s : State) (t off : Nat) (bs : List Byte) : (putTile s t off bs).lines = s.lines := rfl
@[simp] theorem putTile_blocks (s : State) (t off : Nat) (bs : List Byte) : (putTile s t off bs).blocks = s.blocks := rfl
@[simp] theorem putTile_pageUse (s : State) (t off : Nat) (bs : List Byte) : (putTile s t off bs).pageUse = s.pageUse := rfl
@[simp] theorem putTile_launches (s : State) (t off : Nat) (bs : List Byte) : (putTile s t off bs).launches = s.launches := rfl
@[simp] theorem putTile_streams (s : State) (t off : Nat) (bs : List Byte) : (putTile s t off bs).streams = s.streams := rfl
@[simp] theorem putTile_completions (s : State) (t off : Nat) (bs : List Byte) : (putTile s t off bs).completions = s.completions := rfl
@[simp] theorem putTile_partitions (s : State) (t off : Nat) (bs : List Byte) : (putTile s t off bs).partitions = s.partitions := rfl
@[simp] theorem putTile_calls (s : State) (t off : Nat) (bs : List Byte) : (putTile s t off bs).calls = s.calls := rfl
@[simp] theorem putTile_pools (s : State) (t off : Nat) (bs : List Byte) : (putTile s t off bs).pools = s.pools := rfl
@[simp] theorem putTile_xlats (s : State) (t off : Nat) (bs : List Byte) : (putTile s t off bs).xlats = s.xlats := rfl
@[simp] theorem putTile_shoots (s : State) (t off : Nat) (bs : List Byte) : (putTile s t off bs).shoots = s.shoots := rfl
@[simp] theorem putTile_bad (s : State) (t off : Nat) (bs : List Byte) : (putTile s t off bs).bad = s.bad := rfl
@[simp] theorem putTile_lostLinks (s : State) (t off : Nat) (bs : List Byte) : (putTile s t off bs).lostLinks = s.lostLinks := rfl
@[simp] theorem putTile_failedPackages (s : State) (t off : Nat) (bs : List Byte) : (putTile s t off bs).failedPackages = s.failedPackages := rfl
@[simp] theorem putTile_flitErrors (s : State) (t off : Nat) (bs : List Byte) : (putTile s t off bs).flitErrors = s.flitErrors := rfl
@[simp] theorem putTile_ports (s : State) (t off : Nat) (bs : List Byte) : (putTile s t off bs).ports = s.ports := rfl
@[simp] theorem putTile_portCounts (s : State) (t off : Nat) (bs : List Byte) : (putTile s t off bs).portCounts = s.portCounts := rfl
@[simp] theorem putTile_macBase (s : State) (t off : Nat) (bs : List Byte) : (putTile s t off bs).macBase = s.macBase := rfl
@[simp] theorem putTile_receivers (s : State) (t off : Nat) (bs : List Byte) : (putTile s t off bs).receivers = s.receivers := rfl
@[simp] theorem putTile_conns (s : State) (t off : Nat) (bs : List Byte) : (putTile s t off bs).conns = s.conns := rfl
@[simp] theorem putTile_sends (s : State) (t off : Nat) (bs : List Byte) : (putTile s t off bs).sends = s.sends := rfl
@[simp] theorem putTile_wire (s : State) (t off : Nat) (bs : List Byte) : (putTile s t off bs).wire = s.wire := rfl
@[simp] theorem putTile_power (s : State) (t off : Nat) (bs : List Byte) : (putTile s t off bs).power = s.power := rfl
@[simp] theorem putTile_measure (s : State) (t off : Nat) (bs : List Byte) : (putTile s t off bs).measure = s.measure := rfl
@[simp] theorem putTile_clocks (s : State) (t off : Nat) (bs : List Byte) : (putTile s t off bs).clocks = s.clocks := rfl
@[simp] theorem putTile_fuses (s : State) (t off : Nat) (bs : List Byte) : (putTile s t off bs).fuses = s.fuses := rfl
@[simp] theorem putTile_defects (s : State) (t off : Nat) (bs : List Byte) : (putTile s t off bs).defects = s.defects := rfl
@[simp] theorem putTile_recorded (s : State) (t off : Nat) (bs : List Byte) : (putTile s t off bs).recorded = s.recorded := rfl
@[simp] theorem putTile_stored (s : State) (t off : Nat) (bs : List Byte) : (putTile s t off bs).stored = s.stored := rfl
@[simp] theorem putTile_device (s : State) (t off : Nat) (bs : List Byte) : (putTile s t off bs).device = s.device := rfl
@[simp] theorem putTile_package (s : State) (t off : Nat) (bs : List Byte) : (putTile s t off bs).package = s.package := rfl
@[simp] theorem putTile_owner (s : State) (t off : Nat) (bs : List Byte) : (putTile s t off bs).owner = s.owner := rfl
@[simp] theorem putTile_micros (s : State) (t off : Nat) (bs : List Byte) : (putTile s t off bs).micros = s.micros := rfl
@[simp] theorem putTile_parity (s : State) (t off : Nat) (bs : List Byte) : (putTile s t off bs).parity = s.parity := rfl
@[simp] theorem putTile_spoiled (s : State) (t off : Nat) (bs : List Byte) : (putTile s t off bs).spoiled = s.spoiled := rfl
@[simp] theorem putTile_corrected (s : State) (t off : Nat) (bs : List Byte) : (putTile s t off bs).corrected = s.corrected := rfl
@[simp] theorem putTile_drawn (s : State) (t off : Nat) (bs : List Byte) : (putTile s t off bs).drawn = s.drawn := rfl
@[simp] theorem putTile_schedule (s : State) (t off : Nat) (bs : List Byte) : (putTile s t off bs).schedule = s.schedule := rfl

/-! ## Composition -/

/-- Two changes of the acting context are one. -/
theorem modCtx_modCtx (s : State) (f g : Ctx → Ctx) : modCtx (modCtx s f) g = modCtx s fun c => g (f c) := by
  simp [modCtx, modCore, get_set_same]

/-- Two changes of the live registers are one. -/
theorem modLive_modLive (s : State) (f g : Regs → Regs) : modLive (modLive s f) g = modLive s fun r => g (f r) := by
  simp [modLive, modCtx_modCtx]

/-- A change of the acting context that changes nothing. -/
theorem modCtx_same (s : State) : modCtx s (fun c => c) = s := by
  simp [modCtx, modCore, Vector.get]

/-- A change of the live registers that changes nothing. -/
theorem modLive_same (s : State) : modLive s (fun r => r) = s := modCtx_same s

/-- Raising no flag changes nothing. -/
@[simp] theorem raise_zero (s : State) : raise s 0 = s := by simp [raise, modLive_same]

end Sys2Proof.Machine
end

