-- ==== Sys2Proof/Laws/Operations.lean ====
section
/-!
SUPPORT. What each shared operation can do, said once: the acting context after an update, finding after changing, guards,
the tests on tiles, and taking a trap. Proofs about an instruction cite these and unfold no shared operation.
-/

namespace Sys2Proof.Laws

open Sys2Proof.Machine

/-! ## The acting context -/

theorem get_eq_getElem {α : Type} {n : Nat} (v : Vector α n) (i : Fin n) : v.get i = v[i.val] := rfl

@[simp] theorem curCtx_modCtx (s : State) (f : Ctx → Ctx) : curCtx (modCtx s f) = f (curCtx s) := by
  simp [curCtx, modCtx, modCore, get_eq_getElem]

@[simp] theorem curCtx_modLive (s : State) (f : Regs → Regs) : curCtx (modLive s f) = { curCtx s with live := f (curCtx s).live } :=
  curCtx_modCtx ..

@[simp] theorem cur_modCtx (s : State) (f : Ctx → Ctx) : (modCtx s f).core.cur = s.core.cur := rfl

/-- Another context of the acting core stands. -/
theorem ctxs_modCtx_of_ne (s : State) (f : Ctx → Ctx) (x : Fin 4) (h : x ≠ s.core.cur) :
    (modCtx s f).core.ctxs.get x = s.core.ctxs.get x := by
  have : s.core.cur.val ≠ x.val := fun e => h (Fin.ext e.symm)
  simp [modCtx, modCore, get_eq_getElem, this]

theorem modCtx_modCtx (s : State) (f g : Ctx → Ctx) : modCtx (modCtx s f) g = modCtx s fun c => g (f c) := by
  simp [modCtx, modCore, get_eq_getElem]

theorem modLive_modLive (s : State) (f g : Regs → Regs) : modLive (modLive s f) g = modLive s fun r => g (f r) :=
  modCtx_modCtx ..

/-- Outside a bundle the slots read the live registers. -/
theorem regs_of_no_issue (s : State) (h : s.issue = none) : regs s = (curCtx s).live := by
  simp [regs, frame, h, curCtx]

/-- Within a bundle the slots read the registers before the bundle, whatever has been written since (R23). -/
theorem regs_of_issue (s : State) (i : Issue) (h : s.issue = some i) : regs s = (i.pre.ctxs.get s.core.cur).live := by
  simp [regs, frame, h]

/-- R23: in a bundle, a write to the live registers is seen by no slot of it. -/
theorem regs_modLive_of_issue (s : State) (i : Issue) (h : s.issue = some i) (f : Regs → Regs) : regs (modLive s f) = regs s := by
  rw [regs_of_issue s i h, regs_of_issue (modLive s f) i h]
  rfl

/-! ## Guards (R22) -/

theorem guarded_off {g : BitVec 5} {s : State} (h : guardOn s g = false) (k : Unit → Out) : guarded g s k = .next s := by
  simp [guarded, h]

theorem guarded_on {g : BitVec 5} {s : State} (h : guardOn s g = true) (k : Unit → Out) : guarded g s k = k () := by
  simp [guarded, h]

/-- A guarded slot does nothing, or what it guards. -/
theorem guarded_cases (g : BitVec 5) (s : State) (k : Unit → Out) : guarded g s k = .next s ∨ guarded g s k = k () := by
  cases h : guardOn s g
  · exact .inl (guarded_off h k)
  · exact .inr (guarded_on h k)

/-! ## Tests on tiles (R29, R187, R371) -/

/-- A slot that reads tiles waits, takes the data trap, or goes on with the tiles marked read. -/
theorem needTiles_cases (s : State) (slot : Nat) (op : Instr) (ts : List Nat) (k : State → Out) :
    needTiles s slot op ts k = .next (addWait s slot op) ∨ (∃ t ∈ ts, needTiles s slot op ts k = trapOut s 0x09 slot (0x03 + 256 * t) 0) ∨
      needTiles s slot op ts k = k (markReads s ts) := by
  unfold needTiles
  split
  · split
    · rename_i t h
      exact .inr (.inl ⟨t, List.mem_of_find?_eq_some h, rfl⟩)
    · exact .inr (.inr rfl)
  · exact .inl rfl

theorem needTiles_ready {s : State} {ts : List Nat} (hf : ∀ t ∈ ts, tileFull (frame s) t = true) (hb : ∀ t ∈ ts, badTile s t = false)
    (slot : Nat) (op : Instr) (k : State → Out) : needTiles s slot op ts k = k (markReads s ts) := by
  have h1 : ts.all (tileFull (frame s)) = true := List.all_eq_true.mpr hf
  have h2 : ts.find? (badTile s) = none := List.find?_eq_none.mpr fun t ht => by simp [hb t ht]
  rw [needTiles, if_pos h1, h2]

/-- A write to a tile is the region violation, or goes on. -/
theorem writingTile_cases (s : State) (slot t : Nat) (k : Unit → Out) :
    (tileViolation s slot t = true ∧ writingTile s slot t k = trapRegion s slot 0x01 t) ∨
      (tileViolation s slot t = false ∧ writingTile s slot t k = k ()) := by
  unfold writingTile
  cases tileViolation s slot t <;> simp

/-! ## Finding after changing -/

theorem find_map_key {α : Type} (p : α → Bool) (f : α → α) (hp : ∀ x, p (f x) = p x) (l : List α) :
    (l.map f).find? p = (l.find? p).map f := by
  induction l with
  | nil => rfl
  | cons x r ih => simp only [List.map_cons, List.find?_cons, hp, ih]; cases p x <;> rfl

theorem launchBy_modLaunch (s : State) (id : Nat) (f : Launch → Launch) (hf : ∀ l, (f l).id = l.id) (n : Nat) :
    launchBy (modLaunch s id f) n = (launchBy s n).map fun l => if l.id = id then f l else l := by
  refine find_map_key _ _ (fun l => ?_) _
  split <;> simp [hf]

theorem partitionBy_modPartition (s : State) (id : Nat) (f : Partition → Partition) (hf : ∀ p, (f p).number = p.number) (n : Nat) :
    partitionBy (modPartition s id f) n = (partitionBy s n).map fun p => if p.number = id then f p else p := by
  refine find_map_key _ _ (fun p => ?_) _
  split <;> simp [hf]

theorem cmdBy_modCmd (s : State) (id : Nat) (f : Cmd → Cmd) (hf : ∀ c, (f c).id = c.id) (n : Nat) :
    cmdBy (modCmd s id f) n = (cmdBy s n).map fun c => if c.id = id then f c else c := by
  refine find_map_key _ _ (fun c => ?_) _
  split <;> simp [hf]

theorem streamBy_modStream (s : State) (id : Nat) (f : CmdStream → CmdStream) (hf : ∀ x, (f x).number = x.number) (n : Nat) :
    streamBy (modStream s id f) n = (streamBy s n).map fun x => if x.number = id then f x else x := by
  refine find_map_key _ _ (fun x => ?_) _
  split <;> simp [hf]

theorem objAt_modObj (s : State) (k : ObjKey) (f : Obj → Obj) (hf : ∀ o, (f o).key = o.key ∧ (f o).present = o.present) (n : ObjKey) :
    objAt (modObj s k f) n = (objAt s n).map fun o => if o.key = k then f o else o := by
  refine find_map_key _ _ (fun o => ?_) _
  split <;> simp [hf]

theorem coreOf_modCoreId (s : State) (id : Nat) (f : CoreRec → CoreRec) (hf : ∀ c, (f c).id = c.id) (n : Nat) :
    coreOf (modCoreId s id f) n = (coreOf s n).map fun c => if c.id = id then f c else c := by
  unfold coreOf modCoreId
  by_cases e : s.core.id = id
  · simp only [if_pos e, hf]
    split
    · simp [e]
    · rename_i hn
      cases h : s.parked.find? fun c => c.id == n with
      | none => rfl
      | some c =>
        have : c.id = n := by simpa using List.find?_some h
        simp [show c.id ≠ id by omega]
  · simp only [if_neg e]
    split
    · simp [e]
    · refine find_map_key _ _ (fun c => ?_) _
      split <;> simp [hf]

/-! ## Taking a trap (R363, R364, R366) -/

/-- A context that awaits takes no second trap. -/
theorem takeTrapAt_awaiting {s : State} (h : (curCtx s).trap.isSome = true) (cls slot bundle detail : Nat) (operand : BitVec 64) :
    takeTrapAt s cls slot bundle detail operand = s := by simp [takeTrapAt, h]

/-- The acting context after a rollback. -/
theorem curCtx_rollback (s : State) : curCtx (rollback s) = rollbackCtx (curCtx s) := by
  have h := curCtx_modCtx { s with cmds := s.cmds.filterMap (rollbackCmd s.core.id (localNo s)) } rollbackCtx
  exact h

/-- The acting context after a trap: rolled back, awaiting, with the record. -/
theorem curCtx_takeTrapAt {s : State} (h : (curCtx s).trap = none) (cls slot bundle detail : Nat) (operand : BitVec 64) :
    curCtx (takeTrapAt s cls slot bundle detail operand) =
      { rollbackCtx (curCtx s) with status := .awaiting, trap := some (trapRecord s cls slot bundle detail operand) } := by
  have hc : curCtx (takeTrapAt s cls slot bundle detail operand) = curCtx (modCtx (rollback s) fun c =>
      { c with status := .awaiting, trap := some (trapRecord s cls slot bundle detail operand) }) := by
    simp only [takeTrapAt, h, Option.isSome_none, Bool.false_eq_true, if_false]
    rfl
  rw [hc, curCtx_modCtx, curCtx_rollback]

/-- What a trap leaves: the other cores, the memories, the objects and the devices. -/
theorem takeTrapAt_frame (s : State) (cls slot bundle detail : Nat) (operand : BitVec 64) :
    let t := takeTrapAt s cls slot bundle detail operand
    t.parked = s.parked ∧ t.objects = s.objects ∧ t.sets = s.sets ∧ t.streams = s.streams ∧ t.issue = s.issue ∧
      t.core.scratch = s.core.scratch ∧ t.core.banks = s.core.banks ∧ t.core.tags = s.core.tags ∧ t.core.active = s.core.active ∧
      t.measure = s.measure ∧ t.fuses = s.fuses ∧ t.schedule = s.schedule := by
  simp only [takeTrapAt]
  split <;> simp [rollback, clearRegionBits, modCtx, modCore, modPartition, modLaunch]

end Sys2Proof.Laws
end

