-- ==== Sys2Proof/Laws/Storage.lean ====
section
/-!
SUPPORT. Lemmas about the tiers (R265): room is made at once where there is room, and what a new object takes.
-/

namespace Sys2Proof.Laws

open Sys2Proof Sys2Proof.Machine

/-- R265: where the pages fit, nothing is evicted. -/
theorem roomOn_of_fits {s : State} {part die n : Nat} (launch : Option Nat) (need : List (ObjKey × Nat))
    (h : nearUse s part die + n ≤ quotaOf s part die) : roomOn s launch part die need n = some s := by
  unfold roomOn
  cases (nearPages s part die).length <;> simp [makeRoom, h]

/-- R2, R265: pages that fit stay where they are. -/
theorem fitQuota_of_fits {s : State} {k : ObjKey} {die : Nat} (pages : List Nat)
    (h : ∀ o, objAt s k = some o → nearUse s o.partition die ≤ quotaOf s o.partition die) : fitQuota s k die pages = s := by
  unfold fitQuota
  split
  · rfl
  · next o ho => rw [roomOn_of_fits none _ (Nat.le_trans (Nat.le_of_eq (Nat.add_zero _)) (h o ho))]; rfl

theorem sum_filter_le {α : Type} (p : α → Bool) (f : α → Nat) (l : List α) : ((l.filter p).map f).sum ≤ (l.map f).sum := by
  induction l with
  | nil => exact Nat.le_refl 0
  | cons a l ih =>
    rw [List.filter_cons]
    split <;> simp only [List.map_cons, List.sum_cons] <;> omega

/-- R265: an object adds to the use of a die at most the pages that it has there. -/
theorem nearUse_putObj_le (s : State) (o : Obj) (part die : Nat) :
    nearUse (putObj s o) part die ≤ nearUse s part die + copiesOf o (nearOf s o die) := by
  have h := sum_filter_le (fun x : Obj => x.key != o.key) (fun x => copiesOf x (nearOf s x die)) (s.objects.filter fun x => x.partition == part)
  have e : ∀ x, nearOf (putObj s o) x die = nearOf s x die := fun _ => rfl
  have c : imagePages (putObj s o) part die = imagePages s part die := rfl
  simp only [nearUse, e, c]
  rw [show (putObj s o).objects = (s.objects.filter fun x => x.key != o.key) ++ [o] from rfl, List.filter_append, List.map_append,
    List.sum_append, List.filter_filter]
  have h2 : (([o].filter fun x => x.partition == part).map fun x => copiesOf x (nearOf s x die)).sum ≤ copiesOf o (nearOf s o die) := by
    rw [List.filter_cons]; split <;> simp
  rw [List.filter_filter] at h
  have h3 : (s.objects.filter fun a => (a.partition == part) && (a.key != o.key)) = s.objects.filter fun a => (a.key != o.key) && (a.partition == part) :=
    List.filter_congr fun x _ => Bool.and_comm ..
  rw [h3]
  simp only [show (putObj s o).shoots = s.shoots from rfl]
  omega

/-- R2, R265: an object that Rilsia fills is made where its pages fit the near tier. -/
theorem placeFilled_ne_none {s : State} {o : Obj}
    (h : nearUse s o.partition o.loc.die + copiesOf o (nearOf s o o.loc.die) ≤ quotaOf s o.partition o.loc.die) : placeFilled s o ≠ none := by
  have h1 : nearUse (putObj s o) o.partition o.loc.die ≤ quotaOf (putObj s o) o.partition o.loc.die :=
    Nat.le_trans (nearUse_putObj_le s o o.partition o.loc.die) h
  have hk : objAt (putObj s o) o.key = none ∨ objAt (putObj s o) o.key = some o := by
    unfold objAt
    rw [show (putObj s o).objects = (s.objects.filter fun x => x.key != o.key) ++ [o] from rfl, List.find?_append]
    have : ((s.objects.filter fun x => x.key != o.key).find? fun x => x.key == o.key && x.present) = none := by
      rw [List.find?_eq_none]
      intro x hx
      have := (List.mem_filter.1 hx).2
      simp_all
    rw [this]
    simp only [Option.none_or, List.find?_cons, List.find?_nil]
    split <;> simp
  have hf : fitQuota (putObj s o) o.key o.loc.die (objPages o) = putObj s o := fitQuota_of_fits _ fun x hx => by
    rcases hk with hk | hk <;> rw [hk] at hx
    · exact absurd hx (by simp)
    · cases hx; exact h1
  unfold placeFilled
  simp only [hf]
  rw [if_pos (Or.inl h1)]
  simp

end Sys2Proof.Laws
end

