-- ==== Sys2Proof/Tests/Slice0.lean ====
section
/-!
SUPPORT. Tests: ill-formed operations that each check refuses; words written out from the encodings of the manual; small
steps against results worked out by hand from the manual; and, for every statement that has hypotheses, a concrete state and
operands that meet them, clause by clause (the theorems named `meets_…`).
-/

set_option Elab.async false

namespace Sys2Proof.Tests

open Sys2Proof Sys2Proof.Machine Sys2Proof.Claims

/-! ## Ill-formed operations (R17, R20, R24, R62, R64 to R78) -/

theorem test_special_registers_checked :
    (Instr.rdsr 0 1 0x05).wellFormed = false ∧ (Instr.wrsr 0 1 0x05).wellFormed = false ∧
    (Instr.wrsr 0 1 0x00).wellFormed = false ∧ (Instr.rdsr 0 1 0x13).wellFormed = true ∧
    (Instr.wrsr 0 1 0x11).wellFormed = true := by decide

theorem test_tile_numbers_checked :
    ([.mxlw 0 96 4 0, .mxs 0 0 96 4 0, .mxrank 0 0 96 0, .acrd 0 0 96 0 1, .acwr 0 0 96 0 1, .acadd 0 0 96 0 1, .tld 0 0 96 0,
      .tst 0 0 96 0, .tlds 0 0 96 0 0, .tsts 0 0 96 0 0, .tfill 0 96 0 0 0, .tfree 0 96, .tsetf 0 96] : List Instr).all
      (fun i => !i.wellFormed) = true ∧
    ([.txfer 0 96 0 0 0, .txferRow 0 96 0 0, .txferAll 0 96 0, .tcopy 0 96 0 0, .tcopy 0 0 96 0, .tpack 0 96 0 0, .tpack 0 0 96 0,
      .tatom 0 0 96 0 0, .thdr 0 96 0, .tfmt 0 96 0 0 0, .hfet 0 96 0 0 0, .hput 0 96 0 0 0, .hgat 0 96 0 0 0, .hsca 0 96 0 0 0] :
      List Instr).all (fun i => !i.wellFormed) = true ∧
    ([.tdesc 0 96 0 0 0, .tgrad 0 96 0 0 0, .rput 0 96 0 0, .rputLast 0 96 0 0, .rputUpd 0 96 0 0, .rtake 0 96 0 0 0, .rstat 0 96 0 0,
      .xsend 0 96 0 0, .xsendLast 0 96 0 0, .xref 0 96 0, .csnap 0 96 0, .cread 0 96 0, .fcstat 0 96 0, .nsend 0 96 0 0] :
      List Instr).all (fun i => !i.wellFormed) = true ∧
    ([.hgat 0 95 0 0 0, .hsca 0 95 0 0 0, .tdesc 0 95 0 0 0, .tgrad 0 95 0 0 0] : List Instr).all (fun i => !i.wellFormed) = true ∧
    ([.tld 0 0 95 0, .hfet 0 95 0 0 0, .hgat 0 94 0 0 0, .tdesc 0 94 0 0 0] : List Instr).all (·.wellFormed) = true := by decide

theorem test_sequencer_fields_checked :
    ([.nest 6 0, .nestReg 6 0, .lbody 6 0, .lbrk 0 0 6] : List Instr).all (fun i => !i.wellFormed) = true ∧
    ([.nest 5 0, .nestReg 5 0, .lbody 5 31, .lbrk 0 0 5] : List Instr).all (·.wellFormed) = true := by decide

theorem test_scalar_fields_checked :
    ([.add 0 0 0 0 2, .sub 0 0 0 0 2, .mul 0 0 0 0 2, .mulh 0 0 0 0 2, .mulhn 0 0 0 0 2, .div 0 0 0 0 2, .divn 0 0 0 0 2,
      .rem 0 0 0 0 2, .remn 0 0 0 0 2, .and 0 0 0 0 2, .or 0 0 0 0 2, .xor 0 0 0 0 2, .andn 0 0 0 0 2, .shl 0 0 0 0 2,
      .shr 0 0 0 0 2, .sar 0 0 0 0 2, .rotl 0 0 0 0 2, .min 0 0 0 0 2, .max 0 0 0 0 2, .minn 0 0 0 0 2, .maxn 0 0 0 0 2] :
      List Instr).all (fun i => !i.wellFormed) = true ∧
    ([.sfadd 0 0 0 0 2, .sfmul 0 0 0 0 2, .sffma 0 0 0 0 2, .clz 0 0 0 2, .ctz 0 0 0 2, .popc 0 0 0 2, .mov 0 0 0 2,
      .sext 0 0 0 32 1, .zext 0 0 0 32 1, .sext 0 0 0 0 2, .zext 0 0 0 0 2, .cmp 0 0 0 0 10 0, .sfcmp 0 0 0 0 7 0,
      .sfcvt 0 0 0 4 0, .sfcvt 0 0 0 0 4, .sfcvt 0 0 0 1 1] : List Instr).all (fun i => !i.wellFormed) = true ∧
    ([.add 0 63 63 63 1, .sext 0 0 0 31 1, .sext 0 0 0 63 0, .cmp 0 0 0 0 9 0, .sfcmp 0 0 0 0 6 0, .sfcvt 0 0 0 12 3] :
      List Instr).all (·.wellFormed) = true := by decide

theorem test_index_fields_checked :
    ([.qset 0 0 6 0, .qinc 0 0 6 0, .s2q 0 0 6 0, .qcmp 0 0 0 0 6 0, .qcmp 0 0 0 0 0 6, .q2s 0 0 0 6] : List Instr).all
      (fun i => !i.wellFormed) = true ∧
    ([.qset 0 0 5 0, .qinc 0 0 5 0, .s2q 0 0 5 0, .qcmp 0 0 0 0 5 5, .q2s 0 0 0 5] : List Instr).all (·.wellFormed) = true := by
  decide

theorem test_vector_fields_checked :
    ([.vcmp 0 0 0 0 7 0 0, .vcvt 0 0 0 11 0 0, .vcvt 0 0 0 0 11 0, .vcvt 0 0 0 1 1 0, .vrnd 0 0 0 7 0 0, .vxf 0 0 0 0 2 0,
      .viadd 0 0 0 0 3 0, .visub 0 0 0 0 3 0, .vimul 0 0 0 0 3 0, .vimulh 0 0 0 0 3 0, .vshl 0 0 0 0 3 0, .vshr 0 0 0 0 3 0,
      .vsar 0 0 0 0 3 0, .vimin 0 0 0 0 3 0, .vimax 0 0 0 0 3 0, .viminn 0 0 0 0 3 0, .vimaxn 0 0 0 0 3 0, .vpopc 0 0 0 3 0,
      .vclz 0 0 0 3 0] : List Instr).all (fun i => !i.wellFormed) = true ∧
    ([.vins 0 0 0 32 0, .vext 0 0 0 32 0, .vzip 0 63 0 0, .vunzip 0 63 0 0, .vcompress 0 0 0 2, .vexpand 0 0 0 2, .vred 0 0 0 12 0 0,
      .vred 0 0 0 0 2 0, .vscan 0 0 0 12 0 0, .vhist 0 0 0 2 0, .vqclip 0 0 0 0 2, .vquant 0 0 0 3, .vquant 0 0 0 12,
      .vdeq 0 0 0 3, .vdeq 0 0 0 12] : List Instr).all (fun i => !i.wellFormed) = true ∧
    ([.vins 0 0 0 31 0, .vext 0 0 0 63 1, .vzip 0 62 0 0, .vcompress 0 0 0 1, .vred 0 0 0 11 1 0, .vquant 0 0 0 11, .vdeq 0 0 0 4] :
      List Instr).all (·.wellFormed) = true := by decide

theorem test_array_fields_checked :
    ([.mxlw 0 0 12 0, .mxlw 0 0 4 3, .mxlw 0 0 1 1, .mxs 0 0 0 12 0, .acz 0 0 32 32, .acrd 0 0 0 0 11, .acwr 0 0 0 0 11,
      .acadd 0 0 0 0 11, .acmv 0 0 0 0 2, .acfmt 0 0 2] : List Instr).all (fun i => !i.wellFormed) = true ∧
    ([.mxlw 0 0 11 2, .mxs 0 0 0 11 63, .acz 0 0 32 31, .acrd 0 0 0 63 15, .acmv 0 0 0 0 1, .acfmt 0 0 12] : List Instr).all
      (·.wellFormed) = true := by decide

theorem test_tile_and_engine_fields_checked :
    ([.tlds 0 0 0 0 2, .tsts 0 0 0 0 2, .tatom 0 63 0 0 0, .tatom 0 62 0 7 0, .tatom 0 0 0 3 2] : List Instr).all
      (fun i => !i.wellFormed) = true ∧
    ([.tdesc 0 0 0 0 4, .tgrad 0 0 0 0 4, .hcopy 0 0 0 63 0 0, .hpfl2 0 63 0 0, .hres 0 63 0 0, .hatom 0 63 0 0 0 0,
      .hatom 0 0 0 0 7 0, .hatom 0 0 0 0 0 6, .hatom 0 0 0 0 3 4, .hatomr 0 0 0 0 7 0, .hcas 0 62 0 0 0, .hcas 0 0 0 0 6,
      .nsend 0 0 63 0, .nexp 0 63 0, .svc 0 58 0] : List Instr).all (fun i => !i.wellFormed) = true ∧
    ([.tatom 0 61 0 7 3, .tatom 0 62 0 6 3, .tdesc 0 0 0 0 3, .hatom 0 62 0 0 6 5, .hcas 0 61 0 0 5, .svc 0 57 1023] :
      List Instr).all (·.wellFormed) = true := by decide

/-! ## Words written out from the encodings (R62 to R78) -/

/-- The word decodes, in the slot, to the operation. -/
def decodesTo (k w : Nat) (i : Instr) : Bool :=
  match decodeSlot k w with
  | .ok j => j == i
  | .error _ => false

/-- The word is refused, in the slot, for the reason. -/
def refusedAs (k w : Nat) (e : DecodeError) : Bool :=
  match decodeSlot k w with
  | .ok _ => false
  | .error f => f == e

theorem test_decode_seq : decodesTo 0 0x60640000 (.bktj 6 4) = true ∧ decodesTo 0 0x24800011 (.lbody 1 17) = true ∧
    decodesTo 0 0x44001CC0 (.mark 7 12) = true ∧ decodesTo 0 0x50900000 (.wait 9) = true := by decide +kernel
theorem test_decode_sca : decodesTo 1 0x04028C39 (.add 0 5 6 7 1) = true := by decide +kernel
theorem test_decode_idx : decodesTo 2 0x04065FFF (.qset 0 3 1 0x1FFF) = true := by decide +kernel
theorem test_decode_vec : decodesTo 3 0xE00308A2 (.vquant 0 6 4 5) = true := by decide +kernel
theorem test_decode_mxu : decodesTo 4 0x10045040 (.mxrank 0 2 20 0) = true := by decide +kernel
theorem test_decode_acc : decodesTo 5 0x08025003 (.acrd 0 1 20 0 3) = true := by decide +kernel
theorem test_decode_tls : decodesTo 6 0x04028338 (.tld 0 5 3 7) = true ∧ decodesTo 6 0x14014706 (.tfill 0 5 7 1 2) = true ∧
    decodesTo 6 0x20014904 (.txferAll 0 5 9) = true := by decide +kernel
theorem test_decode_eng : decodesTo 7 0x04029411 (.hfet 0 10 20 2 1) = true ∧ decodesTo 7 0xA8014C18 (.nsend 0 5 12 3) = true ∧
    decodesTo 7 0xA0041400 (.fcbind 0 8 5) = true ∧ decodesTo 7 0xA4078900 (.fcstat 0 30 9) = true ∧
    decodesTo 7 0xB0048800 (.ncnt 0 9 2) = true ∧ decodesTo 7 0x50050E31 (.tdesc 0 20 14 6 1) = true ∧
    decodesTo 7 0x54058F39 (.tgrad 0 22 15 7 1) = true ∧ decodesTo 7 0xE0190820 (.svc 0 50 65) = true := by decide +kernel
theorem test_decode_refuses : refusedAs 2 0x3C000000 (.unassigned 15) = true ∧ refusedAs 0 0x50900001 (.reserved 19 0) = true ∧
    refusedAs 6 0x04006000 (.tileRange 8) = true ∧ decodesTo 0 0 .nop = true ∧ refusedAs 0 1 (.reserved 25 0) = true := by decide +kernel

/-! ## Small states -/

/-- A partition with its device's queues open. -/
def part0 : Partition where
  number := 0
  active := true
  reassigning := false
  clusters := [0]
  cap := 0
  quotas := [8, 8, 8, 8]
  drain := 500
  key := 0
  streams := [0]
  featuresOk := true
  features := 0
  spdm := .none
  admin := []
  traps := []
  buffers := 1
  pendingEvents := []
  posted := []
  lostEvents := 0
  journal := []
  hostMem := []
  rejected := []
  reading := none

/-- A package that is ready, with one partition and one placed team of one core and one context. -/
def up : State := { State.reset.withFetchWord 32 0 with device := 1, partitions := [part0], pools := [4, 4, 4, 4] }

/-- An object of partition 0 with storage of its own and no bytes but zeros. -/
def blank (n : Nat) (kind : Kind) (fmt : Nat) (extent : List Nat) : Obj :=
  let o := blankObj { State.reset with objects := [] } ⟨0, n⟩ 0 kind fmt extent
  { o with generation := 1, loc := { o.loc with materialised := true } }

/-- The state with objects. -/
def withObjs (s : State) (os : List Obj) : State := { s with objects := s.objects ++ os }

/-- The launch that stands in `up`, and its team. -/
def launch0 : Launch := testLaunch 2 (codeFor 0)
def team0 : Team := testTeam (codeFor 0)

/-- The launch changed. -/
def onLaunch (s : State) (f : Launch → Launch) : State := { s with launches := s.launches.map f }
/-- The acting context changed. -/
def onCtx (s : State) (f : Ctx → Ctx) : State := modCtx s f
/-- `up` with its code replaced: word w in slot k of bundle 0, then `exit`, and turns to come. -/
def upCode (k w : Nat) (turns : List Turn) : State :=
  let code := cellsOf 0 ((List.range 8).flatMap (fun i => bytesOfWord (if i = k then w else 0)) ++ bytesOfWord (encodeNat .exit))
  { up with
    schedule := turns
    launches := up.launches.map fun l => { l with code := code, teams := l.teams.map fun t => { t with code := code } } }
/-- The live registers changed. -/
def onLive (s : State) (f : Regs → Regs) : State := modLive s f
/-- Tile t of the acting core full, with one row of 256 bytes. -/
def fullTile (s : State) (t : Nat) : State :=
  { s with core := { s.core with tiles := s.core.tiles.setIfInBounds t { Reset.tile with full := true, rows := 1, rowbytes := 256 } } }
/-- A command of the acting context. -/
def cmdOf (s : State) (op : Instr) (token : Nat) (f : Cmd → Cmd) : Cmd := f (newCmd s op token (noOperands s) [.s token])
/-- The state with commands on record. -/
def withCmds (s : State) (cs : List Cmd) : State := { s with cmds := s.cmds ++ cs, nextId := s.nextId + cs.length }

/-- n bytes with little-endian fields: offset, bytes, value. -/
def fieldBytes (n : Nat) (fs : List (Nat × Nat × Nat)) : List Byte :=
  readBytes (fs.foldl (fun m f => writeNat m f.1 f.2.1 f.2.2) []) 0 n

/-! ## Terms of the witnesses -/

/-- The outcome is a next state, and the property holds of it. -/
def after (o : Out) (p : State → Bool) : Bool :=
  match o with
  | .next t => p t
  | _ => false

/-- The result is this value. -/
def gives {ε α : Type} [DecidableEq α] (e : Except ε α) (a : α) : Bool :=
  match e with
  | .ok b => decide (b = a)
  | .error _ => false

/-- The result is this error. -/
def failsWith {ε α : Type} [DecidableEq ε] (e : Except ε α) (x : ε) : Bool :=
  match e with
  | .ok _ => false
  | .error y => decide (y = x)

theorem ok_of_gives {ε α : Type} [DecidableEq α] {e : Except ε α} {a : α} (h : gives e a = true) : e = .ok a := by
  cases e with
  | ok b => exact congrArg _ (of_decide_eq_true h)
  | error _ => cases h

/-- A scalar register given a value. -/
def withS (s : State) (n v : Nat) : State := onLive s fun r => { r with s := r.s.setIfInBounds n (BitVec.ofNat 64 v) }

/-- The premise `coreOf s c.id = some c` of the statements holds of the acting core of every state; the witnesses do not repeat it. -/
theorem coreOf_acting (s : State) : coreOf s s.core.id = some s.core := if_pos rfl

/-- `Awaits`, for context 0 of the acting core. -/
abbrev AwaitsActing (s : State) (r : TrapRecord) : Prop :=
  s.core.cur = 0 ∧ (curCtx s).status = .awaiting ∧ (curCtx s).trap = some r

theorem awaits_of_acting {s : State} {r : TrapRecord} (h : AwaitsActing s r) : Awaits s s.core.id 0 (curCtx s) r := by
  refine ⟨?_, h.2⟩
  rw [ctxOf, coreOf_acting]
  simp [curCtx, h.1, Vector.get, Vector.getElem_toArray]


/-- No part of the object is absent. -/
def present (s : State) (o : Obj) : Bool :=
  o.loc.materialised && !o.loc.moving && o.loc.spilled == [] && !o.loc.lent && s.lostLinks == [] && s.failedPackages == []

theorem present_of {s : State} {o : Obj} (h : present s o = true) : ∀ n v r, absentCause s o n v r = 0 := by
  simp only [present, Bool.and_eq_true, Bool.not_eq_true', beq_iff_eq] at h
  intro n v r
  simp [absentCause, outOfReach, unreachable, h]

/-- No error stands in the object, and none of its storage is coded. -/
def sound (s : State) (o : Obj) : Bool :=
  s.bad == [] && o.versions.all (fun v => v.store.blocks == []) && o.draft.all fun d => d.store.blocks == []

theorem sound_of {s : State} {o : Obj} (h : sound s o = true) : ∀ v as, badView s o v as = none := by
  simp only [sound, Bool.and_eq_true, beq_iff_eq, List.all_eq_true, Option.all_eq_true] at h
  obtain ⟨⟨hb, hv⟩, hd⟩ := h
  intro v as
  have hs : (viewStore o v).blocks = [] := by
    unfold viewStore
    split
    · simp only [versionStore]
      cases hf : o.versions.find? _ with
      | none => rfl
      | some w => exact hv w (List.mem_of_find?_eq_some hf)
    · exact hd _ ‹_›
    · rfl
  simp [badView, badBlock, hb, hs]

/-- A command's object, of which nothing is absent or in error. -/
abbrev Plain (s : State) (c : Cmd) (o : Obj) : Prop :=
  cmdObj s c = some o ∧ objAt s o.key = some o ∧ handleKey c.cap.handle = o.key ∧ present s o = true ∧ sound s o = true

/-- `Plain` is the premise `Reachable` of the statements. -/
theorem reachable_of_plain {s : State} {c : Cmd} {o : Obj} (h : Plain s c o) : Reachable s c o :=
  ⟨h.1, h.2.1, h.2.2.1, present_of h.2.2.2.1, sound_of h.2.2.2.2⟩


/-! ## One step against results worked out by hand from the rules -/

namespace Steps

/-- `up` with two scalar operands, `s6` and `s7`. -/
def two (a b : Nat) : State := withS (withS up 6 a) 7 b
/-- The step leaves x in `s5`. -/
def leaves (i : Instr) (s : State) (x : Nat) : Bool := after (exec i s) fun t => getS t 5 == BitVec.ofNat 64 x
/-- The step raises the flags. -/
def raises (i : Instr) (s : State) (f : Flags) : Bool := after (exec i s) fun t => decide ((regs t).fflags = f)

/-- R111: 0x7FFFFFFF + 1 at width 32 is the least int32, sign-extended. -/
theorem test_add_wraps_at_32 : leaves (.add 0 5 6 7 1) (two 0x7FFFFFFF 1) 0xFFFFFFFF80000000 = true := by decide +kernel
/-- R57: −2^63 / −1 is −2^63; 7 / 0 is all ones with divzero. -/
theorem test_div_corners : leaves (.div 0 5 6 7 0) (two (2 ^ 63) (2 ^ 64 - 1)) (2 ^ 63) = true ∧
    leaves (.div 0 5 6 7 0) (two 7 0) (2 ^ 64 - 1) = true ∧ raises (.div 0 5 6 7 0) (two 7 0) flDivzero = true := by decide +kernel
/-- R111: the high half of (2^64 − 1)², unsigned and signed. -/
theorem test_mulh_and_mulhn : leaves (.mulhn 0 5 6 7 0) (two (2 ^ 64 - 1) (2 ^ 64 - 1)) (2 ^ 64 - 2) = true ∧
    leaves (.mulh 0 5 6 7 0) (two (2 ^ 64 - 1) (2 ^ 64 - 1)) 0 = true := by decide +kernel
/-- R111: a shift count is taken modulo the width. -/
theorem test_shl_modulo : leaves (.shl 0 5 6 7 0) (two 3 65) 6 = true ∧ leaves (.sar 0 5 6 7 1) (two 0x80000000 33) 0xFFFFFFFFC0000000 = true := by
  decide +kernel
/-- R112: `sext` from bit 7. -/
theorem test_sext : leaves (.sext 0 5 6 7 0) (two 0x180 0) 0xFFFFFFFFFFFFFF80 = true := by decide +kernel
/-- R114: `movk` shifts in fifteen bits. -/
theorem test_movk : leaves (.movk 0 5 0x7FFF) (withS up 5 1) 0xFFFF = true := by decide +kernel
/-- R46, R118: 1 + 2^-24 lies half-way between two FP32 codes and goes to the even one, inexact. -/
theorem test_sfadd_ties_to_even : leaves (.sfadd 0 5 6 7 1) (two 0x3F800000 0x33800000) 0x3F800000 = true ∧
    leaves (.sfadd 0 5 6 7 1) (two 0x3F800001 0x33800000) 0x3F800002 = true := by decide +kernel
/-- R52: −0 and +0 compare equal; a quiet NaN is unordered with itself. -/
theorem test_sfcmp : after (exec (.sfcmp 0 3 6 7 0 0) (two (2 ^ 63) 0)) (fun t => getP t 3) = true ∧
    after (exec (.sfcmp 0 3 6 7 0 0) (two 0x7FF8000000000000 0x7FF8000000000000)) (fun t => !getP t 3) = true := by decide +kernel
/-- R119: a coordinate is sign-extended by `qset` and clamped by `qinc`. -/
theorem test_index_clamps :
    after (exec (.qset 0 3 1 0x3FFF) up) (fun t => (getQ t 3).getD 1 0 == 0xFFFFFFFF) = true ∧
    after (exec (.qinc 0 3 1 0x2000) (onLive up fun r => { r with q := r.q.set 3 (Vector.replicate 6 0x80000001) }))
      (fun t => (getQ t 3).getD 1 0 == 0x80000000) = true := by decide +kernel
/-- R13, R126: lane 1 takes the sum, lane 0 is masked off. -/
theorem test_viadd_masked :
    after (exec (.viadd 0 5 6 7 1 1) (onLive up fun r => { r with
      m := r.m.set 0 2, v := ((r.v.setIfInBounds 6 (BitVec.ofNat 2048 (3 + 4 * 2 ^ 32))).setIfInBounds 7 (BitVec.ofNat 2048 (5 + 6 * 2 ^ 32))) }))
      (fun t => laneBits 32 (getV t 5) 0 == 0 && laneBits 32 (getV t 5) 1 == 10) = true := by decide +kernel
/-- R97: `rot` takes both rotation bases down by one, modulo 32 and 8. -/
theorem test_rot : after (exec .rot up) (fun t => (regs t).vrot == 31 && (regs t).prot == 7) = true := by decide +kernel
/-- R108, R362: `trap 5` is class 0x0B with the code in the detail. -/
theorem test_trap : after (exec (.trap 5) up) (fun t => (curCtx t).trap == some ⟨0x0B, 0, 0, 0, 0x00050001, 0, 0⟩) = true := by decide +kernel
/-- R98: `chkpt` counts a checkpoint and clears the region. -/
theorem test_chkpt : after (exec .chkpt up) (fun t => (live t).ckcount == 1 && (curCtx t).shadow.ckcount == 1 && (live t).pc == 1) = true := by
  decide +kernel
/-- R174, R175: `tst` to row 31 of tile 95 stores there and leaves row 30. -/
theorem test_tst_row : after (exec (.tst 0 6 95 31) (onLive up fun r => { r with v := r.v.setIfInBounds 6 0x1234 })) (fun t =>
    readNat t.core.scratch (8192 * 95 + 7936) 4 == 0x1234 && readNat t.core.scratch (8192 * 95 + 7680) 4 == 0) = true := by decide +kernel
/-- R168: `acz` zeroes rows 2 and 3 of bank 1 and no other. -/
theorem test_acz : after (exec (.acz 0 1 2 1) { up with core := { up.core with banks := [(1024 + 16, 7), (1024 + 32, 8), (1024 + 63, 9), (1024 + 64, 10)] } })
    (fun t => t.core.banks == [(1024 + 16, 7), (1024 + 64, 10)]) = true := by decide +kernel
/-- R21, R88: a step takes up bundle 0, and the context stands before bundle 1. -/
theorem test_step_adds : after (step (upCode 1 (encodeNat (.addi 0 5 5 7)) [.run 1])) (fun t => getS t 5 == 7 && (live t).pc == 1) = true := by
  decide +kernel
/-- R350: a flit check failure is counted. -/
theorem test_flit : after (exec .flitCheckFailure up) (fun t => t.flitErrors == 1) = true := by decide +kernel
/-- R386: FIPS 180-4, the digest of "abc". -/
theorem test_sha256 : (sha256 [0x61, 0x62, 0x63]).toNat =
    0xBA7816BF8F01CFEA414140DE5DAE2223B00361A396177A9CB410FF61F20015AD := by decide +kernel

/-- An object of the manual's examples: partition 3, number 0x50, generation 1. -/
def printed (dims : Nat) (x : List Nat) : Obj :=
  { blankObj up ⟨0, 0x50⟩ 3 .dense 1 x with generation := 1, dims := dims, loc := ⟨0, true, false, [], false, false, 0, 0, 0⟩ }
/-- R297: the printed class word, and the rights byte of R296's example. -/
theorem test_descriptor : classWord (printed 2 [8, 8]) = 0x000010D010000000 ∧ (descriptorBytes (printed 2 [8, 8])).length = 128 ∧
    (descriptorBytes (printed 2 [8, 8])).getD 0x70 0 = 0xC0 := by decide +kernel
/-- The placement words printed before R398: materialised, and spilled. -/
theorem test_placement_words : placementWord (printed 1 [64]) = 0x0080000000000000 ∧
    placementWord { printed 1 [64] with loc := ⟨0, true, false, [0], false, false, 0, 0, 0⟩ } = 0x00A0000000000000 := by decide +kernel
/-- R398: the printed trap record's bytes. -/
theorem test_trap_record_bytes : trapBytes ⟨7, 7, 0, 29, 3, 1, 0x0000001400044000⟩ =
    [7, 7, 0, 0, 0x1D, 0, 0, 0, 3, 0, 0, 0, 1, 0, 0, 0, 0, 0x40, 4, 0, 0x14, 0, 0, 0] := by decide +kernel

/-- Premises of RecordsHoldTheirFields, each clause at a boundary. -/
theorem meets_RecordsHoldTheirFields :
    (let o := { printed 6 [1] with generation := 4095, partition := 63, point := 3, epsExp := -2048 };
      o.generation < 2 ^ 12 ∧ o.partition < 2 ^ 6 ∧ o.dims < 8 ∧ o.point < 4 ∧ -2048 ≤ o.epsExp ∧ o.epsExp < 2048) ∧
    (let o := { printed 1 [1] with versions := List.replicate 4 ⟨1, ⟨[], []⟩, 0, []⟩, marks := 255 };
      1 ≤ o.versions.length ∧ o.versions.length ≤ 4 ∧ o.marks < 256) ∧
    (let o := { printed 1 [1] with loc := ⟨3, true, true, [], false, false, 0, 0, 0⟩, replicas := [(1, 2)] };
      o.loc.die < 4 ∧ replicaCount o < 8 ∧ replicaCount o = 1) ∧
    (Obj.pendingBytes { printed 1 [1] with pendingBytes := 2 ^ 24 - 1 }) < 2 ^ 24 ∧
    (let h : Hint := ⟨1023, 3, true, true, List.replicate 8 1023⟩;
      h.package < 2 ^ 10 ∧ h.die < 4 ∧ h.mapped.length ≤ 8 ∧ ∀ p ∈ h.mapped, p < 2 ^ 10) ∧
    (State.reset.device ≠ 1) ∧
    (let s := { State.reset with device := 1 };
      s.device = 1 ∧ partitionBy s 63 = none) ∧
    (partitionBy up 0).isSome = true ∧ up.device = 1 ∧
    (⟨1, 0, List.replicate 24 0⟩ : HostEvent).payload.length = 24 := by decide +kernel

end Steps

/-! ## Witnesses: bundles, decoding and turns -/

namespace Bundles

def sAdd : State := upCode 1 0x04028C39 [.run 1]
def sBr : State := upCode 0 0x60640000 [.run 1]
def sBad : State := upCode 2 0x3C000000 [.run 1]
def trapOp : Instr := .sfxf 0 1 2 0xB 0
def sTrapOp : State := upCode 1 (encodeNat trapOp) [.run 1]
def sNops : State := upCode 0 0 [.run 1]
def sEvent : State := { up with schedule := [.event .flitCheckFailure, .run 1] }
def sIdle : State := { up with schedule := [.idle 1 5] }
def sParity : State := { up with schedule := [.parity 1 0] }

/-- The acting turn takes up a bundle with one word. -/
abbrev Takes (s : State) (k w : Nat) (i : Instr) : Prop :=
  ActingTurn s [] ∧ ctxReady s = true ∧ WordAlone s k w ∧ decodesTo k w i = true

theorem meets_StepRunsTheDecodedInstruction :
    (Takes sAdd 1 0x04028C39 (.add 0 5 6 7 1) ∧ slotError (bankShare (contextsPer sAdd)) 1 false (.add 0 5 6 7 1) = none ∧
      isCheckpointOp (.add 0 5 6 7 1) = false ∧
      after (exec (.add 0 5 6 7 1) (bundleFrame (takenUp sAdd []) (alone 1 (.add 0 5 6 7 1)))) (fun t =>
        (curCtx t).trap.isNone && (curCtx (advance t)).trap.isNone && !pcIsSet t) = true) ∧
    (Takes sTrapOp 1 (encodeNat trapOp) trapOp ∧ slotError (bankShare (contextsPer sTrapOp)) 1 false trapOp = none ∧
      isCheckpointOp trapOp = false ∧
      after (exec trapOp (bundleFrame (takenUp sTrapOp []) (alone 1 trapOp))) (fun t => (curCtx t).trap.isSome) = true) ∧
    (Takes sBr 0 0x60640000 (.bktj 6 4) ∧
      after (exec (.bktj 6 4) (bundleFrame (takenUp sBr []) (alone 0 (.bktj 6 4)))) (fun t =>
        (curCtx t).trap.isNone && (curCtx (advance t)).trap.isNone) = true) ∧
    (isEvent .flitCheckFailure ∧ sEvent.schedule = .event .flitCheckFailure :: [.run 1]) := by decide +kernel

theorem meets_EncodedOperationsDecode :
    (slotOf (.svc 31 57 1023) = some 7 ∧ (Instr.svc 31 57 1023).wellFormed = true) ∧
    (0xE0190820 < 2 ^ 32 ∧ decodesTo 7 0xE0190820 (.svc 0 50 65) = true) := by decide +kernel

theorem meets_NopsDoNothing :
    ActingTurn sNops [] ∧ ctxReady sNops = true ∧ bundleWords (bundleBytes sNops (live sNops).pc.toNat) = List.replicate 8 0 ∧
    ownIndex sNops + 1 < codeBundles sNops ∧ NoBodyEnds sNops ∧ (curCtx sNops).region + 1 < regionLimit sNops ∧
    (∀ l ∈ launchOf sNops, ∀ x : Fin 4, (sNops.core.ctxs.get x).silence + 5 < 2 ^ l.watchdog) := by decide +kernel

theorem meets_FailedGuardsDoNothing : guardField (.add 16 5 6 7 0) = some 16 ∧ guardOn up 16 = false ∧
    guardField (.hver 1 20 2) = some 1 ∧ guardOn up 1 = false := by decide +kernel

theorem meets_SlotsKeepTheirFrame :
    ([(.add 0 5 6 7 0, 1), (.vnot 0 2 3 0, 3), (.mxz 0, 4), (.acz 0 0 0 63, 5), (.thdr 0 95 5, 6), (.hver 0 20 2, 7), (.chkpt, 0),
      (.br 0 0 1, 0)] : List (Instr × Nat)).all
      (fun x => decide (slotOf x.1 = some x.2) && after (exec x.1 up) fun t => (curCtx t).trap.isNone) = true := by decide +kernel

theorem meets_IllegalBundlesTrapAndTurnsPass :
    (ActingTurn sBad [] ∧ ctxReady sBad = true ∧ failsWith (decodeBundle sBad) (2, 1 + 256 * 15, 0) = true) ∧
    (WordAlone sBad 2 0x3C000000 ∧ rowOf 2 0x3C000000 = none) ∧
    (sIdle.schedule = .idle sIdle.core.id 5 :: [] ∧ sIdle.core.streams = []) ∧
    (sParity.schedule = .parity sParity.core.id 0 :: [] ∧ (sParity.core.ctxs.get 0).status = .running) := by decide +kernel

theorem meets_TheRootOfTrustChangesOnlyInBringUp :
    State.reset.measure.get 7 = 0 ∧ after (step State.reset) (fun _ => true) = true ∧ State.reset.schedule = [] ∧
    after (exec .flitCheckFailure State.reset) (fun _ => true) = true := by decide +kernel

end Bundles

/-! ## Witnesses: control transfer and registers -/

namespace Registers

def depth (n : Nat) : State := onLive up fun r => { r with returns := List.replicate n 1 }

theorem meets_BranchesCallsAndReturns :
    (predOn up 0 0 = true ∧ inCode up (ownIndex up + (1 : BitVec 21).toInt) ∧
      inCode up (ownIndex up + ((1 : BitVec 15).toInt + (getS up 0).toInt))) ∧
    (predOn (depth 15) 0 0 = true ∧ inCode (depth 15) (ownIndex (depth 15) + (0 : BitVec 21).toInt) ∧
      (regs (depth 15)).returns.length < 16 ∧ (regs (depth 1)).returns = 1 :: [] ∧ inCode (depth 1) (1 : BitVec 32).toNat) ∧
    (predOn up 1 0 = false ∧ ¬inCode up (ownIndex up + (2 : BitVec 21).toInt) ∧
      ¬inCode up (ownIndex up + (-1 : BitVec 21).toInt) ∧ (regs (depth 16)).returns.length = 16 ∧
      predOn (depth 16) 0 0 = true ∧ (regs up).returns = []) ∧
    (¬inCode up (ownIndex up + ((3 : BitVec 15).toInt + (getS (withS up 6 (2 ^ 64 - 1)) 6).toInt)) ∧ (curCtx (depth 15)).trap = none ∧
      ¬inCode (depth 15) (ownIndex (depth 15) + (2 : BitVec 21).toInt) ∧
      (let s := onLive up fun r => { r with returns := [2] }; (regs s).returns = [2] ∧ ¬inCode s (2 : BitVec 32).toNat)) := by
  decide +kernel

def counted : State := onLive up fun r => { r with n := r.n.setIfInBounds 5 1 }
def bucketed : State := withS (onLive up fun r => { r with b := (r.b.set 0 ⟨6, some 0⟩).set 1 ⟨7, some 1⟩ }) 6 7
def looping : State := onLive up fun r => { r with pc := 1, loops := r.loops.setIfInBounds 5 ⟨true, 0, 0⟩ }

theorem meets_LoopsAndBuckets :
    ((getS (withS up 6 0xFFFFFFFF) 6).toNat ≤ 0xFFFFFFFF ∧ 0xFFFFFFFF < (getS (withS up 6 0x100000000) 6).toNat ∧
      ownIndex counted + (0 : BitVec 5).toNat + 1 < codeBundles counted ∧ (regs counted).n.getD (5 : BitVec 3).toNat 0 ≠ 0 ∧
      ∀ m < 6, ((regs counted).loops.getD m ⟨false, 0, 0⟩).active = false) ∧
    ((regs bucketed).b[1].target = some 1 ∧ (getS bucketed 6).toNat ≤ (regs bucketed).b[1].limit.toNat ∧
      (regs bucketed).b[0].limit.toNat < (getS bucketed 6).toNat ∧ inCode bucketed 1) ∧
    (∀ k : Fin 8, (regs up).b[k.val].target = none) ∧
    (predOn up 1 0 = false ∧ ((regs up).loops.getD (0 : BitVec 3).toNat ⟨false, 0, 0⟩).active = false) ∧
    (predOn looping 0 0 = true ∧ regs looping = live looping ∧ (live looping).loops.getD (5 : BitVec 3).toNat ⟨false, 0, 0⟩ = ⟨true, 0, 0⟩ ∧
      (0 : BitVec 32).toNat + 1 < codeBundles looping ∧
      ∀ m < 6, ((live looping).loops.getD m ⟨false, 0, 0⟩).last.toNat = ownIndex looping →
        ((live looping).loops.getD m ⟨false, 0, 0⟩).active = false) := by decide +kernel

/-- Ten bundles of code, bundle 5 next, the bodies of levels 1 (4 to 5) and 0 (2 to 5) with counters a and b. -/
def bodies (a b : Nat) : State :=
  onLive { up with launches := [{ launch0 with bundles := 10 }] } fun r =>
    { r with pc := 5, n := (r.n.set 1 (BitVec.ofNat 32 a)).set 0 (BitVec.ofNat 32 b), loops := (r.loops.set 1 ⟨true, 4, 5⟩).set 0 ⟨true, 2, 5⟩ }
/-- As `bodies`, with level 1's body alone. -/
def body (a : Nat) : State := onLive (bodies a 0) fun r => { r with loops := r.loops.set 0 ⟨false, 2, 5⟩ }

/-- R94: an active body of level j ends at the acting bundle. -/
abbrev endsHere (s : State) (j : Nat) : Prop :=
  ((live s).loops.getD j ⟨false, 0, 0⟩).active = true ∧ ((live s).loops.getD j ⟨false, 0, 0⟩).last.toNat = ownIndex s

theorem meets_LoopsAndBuckets_bodies :
    (let s := withS (onLive up fun r => { r with b := r.b.set 0 ⟨7, some 2⟩ }) 6 7;
      (regs s).b[0].target = some 2 ∧ (getS s 6).toNat ≤ (regs s).b[0].limit.toNat ∧ ¬inCode s 2 ∧ (curCtx s).trap = none) ∧
    (([1, 0] : List Nat).all fun j => decide (endsHere (bodies 9 2) j) && decide (endsHere (bodies 1 2) j)) = true ∧
    (([2, 3, 4, 5] : List Nat).all fun j => decide (¬endsHere (bodies 9 2) j) && decide (¬endsHere (bodies 1 2) j)) = true ∧
    (([0, 2, 3, 4, 5] : List Nat).all fun j => decide (¬endsHere (body 2) j) && decide (¬endsHere (body 0) j)) = true ∧
    endsHere (body 2) 1 ∧ endsHere (body 0) 1 ∧
    (let s := bodies 9 2;
      predOn s 0 0 = true ∧ regs s = live s ∧ codeBundles s = 10 ∧ ((live s).n.getD 0 0).toNat = 2 ∧ ((live s).n.getD 1 0).toNat = 9) ∧
    (let s := bodies 1 2; ((live s).n.getD 1 0).toNat ≤ 1 ∧ 1 < ((live s).n.getD 0 0).toNat) := by decide +kernel

theorem meets_LoopsAndBuckets_lbody :
    (let s := bodies 0 0;
      codeBundles s ≤ ownIndex s + (4 : BitVec 5).toNat + 1 ∧ ownIndex s + (3 : BitVec 5).toNat + 1 < codeBundles s ∧
      ((regs s).loops.getD 0 ⟨false, 0, 0⟩).active = true ∧ ((regs s).loops.getD 0 ⟨false, 0, 0⟩).last.toNat < ownIndex s + 0 + 1) ∧
    (let s := onLive (bodies 0 0) fun r => { r with loops := Vector.replicate 6 ⟨false, 0, 0⟩ };
      NoBodyEnds s ∧ ownIndex s + (2 : BitVec 5).toNat + 1 + 1 < codeBundles s ∧ (regs s).n.getD 2 0 = 0 ∧
      ∀ m < 6, ((regs s).loops.getD m ⟨false, 0, 0⟩).active = false) := by decide +kernel

/-- `lbrk` in the last bundle of the body that it ends, with a nested body that ends there as well. -/
theorem meets_LoopsAndBuckets_lbrk :
    (let s := bodies 9 2;
      predOn s 0 0 = true ∧ regs s = live s ∧ (live s).loops.getD 0 ⟨false, 0, 0⟩ = ⟨true, 2, 5⟩ ∧ ownIndex s = 5 ∧ 5 + 1 < codeBundles s ∧
      ∀ m < 6, ((live s).loops.getD m ⟨false, 0, 0⟩).active = true → ((live s).loops.getD m ⟨false, 0, 0⟩).last.toNat = ownIndex s → m = 0 ∨
        2 ≤ ((live s).loops.getD m ⟨false, 0, 0⟩).first.toNat ∧ ((live s).loops.getD m ⟨false, 0, 0⟩).last.toNat ≤ 5) := by decide +kernel

theorem meets_ScalarIntegerResults : guardOn up 0 = true ∧ ((0 : BitVec 3) = 0 ∧ getS up 7 = 0 ∧ getS (withS up 7 1) 7 ≠ 0) ∧
    ((1 : BitVec 3) = 1 ∧ (getS (withS up 7 0x100000000) 7).truncate 32 = (0 : BitVec 32)) := by decide +kernel

theorem meets_ScalarMovesAndCounts : guardOn up 0 = true ∧ ((0 : BitVec 3) = 0 ∨ (0 : BitVec 3) = 1) ∧
    ((1 : BitVec 3) = 0 ∨ (1 : BitVec 3) = 1) ∧ (5 : BitVec 3).toNat < 6 := by decide +kernel

theorem meets_PredicateResults : guardOn up 0 = true ∧ (9 : BitVec 4).toNat ≤ 9 ∧ (5 : BitVec 4).toNat ≤ 5 ∧
    (5 : BitVec 3).toNat < 6 := by decide +kernel

theorem meets_IndexTuplesAndTreeHelpers : guardOn up 0 = true ∧ (5 : BitVec 3).toNat < 6 ∧
    (¬0x7FF0000000000000 < (getS (withS up 7 0x7FF0000000000000) 7).toNat % 2 ^ 63 ∧ (getS (withS up 7 0x7FF0000000000000) 7).toNat < 2 ^ 63) ∧
    (¬0x7FF0000000000000 < (getS (withS up 7 0x8000000000000000) 7).toNat % 2 ^ 63 ∧ 2 ^ 63 ≤ (getS (withS up 7 0x8000000000000000) 7).toNat) ∧
    (0x7FF0000000000000 < (getS (withS up 7 0x7FF8000000000000) 7).toNat % 2 ^ 63 ∧ (getS (withS up 7 0x7FF8000000000000) 7).toNat / 2 ^ 51 % 2 = 1) ∧
    (0x7FF0000000000000 < (getS (withS up 7 0xFFF0000000000001) 7).toNat % 2 ^ 63 ∧ (getS (withS up 7 0xFFF0000000000001) 7).toNat / 2 ^ 51 % 2 = 0) ∧
    ((getS (withS up 6 63) 6).toNat ≤ 63 ∧ 63 < (getS (withS up 6 64) 6).toNat) := by decide +kernel

/-- R122: the limits of each field of a shape entry. -/
abbrev inLimits (f : BitVec 3) (v : BitVec 64) : Prop :=
  (f = 0 → 1 ≤ v.toNat ∧ v.toNat ≤ 64) ∧ (f = 1 → 1 ≤ v.toNat ∧ v.toNat ≤ 8192) ∧ (f = 2 → v.toNat ≤ 15) ∧
    (f = 3 → v.toNat < 64 ∧ v.toNat % 8 ≤ 5 ∧ v.toNat / 8 ≤ 5) ∧ (f = 4 → v.toNat < 16 ∧ v.toNat / 2 ≤ 5) ∧
    (f = 5 → v.toNat < 16) ∧ (f = 6 → v.toNat ≤ 15) ∧ (f = 7 → v.toNat < 8)

theorem meets_SpecialRegistersAndShapes :
    (guardOn up 0 = true ∧ launchOf up = some launch0 ∧ teamOf up = some team0 ∧ up.core.team < 2 ^ 32 ∧
      (curCtx up).index < 2 ^ 32 ∧ launch0.cols ≤ 8 ∧ launch0.rows ≤ 8 ∧
      launch0.contexts ≤ 4) ∧
    ((getS (withS up 6 5) 6).toNat % 8 < 6 ∧ 6 ≤ (getS (withS up 6 6) 6).toNat % 8) ∧
    (([(0, 64), (1, 8192), (2, 15), (3, 45), (4, 11), (5, 15), (6, 15), (7, 7)] : List (Nat × Nat)).all fun x =>
      decide (inLimits (BitVec.ofNat 3 x.1) (getS (withS up 6 x.2) 6))) = true ∧
    (([(0, 0), (0, 65), (1, 8193), (2, 16), (3, 46), (4, 12), (5, 16), (6, 16), (7, 8)] : List (Nat × Nat)).all fun x =>
      decide (¬inLimits (BitVec.ofNat 3 x.1) (getS (withS up 6 x.2) 6))) = true := by decide +kernel

theorem meets_ScalarFloatResults : guardOn up 0 = true ∧ ((0 : BitVec 3).toNat = (0 : BitVec 1).toNat) ∧
    ((1 : BitVec 3).toNat = (1 : BitVec 1).toNat) ∧ (0xA : BitVec 4).toNat < 0xB ∧ 0xB ≤ (0xB : BitVec 4).toNat := by decide +kernel

theorem meets_VectorIntegerLanesAndMoves : guardOn up 0 = true ∧ (2 : BitVec 2) ≠ 3 ∧ (62 : BitVec 6) ≠ 63 ∧
    ((1 : BitVec 2) = 0 ∨ (1 : BitVec 2) = 1) := by decide +kernel

theorem meets_VectorFloatLanes : guardOn up 0 = true ∧ (5 : BitVec 4).toNat ≤ 5 ∧ (0xA : BitVec 4).toNat < 0xB ∧
    0xB ≤ (0xB : BitVec 4).toNat := by decide +kernel

theorem meets_MasksReductionsAndScans : guardOn up 0 = true ∧ (6 : BitVec 3).toNat ≤ 6 ∧ ((1 : BitVec 2) = 0 ∨ (1 : BitVec 2) = 1) ∧
    (11 : BitVec 4).toNat ≤ 11 := by decide +kernel

def summed : State := withS (onLive up fun r => { r with v := r.v.setIfInBounds 6 1 }) 7 1

theorem meets_ConversionHistogramAndQuantisation : guardOn up 0 = true ∧
    ((0xA : BitVec 4) ≠ 0xB ∧ (9 : BitVec 4) ≠ 0xB ∧ (0xA : BitVec 4) ≠ 9) ∧ ((1 : BitVec 2) = 0 ∨ (1 : BitVec 2) = 1) ∧
    ((getS summed 7).toNat ≤ ((List.range 1).map fun k => (laneBits 32 (getV summed 6) k).toNat).sum) ∧
    (∀ k < 63, ((List.range (k + 1)).map fun k => (laneBits 32 (getV up 6) k).toNat).sum < (getS summed 7).toNat) ∧
    (4 ≤ (4 : BitVec 4).toNat ∧ (0xB : BitVec 4).toNat ≤ 0xB) := by decide +kernel

end Registers

/-! ## Witnesses: tiles, accumulators and the array -/

namespace Tiles

/-- `up` with tiles 94 and 95 full of one row of 256 bytes. -/
def full : State := fullTile (fullTile up 94) 95
/-- In a checkpoint bundle. -/
def inCk (s : State) : State := { s with issue := some ⟨s.core, 0, true, [], false⟩ }
/-- With late loads (R201). -/
def late (s : State) : State := onCtx s fun c => { c with defers := true }
/-- Every row of bank b written in the region of context 0. -/
def written (s : State) (b : Nat) : State :=
  { s with core := { s.core with rowWritten := s.core.rowWritten.setIfInBounds b (BitVec.allOnes 64) } }

theorem meets_TilesAreReadAndStored :
    (guardOn full 0 = true ∧ Canonical full ∧ (95 : BitVec 7).toNat < 96 ∧ readable full 95 ∧
      (curCtx full).defers = false ∧ (curCtx (late full)).defers = true ∧ readable (late full) 95 ∧ Canonical (late full) ∧
      8 * (getS (withS full 6 1023) 6).toNat + 8 ≤ 8192 ∧ 4 * (getS (withS full 6 2047) 6).toNat + 4 ≤ 8192) ∧
    (guardOn up 0 = true ∧ Canonical up ∧ unread up 6 95) := by decide +kernel

theorem meets_TileHeadersAndWaits :
    (guardOn up 0 = true ∧ (95 : BitVec 7).toNat < 96 ∧
      (let v := getS (withS up 6 (1 + 8192 * 2 ^ 7)) 6;
        1 ≤ (v.extractLsb' 0 7).toNat ∧ (v.extractLsb' 0 7).toNat ≤ 64 ∧ 1 ≤ (v.extractLsb' 7 14).toNat ∧
          (v.extractLsb' 7 14).toNat ≤ 8192 ∧ (v.extractLsb' 0 7).toNat * (v.extractLsb' 7 14).toNat ≤ 8192) ∧
      unread (withS up 6 (1 + 8192 * 2 ^ 7)) 6 95 ∧
      (let v := getS (withS up 6 (2 + 8192 * 2 ^ 7)) 6;
        ¬(v.extractLsb' 0 7).toNat * (v.extractLsb' 7 14).toNat ≤ 8192) ∧
      inCheckpoint up = false ∧ ((frame up).tiles.getD 95 Reset.tile).reserved = false ∧ inCheckpoint (inCk up) = true ∧
      guardOn (inCk up) 0 = true) ∧
    (((frame up).tiles.getD 95 Reset.tile).full = false ∧ 4 * (getS (withS up 6 2047) 6).toNat + 4 ≤ 8192 ∧
      (getS (withS up 6 8192) 6).toNat ≤ 8192) := by decide +kernel

/-- Tile 95 reserved. -/
def reserved95 : State :=
  { up with core := { up.core with tiles := up.core.tiles.setIfInBounds 95 { Reset.tile with reserved := true } } }
def shapedUp : State := onLive up fun r => { r with g := Vector.replicate 8 (BitVec.ofNat 65 (1 + 256 * 256 + 2 ^ 24 + 2 ^ 32 + 2 ^ 64)) }

theorem meets_TileHeadersAndWaits_waits :
    (guardOn up 0 = true ∧ (∀ t < 96, ((frame up).tiles.getD t Reset.tile).full = false) ∧ 8 * (getS (withS up 6 1023) 6).toNat + 8 ≤ 8192 ∧
      up.core.bankRead.getD (bankOf up 2) 0 &&& ctxBit up.core.cur.val = 0 ∧ inFlight up up.core.id < 64 ∧ notRead up 95 ∧
      shapeValid (getG shapedUp 1) = true) ∧
    (let s := { up with core := { up.core with bankRead := up.core.bankRead.setIfInBounds 2 1 } };
      s.core.bankRead.getD (bankOf s 2) 0 &&& ctxBit s.core.cur.val ≠ 0) ∧
    ((∀ n < 64, rowWritten (written up 2) 2 n) ∧ ¬rowWritten up 2 63) ∧
    (inCheckpoint reserved95 = false ∧ ((frame reserved95).tiles.getD 95 Reset.tile).reserved = true) := by decide +kernel

theorem meets_TileCopiesAndPacks :
    (guardOn full 0 = true ∧ Canonical full ∧ (94 : BitVec 7).toNat < 96 ∧ (95 : BitVec 7).toNat < 96 ∧ (94 : BitVec 7) ≠ 95 ∧
      readable full 95 ∧ unread full 6 94 ∧ (getS (withS full 6 8192) 6).toNat ≤ 8192 ∧
      (let src := (frame full).tiles.getD 95 Reset.tile;
        ((List.range src.rows.toNat).filter fun i => (getM full 0).getLsbD i).length * src.rowbytes.toNat ≤ 8192 ∧ src.rows.toNat ≤ 64)) ∧
    (unread full 6 95 ∧ 8192 < (getS (withS full 6 8193) 6).toNat) := by decide +kernel

/-- Tile t filled by context 0 in its region. -/
def filledBy (s : State) (t : BitVec 7) : State := onTile s t fun h => { h with writtenBits := 1 }

/-- A pack of a tile onto itself, where the context has filled it and where it has not. -/
theorem meets_TileCopiesAndPacks_inPlace :
    (let s := filledBy full 95;
      guardOn s 0 = true ∧ Canonical s ∧ readable s 95 ∧ unread s 6 95 ∧
      (s.core.tiles.getD 95 Reset.tile).writtenBits &&& ctxBit s.core.cur.val ≠ 0) ∧
    (full.core.tiles.getD 95 Reset.tile).writtenBits &&& ctxBit full.core.cur.val = 0 := by decide +kernel

theorem meets_TileAtomicsAreWithheld :
    guardOn up 0 = true ∧ (62 : BitVec 6).toNat + (if (6 : BitVec 3) = 7 then 2 else 1) < 64 ∧
    (61 : BitVec 6).toNat + (if (7 : BitVec 3) = 7 then 2 else 1) < 64 ∧ isRepro up = false ∧
    (let s := withS up 62 1023; 8 * ((regs s).s.getD 62 0).toNat + 8 ≤ 8192 ∧ heldEntries (curCtx s) < 64) ∧
    (let s := withS up 62 2048; 8192 < 4 * ((regs s).s.getD 62 0).toNat + 4) := by decide +kernel

theorem meets_AccumulatorRows :
    (guardOn (written full 2) 0 = true ∧ CanonicalBanks (written full 2) ∧ bankFree (written full 2) 2 ∧
      (0 : BitVec 6).toNat + (63 : BitVec 6).toNat ≤ 63 ∧ (1 : BitVec 4) ≠ 0xB ∧ readable (written full 2) 95 ∧
      (∀ row < 64, (63 : BitVec 6).toNat ≤ row → rowWritten (written full 2) 2 row) ∧ bankCode (written full 2) 2 ≠ 12) ∧
    ((1 : BitVec 4).toNat = bankCode (written full 2) 2 ∧ (0xC : BitVec 4).toNat ≠ bankCode (written full 2) 2 ∧
      (∀ row < 64, rowWritten (written full 2) 2 row)) ∧
    (Canonical full ∧ CanonicalBanks full ∧ bankFree full 2 ∧ unread full 5 95 ∧ (60 : BitVec 6).toNat + 4 ≤ 64 ∧
      64 < (61 : BitVec 6).toNat + 4) ∧
    (63 < (1 : BitVec 6).toNat + (63 : BitVec 6).toNat ∧
      bankCode { up with core := { up.core with tags := up.core.tags.setIfInBounds 2 .i32 } } 2 = 12) := by decide +kernel

def fresh : State := { full with core := { full.core with fresh := true } }
/-- The planes of tiles 94 and 95 are one byte a weight: int8 with the dense layout. -/
def paired : State :=
  { written full 2 with core := { (written full 2).core with
      active := ⟨[], 9, 0, false⟩, tags := full.core.tags.setIfInBounds 2 .i32 } }
def ranked : State := { paired with core := { paired.core with active := ⟨[], 1, 0, false⟩ } }

theorem meets_WeightPlanesAndStreams :
    (guardOn full 0 = true ∧ Canonical full ∧ (95 : BitVec 7).toNat < 96 ∧ (9 : BitVec 4).toNat ≤ 0xB ∧ (0 : BitVec 2).toNat ≤ 2 ∧
      full.core.preSwap &&& ctxBit full.core.cur.val = 0 ∧ readable full 95 ∧ 16 * columnBytes 9 0 false ≤ 8192 ∧
      full.core.fresh = false ∧ fresh.core.fresh = true ∧ fresh.core.planeRead &&& ctxBit fresh.core.cur.val = 0 ∧
      (let s := { fresh with core := { fresh.core with planeRead := 1 } };
        s.core.fresh = true ∧ s.core.planeRead &&& ctxBit s.core.cur.val ≠ 0)) ∧
    (guardOn paired 0 = true ∧ Canonical paired ∧ readable paired 95 ∧ bankFree paired 2 ∧
      (∀ row ≤ (15 : BitVec 6).toNat, rowWritten paired 2 row) ∧ pairing 9 9 false = some (.i32, 32) ∧
      paired.core.active.fmt = 9 ∧ paired.core.tags.getD (bankOf paired 2) .f32 = .i32 ∧
      ((15 : BitVec 6).toNat + 1) * rowBytesOf 9 (streamK 32 0) false ≤ 8192) ∧
    pairing paired.core.active.fmt.toNat 0 false = none ∧
    (ranked.core.active.fmt = 1 ∧ ranked.core.active.sparsity = 0 ∧ ranked.core.tags.getD (bankOf ranked 2) .f32 = .i32 ∧
      ((31 : BitVec 6).toNat + 1) * 256 ≤ 8192 ∧ readable ranked 95 ∧ bankFree ranked 2 ∧
      ∀ row ≤ (31 : BitVec 6).toNat, rowWritten ranked 2 row) := by decide +kernel

def stream0 : Stream := ⟨0, false, 2, 9, false, ⟨[(0, 2), (3, 0xFF)], 9, 0, false⟩, 0, 1,
  [(List.range 512).map fun i => BitVec.ofNat 8 (i + 100), []]⟩
def busy (cycle : Nat) : State := { up with core := { up.core with
  streams := [stream0], cycle := cycle, tags := Vector.replicate 16 .i32, banks := [(2 * 1024 + 16, 7), (2 * 1024 + 17, 0x7FFFFFFF)] } }
def load0 : Load := ⟨0, ⟨[(0, 2)], 9, 0, false⟩, 3⟩
def loading : State := { up with core := { up.core with load := some load0 } }

theorem meets_ArrayWorkEndsInItsCore :
    ((busy 15).core.streams = stream0 :: [] ∧
      stream0.data = (List.range 512).map (fun i => BitVec.ofNat 8 (i + 100)) :: [[]] ∧
      stream0.start + 14 + stream0.row ≤ (busy 15).core.cycle ∧ stream0.bank < 16 ∧ stream0.row < 64 ∧
      bankWfFrom 0 (busy 15).core.banks = true ∧ stream0.rank = false ∧ stream0.plane.fmt = 9 ∧ stream0.plane.sparsity = 0 ∧
      stream0.plane.scaled = false ∧ stream0.afmt = 9 ∧ stream0.scaled = false ∧ (busy 15).core.tags.getD stream0.bank .f32 = .i32) ∧
    (busy 14).core.cycle < stream0.start + 14 + stream0.row ∧
    (loading.core.load = some load0 ∧ load0.ctx < 4) := by decide +kernel

/-- A stream of one row of the format and the kind, and a core whose banks hold the format. -/
def streamOf (fmt : BitVec 4) (rank : Bool) : Stream :=
  { stream0 with rank := rank, afmt := fmt, plane := ⟨[(0, 2), (3, 0x40)], fmt, 0, false⟩ }
def busyIn (fmt : BitVec 4) (rank : Bool) (acc : AccFmt) : State :=
  { busy 15 with core := { (busy 15).core with streams := [streamOf fmt rank], tags := Vector.replicate 16 acc } }

theorem meets_ArrayWorkEndsInItsCore_floats :
    (([(1, false, .f32), (0, false, .f64), (1, true, .i32)] : List (BitVec 4 × Bool × AccFmt)).all fun x =>
      let s := busyIn x.1 x.2.1 x.2.2
      let st := streamOf x.1 x.2.1
      decide (s.core.streams = [st] ∧ st.plane.fmt = x.1 ∧ st.afmt = x.1 ∧ st.rank = x.2.1 ∧ st.plane.sparsity = 0 ∧ st.plane.scaled = false ∧
        st.scaled = false ∧ s.core.tags.getD st.bank .f32 = x.2.2 ∧ st.start + 14 + st.row ≤ s.core.cycle ∧ bankWfFrom 0 s.core.banks = true)) =
      true := by decide +kernel

/-- A launch that checks latency, and a stream in flight into bank 2. -/
theorem meets_AccumulatorRows_early :
    (let s := { full with launches := [{ launch0 with lchk := true }], core := { full.core with streams := [stream0] } };
      guardOn s 0 = true ∧ isLchk s = true ∧ readable s 95 ∧ stream0 ∈ s.core.streams ∧ stream0.rank = false ∧ stream0.bank = bankOf s 2 ∧
      stream0.row ≤ 1 ∧ 1 < stream0.row + stream0.data.length ∧ bankCode s 2 ≠ 12 ∧ (0xC : BitVec 4).toNat ≠ bankCode s 2) ∧
    64 < (61 : BitVec 6).toNat + 4 := by decide +kernel

/-- A plane and a stream that lie in two tiles, rows and planes past tile 95, and a plane written before the region. -/
theorem meets_WeightPlanesAndStreams_tiles :
    (let s := onTile full 94 fun h => { h with scaled := true };
      guardOn s 0 = true ∧ Canonical s ∧ s.core.load = none ∧ s.core.preSwap &&& ctxBit s.core.cur.val = 0 ∧
      8192 < 16 * columnBytes 9 0 true ∧ readable s 94 ∧ readableAt s 95 ∧ ((frame s).tiles.getD 94 Reset.tile).scaled = true) ∧
    (let s := { full with core := { full.core with preSwap := 1 } };
      s.core.load = none ∧ s.core.preSwap &&& ctxBit s.core.cur.val ≠ 0 ∧ ¬8192 < 16 * columnBytes 9 0 false ∧ readableAt s 94 ∧ guardOn s 0 = true) ∧
    (let rb := rowBytesOf 9 (streamK 32 0) false;
      (94 : BitVec 7).toNat + (31 : BitVec 6).toNat / (8192 / rb) = 95 ∧ 95 < (95 : BitVec 7).toNat + (16 : BitVec 6).toNat / (8192 / rb) ∧
      readableAt paired 94 ∧ readableAt paired 95 ∧ ∀ row ≤ (31 : BitVec 6).toNat, rowWritten paired 2 row) := by decide +kernel

/-- A load under way while a slot would start one (R157). -/
theorem meets_WeightPlanesAndStreams_load : guardOn loading 0 = true ∧ Canonical loading ∧ loading.core.load ≠ none ∧
    full.core.load = none ∧ loading.core.preSwap &&& ctxBit loading.core.cur.val = 0 := by decide +kernel

end Tiles

/-! ## Witnesses: regions, traps and waits -/

namespace Regions

def rec0 : Record := ⟨0, [], 0⟩
def set0 : StageSet := ⟨⟨0, 3⟩, ⟨0, 4⟩, ⟨0, 5⟩, 2, 8, 1, true, [], Vector.replicate 8 [], Vector.replicate 8 0, Vector.replicate 8 0,
  Vector.replicate 8 0, Vector.replicate 8 0, Vector.replicate 8 0, none, 0, false, 0, 0, []⟩
def upPend : State := onLive up fun r => { r with pending := [.s 9] }
def cmdNew : Cmd := cmdOf up (.hver 0 20 2) 20 id
def sUnres : State := withCmds up [cmdNew]

theorem meets_CheckpointsCloseTheRegion :
    (NothingOutstanding upPend ∧ NoBodyEnds upPend ∧ ownIndex upPend + 1 < codeBundles upPend ∧ (curCtx upPend).trap = none ∧ (live upPend).pendingWait = none ∧
      .s (9 : BitVec 6).toNat ∈ (live upPend).pending ∧ .s (10 : BitVec 6).toNat ∉ (live upPend).pending) ∧
    (cmdNew ∈ sUnres.cmds ∧ cmdNew.core = sUnres.core.id ∧ cmdNew.ctx = sUnres.core.cur.val ∧ cmdNew.inRegion = true ∧
      cmdNew.orphan = false ∧ cmdNew.resolved = false ∧ NoBodyEnds sUnres ∧ ownIndex sUnres + 1 < codeBundles sUnres ∧
      (curCtx sUnres).trap = none) := by decide +kernel

def withheldUp (h : List Held) : State := onCtx up fun c => { c with withheld := h }
/-- A resolved command of context 0, held back in its region. -/
def cmdBack : Cmd := { cmdOf up (.hpub 0 20 2) 20 id with kind := .withheld, released := false, resolved := true }
def sBack : State := { withCmds up [cmdBack] with core := (withheldUp [.cmd cmdBack.id true]).core }
/-- An orphan: adopted or not, done or not. -/
def sOrphan (ad dn : Bool) : State := withCmds up [{ cmdBack with kind := .free, released := true, orphan := true, adopted := ad, done := dn }]

theorem meets_CheckpointsCloseTheRegion_effects :
    (([upPend, withheldUp [.fullBit 95 true], withheldUp [.atom 95 0 1 1 1023 0 true], sBack, sOrphan false false, sOrphan true false,
        sOrphan false true] : List State).all fun s => decide ((curCtx s).waiting = [] ∧ (curCtx s).loads = [] ∧ NoBodyEnds s ∧
      ownIndex s + 1 < codeBundles s ∧ (curCtx s).trap = none ∧ (live s).pendingWait = none ∧
      ∀ c ∈ s.cmds, c.resolved = true ∧ c.core = s.core.id ∧ c.ctx = s.core.cur.val)) = true ∧
    ((up.core.tiles.getD 95 Reset.tile).reserved = false ∧ Memory.wf up.core.scratch = true ∧ (1 : BitVec 2).toNat < 2) ∧
    ((curCtx sBack).withheld = ([(cmdBack.id, true)] : List (Nat × Bool)).map (fun p => Held.cmd p.1 p.2) ∧
      cmdBy sBack cmdBack.id = some cmdBack ∧ handedOver cmdBack.op = true ∧ cmdBack.done = false ∧ cmdBack.orphan = false) ∧
    ((live sUnres).pendingWait = none ∧ (curCtx sUnres).waiting = []) ∧
    (([(true, false), (false, false), (false, true)] : List (Bool × Bool)).all fun x =>
      decide ((curCtx (sOrphan x.1 x.2)).withheld = [] ∧ ∃ c ∈ (sOrphan x.1 x.2).cmds, c.orphan = true ∧ c.adopted = x.1 ∧ c.done = x.2)) = true := by
  decide +kernel

/-- A tile atomic on a tile that is uncorrectable (R370). -/
theorem meets_CheckpointsCloseTheRegion_bad :
    (let s := { withheldUp [.atom 95 0 1 1 1023 0 true] with bad := [.tile up.core.id 95] };
      (curCtx s).withheld = [.atom 95 0 1 1 1023 0 true] ∧ BadLoc.tile s.core.id 95 ∈ s.bad ∧ BadLoc.tile up.core.id 95 ∉ up.bad) := by
  decide +kernel

def sHeld : State := { onCtx up fun c => { c with held := some (⟨0, 3⟩, 1, rec0) } with sets := [set0] }

theorem meets_ExitEndsTheContext :
    NothingOutstanding sHeld ∧ (curCtx sHeld).held = some (⟨0, 3⟩, 1, rec0) ∧ (∃ x ∈ sHeld.sets, x.obj = ⟨0, 3⟩) ∧
    (∀ x, x ≠ sHeld.core.cur → (sHeld.core.ctxs.get x).ended = true) ∧ sHeld.parked = [] := by decide +kernel

def entryMark : ForecastEntry := ⟨objHandle (blank 1 .dense 1 [64]), 3, 1, 0xFFFF, 2, [0, 0, 0, 0, 0, 0], [64, 1, 1, 1, 1, 1]⟩
def bind0 : Binding := ⟨0, [entryMark]⟩
def teamArmed : Team := { team0 with armed := [true] }
def launchBound : Launch := { launch0 with binding := some bind0, teams := [teamArmed] }
def sBound : State := { up with launches := [launchBound] }

theorem meets_MarksSetTheMarkerAndTrigger :
    (launchOf up = some launch0 ∧ teamOf up = some team0 ∧ launch0.binding = none) ∧
    (launchOf sBound = some launchBound ∧ teamOf sBound = some teamArmed ∧ launchBound.binding = some bind0 ∧
      teamArmed.marker ≤ (2 : BitVec 16).toNat ∧ bind0.entries[0]? = some entryMark ∧ teamArmed.armed.getD 0 false = true ∧
      entryMark.team = 0xFFFF ∧ entryMark.marker - entryMark.lead ≤ (2 : BitVec 16).toNat) := by decide +kernel

/-- A team that has marked in this cycle, and one whose last marks are of another (R102). -/
theorem meets_MarksSetTheMarkerAndTrigger_cycles :
    (∀ m ∈ team0.marks, m.cycle ≠ up.core.cycle) ∧
    (let t := { team0 with marker := 5, marks := some ⟨up.core.cycle, 7, [5], 3, []⟩ };
      let s := { up with launches := [{ launch0 with teams := [t] }] };
      teamOf s = some t ∧ launchOf s = some { launch0 with teams := [t] } ∧ launch0.binding = none ∧ t.marks = some ⟨s.core.cycle, 7, [5], 3, []⟩) := by
  decide +kernel

/-- A table of one row, which holds an entry for `blank 1`, or one whose action is x. -/
def table (x : Nat) : Obj :=
  { blank 2 .forecast 9 [64, 1] with versions := [⟨1, ⟨cellsOf 0 (fieldBytes 64 [(0, 8, entryMark.handle.toNat), (8, 2, 3), (10, 2, 1),
    (12, 2, 0xFFFF), (14, 1, x), (0x28, 4, 64), (0x2C, 4, 1), (0x30, 4, 1), (0x34, 4, 1), (0x38, 4, 1), (0x3C, 4, 1)]), []⟩, 0, []⟩] }
def cmdTable (op : Instr) : Cmd := cmdOf up op 20 fun c =>
  { c with kind := .withheld, resolved := true, released := true, cap := { c.cap with handle := objHandle (table 2) } }
def sTable (x : Nat) (op : Instr) : State := withCmds (withObjs up [table x]) [cmdTable op]

theorem meets_MarksSetTheMarkerAndTrigger_bindings :
    (([(2, .fcbind 0 20 2), (5, .fcbind 0 20 2), (2, .fcbindUn 0 20)] : List (Nat × Instr)).all fun x =>
      let s := sTable x.1 x.2
      decide (Due s (cmdTable x.2) ∧ coreOf s (cmdTable x.2).core = some s.core ∧ s.core.launch = launch0.id ∧
        launchBy s launch0.id = some launch0 ∧ launchOf s = some launch0 ∧ teamOf s = some team0 ∧ (launch0.teams.map (·.index)).Nodup)) = true ∧
    (([2, 5] : List Nat).all fun x =>
      let s := sTable x (.fcbind 0 20 2)
      let c := cmdTable (.fcbind 0 20 2)
      decide (objectPresent s c = true ∧ cmdObj s c = some (table x) ∧ badView s (table x) (some 1) (wholeAddrs (table x)) = none)) = true ∧
    ((tableRows (table 2) 1).length = 1 ∧ validEntry ((tableRows (table 2) 1).getD 0 []) = true ∧
      validEntry ((tableRows (table 5) 1).getD 0 []) = false) := by decide +kernel

def cmdPut : Cmd := { cmdOf up (.hpub 0 20 2) 20 id with kind := .withheld, released := false }
def sCmds : State := withCmds up [cmdNew, cmdPut]

theorem meets_TrapsRollBackAndAreRecorded :
    (curCtx (takeTrap up 0x06 1 0 0)).trap ≠ none ∧ (curCtx sCmds).trap = none ∧
    (part0 ∈ sCmds.partitions ∧ part0.number = actingPartition sCmds) ∧
    (cmdNew ∈ sCmds.cmds ∧ cmdNew.core = sCmds.core.id ∧ cmdNew.ctx = sCmds.core.cur.val ∧ cmdNew.inRegion = true ∧ cmdNew.kind = .free) ∧
    (cmdPut ∈ sCmds.cmds ∧ cmdPut.core = sCmds.core.id ∧ cmdPut.ctx = sCmds.core.cur.val ∧ cmdPut.inRegion = true ∧
      cmdPut.kind = .withheld ∧ cmdPut.released = false) := by decide +kernel

def waitsFor (w : CloseKind) : State := onLive up fun r => { r with pendingWait := some w, barCount := 1, stepCount := 1, waitNext := 1 }
def short : State := { waitsFor .bar with parked := [{ up.core with id := 9, rel := 1 }] }
def pends : State := onLive (waitsFor (.wait 9)) fun r => { r with pending := [.s 9] }
def wTld : WaitSlot := ⟨6, .tld 0 1 95 31, live up, 0, false, []⟩
def wMark : WaitSlot := ⟨0, .mark 3 0, live up, 0, false, []⟩
def stands (w : WaitSlot) : State := onCtx up fun c => { c with waiting := [w] }
def turned : State := onLive { up with core := { up.core with ctxs := up.core.ctxs.set 1 { Reset.ctx with status := .running }, yielded := true } }
  fun r => { r with pendingWait := some .bar }

/-- Every context of the team's core y has ended or counted to n. -/
abbrev counted (count : Regs → BitVec 32) (n : Nat) (y : CoreRec) : Prop :=
  ∀ z : Fin 4, (y.ctxs.get z).status = .exited ∨ (y.ctxs.get z).status = .idle ∨ n ≤ (count (y.ctxs.get z).live).toNat

theorem meets_WaitsEndAndSlotsRetire_waits :
    (let s := waitsFor .bar;
      teamBy s s.core.launch s.core.team = some team0 ∧ team0.busy = false ∧
      (s.core.ctxs.get 0).status = .running ∧ (s.core.ctxs.get 0).closing = none ∧ (s.core.ctxs.get 0).live.pendingWait = some .bar ∧
      ∀ y ∈ allCores s, y.launch = s.core.launch → y.team = s.core.team → counted (·.barCount) 1 y) ∧
    ((short.core.ctxs.get 0).live.pendingWait = some .bar ∧
      ∃ y ∈ allCores short, y.launch = short.core.launch ∧ y.team = short.core.team ∧ ¬counted (·.barCount) 1 y) ∧
    (let s := waitsFor .sstep;
      (s.core.ctxs.get 0).live.pendingWait = some .sstep ∧ launchBy s s.core.launch = some launch0 ∧
      ∀ tm ∈ launch0.teams, tm.everPlaced = true ∧
        ∀ y ∈ allCores s, y.launch = s.core.launch → y.team = tm.index → counted (·.stepCount) 1 y) ∧
    (((waitsFor (.wait 9)).core.ctxs.get 0).live.pendingWait = some (.wait 9) ∧
      .s 9 ∉ ((waitsFor (.wait 9)).core.ctxs.get 0).live.pending ∧ .s 9 ∈ (pends.core.ctxs.get 0).live.pending) := by
  decide +kernel

theorem meets_WaitsEndAndSlotsRetire_slots :
    (let s := fullTile (stands wTld) 95;
      s.issue = none ∧ (curCtx s).status = .running ∧ (curCtx s).closing = none ∧ (curCtx s).waiting = [wTld] ∧
      (curCtx s).loads = [] ∧ (curCtx s).defers = false ∧ (curCtx s).region + 1 < regionLimit s ∧ (curCtx s).trap = none ∧
      teamBy s s.core.launch s.core.team = some team0 ∧ team0.status = .placed ∧ guardOn (modLive s fun _ => wTld.pre) 0 = true ∧
      Canonical s ∧ readable s 95) ∧
    (((stands wTld).core.tiles.getD 95 Reset.tile).full = false ∧ (curCtx (stands wTld)).waiting = [wTld]) ∧
    ((curCtx (stands wMark)).waiting = [wMark] ∧ (curCtx (stands wMark)).holds = [] ∧ holding (stands wMark) (stands wMark).core.launch (stands wMark).core.team 3 = []) ∧
    (turned.issue = none ∧ turned.core.yielded = true ∧ chosen turned = some 1 ∧ up.core.yielded = false) := by decide +kernel

def wFull (op : Instr) : WaitSlot := ⟨6, op, live up, 0, false, []⟩
def standsReserved (op : Instr) : State := reserveTile (stands (wFull op)) 95
/-- Any other slot that waits: here an array load whose tile is full now. -/
def wLoad : WaitSlot := ⟨4, .mxlw 0 95 4 0, live up, 0, false, []⟩
def sLoad : State := fullTile (stands wLoad) 95

theorem meets_WaitsEndAndSlotsRetire_others :
    (([.tfree 0 95, .tsetf 0 95] : List Instr).all fun op =>
      decide (guardOn (modLive (stands (wFull op)) fun _ => (wFull op).pre) 0 = true ∧ (curCtx (stands (wFull op))).waiting = [wFull op] ∧
        ((stands (wFull op)).core.tiles.getD 95 Reset.tile).reserved = false ∧ notRead (stands (wFull op)) 95 ∧
        ((standsReserved op).core.tiles.getD 95 Reset.tile).reserved = true ∧ (curCtx (standsReserved op)).waiting = [wFull op])) = true ∧
    ((curCtx sLoad).waiting = [wLoad] ∧ after (exec wLoad.op (waitFrame (removeWait (seenForWait sLoad wLoad) wLoad) wLoad)) (fun u =>
      (curCtx u).waiting == [] && (curCtx u).trap == none && u.core.id == sLoad.core.id && u.core.cur == sLoad.core.cur &&
        launchOf u == launchOf sLoad && (curCtx u).region == (curCtx sLoad).region) = true) := by decide +kernel

end Regions

/-! ## Witnesses: commands -/

namespace Engines

def shape1 : BitVec 65 := BitVec.ofNat 65 (1 + 256 * 256 + 2 ^ 24 + 2 ^ 32 + 2 ^ 64)
/-- Tiles 5 and 6 full, and every shape entry valid: one row of 256 bytes. -/
def upEng : State := onLive (fullTile (fullTile up 5) 6) fun r => { r with g := Vector.replicate 8 shape1 }
def inCk (s : State) : State := { s with issue := some ⟨s.core, 0, true, [], false⟩ }
def held (n : Nat) : State := onCtx upEng fun c => { c with withheld := (List.range n).map fun i => Held.cmd (100 + i) true }
def flying (n : Nat) : State :=
  withCmds upEng ((List.range n).map fun i => { cmdOf up (.hver 0 20 2) 20 id with id := 100 + i })
def repro : State := { upEng with launches := [{ launch0 with repro := true }] }
def readTile : State := { up with core := { up.core with tiles := up.core.tiles.setIfInBounds 10 { Reset.tile with readBits := 1 } } }

theorem meets_FreeCommandsIssue :
    guardOn (flying 63) 0 = true ∧ MayIssue (flying 63) ∧
    ((freeForms upEng 0 5 20 4 1).all fun f => f.sources.all fun n => decide (n = 5 ∨ n = 6)) = true ∧ readableAt upEng 5 ∧ readableAt upEng 6 ∧
    (freeForms upEng 0 5 20 4 1).length = 12 ∧
    (notRead upEng 95 ∧ vacant upEng 95) ∧ (notRead upEng 5 ∧ ¬vacant upEng 5) := by decide +kernel

/-- An orphan of `hver 1, s20, h2`, done or not. -/
def orphan0 (dn : Bool) : Cmd :=
  { cmdOf upEng (.hver 0 20 4) 20 fun c => { c with cap := named upEng 4 } with
    orphan := true, done := dn, resolved := true, result := some ⟨0, 1, 2, [], none, none, 0⟩ }

theorem meets_FreeCommandsIssue_orphans :
    (([true, false] : List Bool).all fun dn =>
      let s := withCmds upEng [orphan0 dn]
      let d := orphan0 dn
      decide (guardOn s 0 = true ∧ s.cmds = [d] ∧ d.core = s.core.id ∧ d.ctx = s.core.cur.val ∧ d.kind = .free ∧ d.orphan = true ∧
        d.adopted = false ∧ d.discarded = false ∧ d.done = dn ∧ d.result = some ⟨0, 1, 2, [], none, none, 0⟩) &&
      (freeForms s 0 5 20 4 1).any fun f => decide (f.sources = [] ∧ d.op = f.op ∧ d.cap.handle = f.cap.handle ∧ d.cap.source = f.cap.source ∧
        d.cap.shape = f.cap.shape ∧ d.cap.tuple = f.cap.tuple ∧ d.cap.mask = f.cap.mask ∧ d.cap.args = f.cap.args ∧
        d.cap.seed = f.cap.seed)) = true := by decide +kernel

theorem meets_HeldCommandsIssue :
    (guardOn (held 63) 0 = true ∧ MayIssue (held 63) ∧ heldEntries (curCtx (held 63)) < 64 ∧ inCheckpoint (inCk (held 64)) = true ∧
      MayIssue (inCk (held 64)) ∧ (withheldForms (held 63) 0 5 20 4 3 1 2 0 0).length = 26 ∧
      ((withheldForms (held 63) 0 5 20 4 3 1 2 0 0).all fun f =>
        f.sources.all (fun n => decide (n = 5 ∨ n = 6)) && f.checked.all (fun n => decide (n = 5))) = true ∧
      readableAt (held 63) 5 ∧ readableAt (held 63) 6 ∧ notRead (held 63) 5) ∧
    ((checkpointForms upEng 0 5 20 4 0 0 0 1 32).length = 6 ∧
      ((checkpointForms upEng 0 5 20 4 0 0 0 1 32).all fun f => f.checked.all fun n => decide (n = 5)) = true ∧
      guardOn upEng 0 = true ∧ MayIssue upEng ∧ notRead upEng 5) := by decide +kernel

/-- A team of two cores. -/
def wide (s : State) : State :=
  { s with
    launches := s.launches.map fun l => { l with cols := 2, teams := l.teams.map fun t => { t with place := some ⟨0, [0], [[0, 1]]⟩ } } }
def pair : State := wide { upEng with parked := [{ up.core with id := 9, rel := 1, place := some 1 }] }
def pairFull : State := wide { upEng with parked := [{ (fullTile up 5).core with id := 9, rel := 1, place := some 1 }] }
def pairGone : State := wide upEng

theorem meets_CommandsTrapAndTransfersReserve :
    (guardOn up 0 = true ∧ shapeValid (getG up 1) = false ∧ isRepro repro = true ∧ 4 ≤ (4 : BitVec 3).toNat ∧ up.cmds = [] ∧
      ¬notRead readTile 10 ∧ inCheckpoint (held 64) = false ∧ 64 ≤ heldEntries (curCtx (held 64)) ∧
      64 ≤ inFlight (flying 64) (flying 64).core.id ∧ ∀ c ∈ (flying 64).cmds, c.orphan = false) ∧
    (guardOn pair 0 = true ∧ inFlight pair pair.core.id < 64 ∧ readable pair 5 ∧ pair.core.rel ∉ [1] ∧ notRead pair 5 ∧
      (relCore (placementOf pair) (teamCols pair) 0 1).toList = [1] ∧ destUnavailable pair 1 = false ∧
      (teamCore pair 1).elim false (fun d => (d.tiles.getD 5 Reset.tile).full) = false) ∧
    (destUnavailable pairFull 1 = false ∧ (teamCore pairFull 1).elim false (fun d => (d.tiles.getD 5 Reset.tile).full) = true) ∧
    (destUnavailable pairGone 1 = true ∧ (relCore (placementOf pair) (teamCols pair) 0 7).isNone = true) := by decide +kernel

def dense1 : Obj := blank 1 .dense 1 [64]
def denseI : Obj := { blank 1 .dense 12 [64] with draft := some ⟨1, ⟨[], []⟩, [], none, false, []⟩, draftNo := 1 }
def tree1 : Obj := blank 1 .tree 1 [64, 1, 7]
def buf1 : Obj := { blank 1 .expert 1 [64, 8] with started := true, draft := some ⟨1, ⟨[], []⟩, [], none, false, []⟩, draftNo := 1 }
def h1 : BitVec 64 := objHandle dense1
def onObj (s : State) (o : Obj) : State := withObjs s [o]
def cmdUn : Cmd := cmdOf up (.hver 0 20 2) 20 fun c => { c with cap := { c.cap with handle := h1 }, resolved := false }
def sUnOk : State := withCmds (onObj up dense1) [cmdUn]
def sUnNo : State := withCmds up [cmdUn]

theorem meets_ResolutionPassesOrTraps :
    (cmdBy sUnOk cmdUn.id = some cmdUn ∧ cmdUn.resolved = false ∧ Quiet sUnOk ∧ firstFail sUnOk cmdUn = none) ∧
    (cmdBy sUnNo cmdUn.id = some cmdUn ∧ Quiet sUnNo ∧ needsOf cmdUn.op ≠ [] ∧ handleReserved cmdUn.cap.handle = 0 ∧
      handleHome cmdUn.cap.handle < 576 ∧ objAt sUnNo (handleKey cmdUn.cap.handle) = none ∧ Standing sUnNo cmdUn ∧ cmdUn.ctx < 4 ∧
      (ctxOf sUnNo cmdUn.core cmdUn.ctx).all (fun x => x.trap.isNone) = true ∧ (ctxOf sUnNo cmdUn.core cmdUn.ctx).isSome = true) := by
  decide +kernel

/-- A command that its engine may perform, of the object. -/
def dueCmd (op : Instr) (o : Obj) (cap : Capture → Capture) : Cmd :=
  cmdOf up op 20 fun c => { c with resolved := true, released := true, cap := cap { c.cap with handle := objHandle o } }
/-- The command's state: its object, and its context changed. -/
def dueIn (op : Instr) (o : Obj) (cap : Capture → Capture) (f : Ctx → Ctx) : State := withCmds (onCtx (onObj up o) f) [dueCmd op o cap]
def openDraft0 (routed : Bool) : Draft := ⟨1, ⟨[], []⟩, [], none, routed, []⟩
def opened (o : Obj) : Obj := { o with draft := some (openDraft0 false), draftNo := 1 }
def joins (c : Ctx) : Ctx := { c with drafts := [⟨⟨0, 1⟩, h1, 1⟩] }
def eightDrafts (c : Ctx) : Ctx := { c with drafts := (List.range 8).map fun n => ⟨⟨0, 50 + n⟩, 0, 1⟩ }
def pinnedAt (v : Nat) (c : Ctx) : Ctx := { c with pins := [⟨⟨0, 1⟩, h1, v⟩] }
def eightPins (c : Ctx) : Ctx := { c with pins := (List.range 8).map fun n => ⟨⟨0, 50 + n⟩, 0, 1⟩ }
def subbed (n : Nat) : Obj := { dense1 with subs := (List.range n).map fun i => ⟨100 + i, up.core.id, 0, false⟩ }

/-- Nothing keeps the engine from the command. -/
abbrev MayRun (op : Instr) (o : Obj) (f : Ctx → Ctx) : Prop :=
  Due (dueIn op o id f) (dueCmd op o id) ∧ Plain (dueIn op o id f) (dueCmd op o id) o ∧ o.spilling = []

theorem meets_CompletionsAndTransfers_versions :
    (([.hver 0 20 2, .hopen 0 20 2, .hdisc 0 20 2, .hpin 0 20 2, .hpinV 0 20 2, .hunpin 0 20 2, .hsub 0 20 2 0, .hsub 0 20 2 1,
        .hsubV 0 20 2 0, .hsubV 0 20 2 1, .hunsub 0 20 2] : List Instr).all fun op => decide (MayRun op dense1 id)) = true ∧
    (([(.hopen 0 20 2, dense1, eightDrafts), (.hopen 0 20 2, opened dense1, joins), (.hopen 0 20 2, opened dense1, id),
        (.hdisc 0 20 2, opened dense1, joins), (.hdisc 0 20 2, { opened dense1 with draft := some (openDraft0 true) }, joins),
        (.hpin 0 20 2, dense1, eightPins), (.hpin 0 20 2, dense1, pinnedAt 1), (.hunpin 0 20 2, dense1, pinnedAt 1),
        (.hsub 0 20 2 1, dense1, pinnedAt 7), (.hsub 0 20 2 1, dense1, pinnedAt 1), (.hsub 0 20 2 0, subbed 8, id),
        (.hsub 0 20 2 0, subbed 7, id), (.hunsub 0 20 2, subbed 1, id)] : List (Instr × Obj × (Ctx → Ctx))).all fun x =>
      decide (MayRun x.1 x.2.1 x.2.2)) = true ∧
    (liveDraft (opened dense1) (joins Reset.ctx) = true ∧ liveDraft dense1 (joins Reset.ctx) = false ∧ dense1.current = 1 ∧
      subCount (dueIn (.hsub 0 20 2 0) (subbed 8) id id) (dueCmd (.hsub 0 20 2 0) dense1 id) = 8 ∧
      registered (dueIn (.hsub 0 20 2 0) (subbed 8) id id) (dueCmd (.hsub 0 20 2 0) dense1 id) = false) ∧
    (subbed 1).subs.any (fun x => x.core == up.core.id && x.ctx == 0) = true := by decide +kernel

def resOk : Result := plainResult 0 1 2
def cmdDone : Cmd := { cmdUn with resolved := true, result := some resOk }
def cmdDoneX : Cmd := { cmdOf up (.txferAll 0 5 20) 20 id with result := some resOk }
def sDone : State := withCmds (onObj up dense1) [cmdDone]
def sDoneX : State := withCmds up [cmdDoneX]
def cmdX : Cmd := { cmdOf pair (.txferAll 0 5 20) 20 id with
  reserved := true, cap := { noOperands pair with dests := [1], tile := [(3, 7)], rows := 1, rowbytes := 256, fmt := 1 } }
def sX : State := withCmds pair [cmdX]

theorem meets_CompletionsAndTransfers :
    (Standing sDone cmdDone ∧ Quiet sDone ∧ (cmdTeam sDone cmdDone).all (fun t => !t.busy) = true ∧ cmdDone.reserved = false ∧
      cmdDone.result = some resOk ∧ resOk.follow = [] ∧ resOk.mask = none ∧ resOk.trace = none ∧
      (ctxOf sDone cmdDone.core cmdDone.ctx).isSome = true ∧ cmdDone.kind ≠ .transfer) ∧
    (Standing sDoneX cmdDoneX ∧ Quiet sDoneX ∧ (cmdTeam sDoneX cmdDoneX).all (fun t => !t.busy) = true ∧ cmdDoneX.reserved = false ∧
      cmdDoneX.result = some resOk ∧ (transferTile cmdDoneX.op).isSome = true) ∧
    (Standing sX cmdX ∧ Quiet sX ∧ (cmdTeam sX cmdX).all (fun t => !t.busy) = true ∧ cmdX.result = none ∧ transferTile cmdX.op = some 5 ∧
      Memory.wf cmdX.cap.tile = true ∧ (∀ d ∈ allCores sX, Memory.wf d.scratch = true) ∧ Undisturbed sX 5 ∧ (ctxOf sX cmdX.core cmdX.ctx).isSome = true ∧
      cmdX.token < 64 ∧ destCores sX cmdX = [9]) := by decide +kernel

def ready (f : Cmd → Cmd) (op : Instr) : Cmd := cmdOf up op 20 fun c => f { c with resolved := true, released := true, reserved := true }
def cmdFet : Cmd := ready (fun c => { c with cap := { c.cap with handle := h1, shape := shape1 } }) (.hfet 0 94 20 2 1)
def dense1v : Obj := { dense1 with versions := [⟨1, ⟨[(5, 9), (255, 3)], []⟩, 0, []⟩] }
def sFet : State := withCmds (onObj up dense1v) [cmdFet]
def cmdXref : Cmd := ready id (.xref 0 94 20)
def sXref : State := withCmds (onCtx up fun c => { c with refusals := [⟨77, false⟩] }) [cmdXref]
def cmdDesc : Cmd := ready (fun c => { c with cap := { c.cap with handle := h1, rows := 2, rowbytes := 256, fmt := 1 } }) (.tdesc 0 94 20 2 1)
def sDesc : State := withCmds (onObj up tree1) [cmdDesc]

theorem meets_LandingsFillReservedTiles_fetch :
    (LandingDue sFet cmdFet ∧ Quiet sFet ∧ (cmdTeam sFet cmdFet).all (fun t => !t.busy) = true ∧ cmdFet.core = sFet.core.id ∧
      Memory.wf up.core.scratch = true ∧ cmdFet.ctx < 4 ∧ (94 : BitVec 7).toNat < 95 ∧ cmdFet.op = .hfet 0 94 20 2 1 ∧
      shapeRows cmdFet.cap.shape * shapeRowbytes cmdFet.cap.shape ≤ 8192 ∧
      gives (tileMap cmdFet.cap.shape cmdFet.cap.tuple dense1v) ⟨1, 64, 1, 0, [0, 0, 0, 0, 0, 0], false⟩ = true ∧
      dense1v.kind ≠ .host ∧ dense1v.fmt ≠ 0xB ∧ shapeConv cmdFet.cap.shape = false) := by decide +kernel

theorem meets_LandingsFillReservedTiles_refusals :
    (LandingDue sXref cmdXref ∧ Quiet sXref ∧ (cmdTeam sXref cmdXref).all (fun t => !t.busy) = true ∧
      (coreOf sXref cmdXref.core).any (fun d => Memory.wf d.scratch) = true ∧ cmdXref.ctx < 4 ∧ (cmdCtx sXref cmdXref).refusals.length ≤ 64) := by decide +kernel

def landing (op : Instr) : State := withCmds up [ready id op]
def setL : StageSet := { Regions.set0 with obj := ⟨0, 1⟩ }
def cmdStat : Cmd := ready (fun c => { c with cap := { c.cap with handle := objHandle (blank 1 .stage 2 [8]) } }) (.rstat 0 94 20 2)
def sRstat : State := { withCmds (onObj up (blank 1 .stage 2 [8])) [cmdStat] with sets := [setL] }
def cmdTaken : Cmd := { ready id (.rtake 0 94 20 2 1) with result := some ⟨0, 1, 2, [], none, none, 0⟩ }
/-- A fetch whose map is refused: the formats differ. -/
def cmdFetE : Cmd := { cmdFet with cap := { cmdFet.cap with shape := BitVec.ofNat 65 (1 + 256 * 256 + 2 ^ 32 + 2 ^ 64) } }
def cmdGat : Cmd := { cmdFet with op := .hgat 0 94 20 2 1, cap := { cmdFet.cap with mask := 1, next := [] } }
def window1 : Obj := { blank 1 .host 1 [64] with iova := 0x5000 }
def cmdFetW : Cmd := { cmdFet with cap := { cmdFet.cap with handle := objHandle window1 } }
def sReject : State := { withCmds (onObj up window1) [cmdFetW] with partitions := [{ part0 with rejected := [(0x5001, 1)] }] }

/-- The premises that all landings share. -/
abbrev LandsIn (s : State) (c : Cmd) : Prop :=
  Standing s c ∧ Quiet s ∧ NotBusy s c ∧ coreOf s c.core = some s.core ∧ Memory.wf s.core.scratch = true ∧ c.ctx < 4 ∧
    Undisturbed s 94 ∧ Undisturbed s 95 ∧ c.reserved = true

theorem meets_LandingsFillReservedTiles_all :
    (([.cread 0 94 20, .csnap 0 94 20, .fcstat 0 94 20] : List Instr).all fun op =>
      decide (LandsIn (landing op) (ready id op) ∧ (ready id op).released = true ∧ (ready id op).resolved = true ∧ (ready id op).result = none ∧
        cmdLaunch (landing op) (ready id op) = some launch0 ∧ cmdTeam (landing op) (ready id op) = some team0)) = true ∧
    (LandsIn sRstat cmdStat ∧ setBy sRstat (handleKey cmdStat.cap.handle) = some setL) ∧
    (LandsIn (withCmds up [cmdTaken]) cmdTaken ∧ cmdTaken.result = some ⟨0, 1, 2, [], none, none, 0⟩) ∧
    (([cmdFet, cmdFetE, cmdGat] : List Cmd).all fun c =>
      let s := withCmds (onObj up dense1v) [c]
      decide (LandsIn s c ∧ mayPerform s c = true ∧ blockInFlight s c = false ∧ Plain s c dense1v ∧ shapeFmt c.cap.shape ≠ 0xB)) = true ∧
    failsWith (tileMap cmdFetE.cap.shape cmdFetE.cap.tuple dense1v) 0x20 = true := by decide +kernel

def spilled1 : Obj := { dense1v with loc := { dense1v.loc with spilled := [0] } }
/-- A fetch in probe mode, and one of a row of an OX4 object. -/
def cmdProbe : Cmd := { cmdFet with cap := { cmdFet.cap with shape := shape1 ||| (1 : BitVec 65) <<< 48 } }
def ox1 : Obj := blank 1 .dense 0xB [64]
def shapeOx : BitVec 65 := BitVec.ofNat 65 (1 + 256 * 36 + 2 ^ 24 * 0xB + 2 ^ 32 + 2 ^ 64)
def cmdFetOx : Cmd := { cmdFet with cap := { cmdFet.cap with shape := shapeOx } }

/-- An absent shard in fault mode and in probe mode, and a row of OX4 blocks. -/
theorem meets_LandingsFillReservedTiles_absent :
    (([(cmdFet, spilled1), (cmdProbe, spilled1), (cmdProbe, dense1v), (cmdFetOx, ox1)] : List (Cmd × Obj)).all fun x =>
      let s := withCmds (onObj up x.2) [x.1]
      decide (LandsIn s x.1 ∧ mayPerform s x.1 = true ∧ blockInFlight s x.1 = false ∧ cmdObj s x.1 = some x.2 ∧ s.bad = [] ∧
        shapeRows x.1.cap.shape * shapeRowbytes x.1.cap.shape ≤ 8192 ∧
        (tileMap x.1.cap.shape x.1.cap.tuple x.2).toOption.any (fun m => rejectIndex s x.2 (fetchPoints x.1 m) == none) = true ∧
        (absentCause s x.2 0 (viewOf x.2 (cmdCtx s x.1)).1 (cmdCluster s x.1) ≠ 0 ↔ x.2 = spilled1) ∧ 0 ∈ regionShards x.1 x.2)) = true ∧
    (shapeProbe cmdProbe.cap.shape = true ∧ shapeProbe cmdFet.cap.shape = false ∧ shapeFmt cmdFetOx.cap.shape = 0xB) := by decide +kernel

theorem meets_LandingsFillReservedTiles_rejected : LandsIn sReject cmdFetW ∧ Plain sReject cmdFetW window1 ∧
    ((tileMap cmdFetW.cap.shape cmdFetW.cap.tuple window1).toOption.any fun m =>
      rejectIndex sReject window1 (fetchPoints cmdFetW m) == some 1) = true := by decide +kernel

theorem meets_LandingsFillReservedTiles_descent :
    (LandingDue sDesc cmdDesc ∧ Quiet sDesc ∧ (cmdTeam sDesc cmdDesc).all (fun t => !t.busy) = true ∧ cmdDesc.core = sDesc.core.id ∧
      earlierDescent sDesc cmdDesc = false ∧
      pairing tree1.fmt.toNat cmdDesc.cap.fmt.toNat (tree1.scaled || (cmdDesc.cap.scaled && mayScale cmdDesc.cap.fmt.toNat)) = some (.f32, 4) ∧
      cmdDesc.cap.rows ≠ 0 ∧ cmdDesc.cap.rowbytes = batchBytes cmdDesc.cap.fmt.toNat (extentAt tree1 0) cmdDesc.cap.scaled) := by decide +kernel

theorem meets_Reachable_fetch : Reachable sFet cmdFet dense1v :=
  reachable_of_plain (by decide +kernel)
theorem meets_Reachable_descent : Reachable sDesc cmdDesc tree1 :=
  reachable_of_plain (by decide +kernel)

/-- What every clause about a home asks: nothing keeps the engine from the command, and its object is plain. -/
abbrev AtHome (op : Instr) (o : Obj) (cap : Capture → Capture) (f : Ctx → Ctx) : Prop :=
  Due (dueIn op o cap f) (dueCmd op o cap) ∧ Plain (dueIn op o cap f) (dueCmd op o cap) o

/-- Two FP32 elements, and the shape of one row of them. -/
def small1 : Obj := blank 1 .dense 1 [2]
def shape2 : BitVec 65 := BitVec.ofNat 65 (1 + 256 * 8 + 2 ^ 24 + 2 ^ 32 + 2 ^ 64)
def rowCap (g : BitVec 65) (c : Capture) : Capture := { c with shape := g, mask := 1, rows := 1, rowbytes := 8, fmt := 1 }

theorem meets_HomesApplyCommandsInOneStep_puts :
    (([.hput 0 5 20 2 1, .hsca 0 5 20 2 1] : List Instr).all fun op =>
      ([({ small1 with compressed := true }, id), (small1, id), (opened small1, joins)] : List (Obj × (Ctx → Ctx))).all fun x =>
        decide (AtHome op x.1 (rowCap shape2) x.2 ∧ x.1.kind ≠ .host)) = true ∧
    gives (tileMap shape2 (noOperands up).tuple (opened small1)) ⟨1, 2, 1, 0, [0, 0, 0, 0, 0, 0], false⟩ = true ∧
    failsWith (tileMap (shape2 &&& ~~~((15 : BitVec 65) <<< 24)) (noOperands up).tuple small1) 0x20 = true ∧
    (liveDraft (opened small1) (joins Reset.ctx) = true ∧ shapeConv shape2 = false ∧ shapeFmt shape2 = 1 ∧
      Memory.wf (draftStore (opened small1)).bytes = true ∧ Apart (opened small1) [([0, 0], 7), ([1, 0], 9)] []) := by decide +kernel

/-- Objects of OX4 blocks, of 4-bit elements and with stored scales, and shapes that convert and that carry scales. -/
def shapeOf (fmt rowbytes conv scaled : Nat) : BitVec 65 :=
  BitVec.ofNat 65 (1 + 256 * rowbytes + 2 ^ 24 * fmt + 2 ^ 32 + 2 ^ 40 * conv + 2 ^ 52 * scaled + 2 ^ 64)
def oxDraft : Obj := opened (blank 1 .dense 0xB [64])
def halfDraft : Obj := opened (blank 1 .dense 8 [2])

theorem meets_HomesApplyCommandsInOneStep_puts_kinds :
    (([(opened (blank 1 .dense 3 [2]), shapeOf 1 8 1 0), (oxDraft, shapeOf 0xB 36 0 0), (oxDraft, shapeOf 1 256 1 0), (halfDraft, shapeOf 8 1 0 0)] :
        List (Obj × BitVec 65)).all fun x =>
      decide (AtHome (.hput 0 5 20 2 1) x.1 (rowCap x.2) joins ∧ x.1.kind ≠ .host ∧ x.1.compressed = false ∧ liveDraft x.1 (joins Reset.ctx) = true ∧
        Memory.wf (draftStore x.1).bytes = true ∧ (tileMap x.2 (noOperands up).tuple x.1).toOption.isSome = true)) = true ∧
    (Apart oxDraft ((List.range 64).map fun n => ([n], n)) (rowBeside oxDraft ⟨1, 64, 1, 0, [0], false⟩ (fun n => [n]) fun _ _ => 7) ∧
      BlocksApart oxDraft ((List.range 64).map fun n => [n]) ∧ Apart halfDraft [([0], 3), ([1], 5)] []) ∧
    (shapeConv (shapeOf 1 8 1 0) = true ∧ shapeConv (shapeOf 0xB 36 0 0) = false) := by decide +kernel

/-- A copy from object 2 into object 1. -/
def small2 : Obj := blank 2 .dense 1 [2]
def copyCap (n : Nat) (c : Capture) : Capture := { rowCap shape2 c with source := objHandle small2, args := [BitVec.ofNat 64 n] }
def copyIn (n : Nat) (f : Ctx → Ctx) (o : Obj) : State :=
  withCmds (onCtx (withObjs up [o, small2]) f) [dueCmd (.hcopy 0 2 3 20 1 0) o (copyCap n)]

theorem meets_HomesApplyCommandsInOneStep_copies :
    (([(0, small1, id), (2 ^ 24 + 1, small1, id), (1, small1, id), (2 ^ 24, opened small1, joins), (1, opened small1, joins)] :
        List (Nat × Obj × (Ctx → Ctx))).all fun x =>
      let s := copyIn x.1 x.2.2 x.2.1
      let c := dueCmd (.hcopy 0 2 3 20 1 0) x.2.1 (copyCap x.1)
      decide (Due s c ∧ Plain s c x.2.1 ∧ cmdSource s c = some small2 ∧ present s small2 = true ∧ sound s small2 = true ∧
        (c.cap.args.headD 0).toNat = x.1)) = true ∧
    (shapeFmt shape2 = small1.fmt.toNat ∧ small2.scaled = small1.scaled ∧ small1.kind ≠ .host ∧ small2.kind ≠ .host) := by decide +kernel

/-- A copy of a mode from one object into another. -/
def copyOf (mode : BitVec 2) (g : BitVec 65) (o src : Obj) (f : Ctx → Ctx) : State × Cmd :=
  let c := dueCmd (.hcopy 0 2 3 20 1 mode) o fun c => { rowCap g c with source := objHandle src, args := [1] }
  (withCmds (onCtx (withObjs up [o, src]) f) [c], c)
def coded1 : Obj := opened { blank 1 .dense 1 [2] with compressed := true, epsExp := -4 }

/-- Copies: of another format, between a scaled and an unscaled object, of a mode that the destination does not take, with a
conversion, and compressing ones of modes 1 to 3 whose block the region covers, and does not. -/
theorem meets_HomesApplyCommandsInOneStep_copies_modes :
    (([(0, shapeOf 3 4 0 0, opened small1, blank 2 .dense 3 [2]), (0, shapeOf 5 2 0 0, opened { blank 1 .dense 5 [2] with scaled := true }, blank 2 .dense 5 [2]), (1, shape2, opened small1, small2),
        (0, shape2, coded1, small2), (0, shapeOf 1 8 1 0, opened small1, blank 2 .dense 3 [2]), (1, shape2, coded1, small2),
        (2, shape2, coded1, small2), (3, shape2, coded1, { small2 with compressed := true, epsExp := -4 }),
        (1, shapeOf 1 4 0 0, coded1, small2), (2, shapeOf 1 8 1 0, coded1, blank 2 .dense 3 [2])] :
        List (BitVec 2 × BitVec 65 × Obj × Obj)).all fun x =>
      let z := copyOf x.1 x.2.1 x.2.2.1 x.2.2.2 joins
      decide (Due z.1 z.2 ∧ Plain z.1 z.2 x.2.2.1 ∧ cmdSource z.1 z.2 = some x.2.2.2 ∧ present z.1 x.2.2.2 = true ∧ sound z.1 x.2.2.2 = true ∧
        (z.2.cap.args.headD 0).toNat = 1 ∧ (tileMap x.2.1 z.2.cap.tuple x.2.2.2).toOption.isSome = true)) = true ∧
    (shapeFmt (shapeOf 3 4 0 0) ≠ small1.fmt.toNat) := by decide +kernel

def int1 : Obj := blank 1 .dense 12 [64]
def argCap (c : Capture) : Capture := { c with args := [3, 0] }

theorem meets_HomesApplyCommandsInOneStep_atomics :
    (([.hatom 0 20 2 1 6 0, .hatomr 0 20 2 1 6 0, .hcas 0 20 2 1 0] : List Instr).all fun op =>
      ([(small1, id), ({ small1 with compressed := true }, id), (int1, id), (opened int1, joins)] : List (Obj × (Ctx → Ctx))).all fun x =>
        decide (AtHome op x.1 argCap x.2 ∧ x.1.kind ≠ .host)) = true ∧
    (small1.fmt.toNat ≠ atomCode 0 ∧ int1.fmt.toNat = atomCode 0 ∧ (6 : BitVec 3).toNat < 7 ∧ (5 : BitVec 3).toNat < 6) := by decide +kernel

/-- Four versions that a retain holds. -/
def kept : Obj :=
  { opened int1 with current := 4, versions := (List.range 4).map fun n => ⟨n + 1, ⟨[], []⟩, 0, []⟩, retains := [1, 2, 3, 4] }
def subscriber : Cmd := { cmdOf up (.hsub 0 21 2 0) 21 id with id := 90, resolved := true, released := true }
def watched : Obj := { opened int1 with subs := [⟨90, subscriber.core, subscriber.ctx, true⟩] }
def sWatched : State := withCmds (onCtx (onObj up watched) joins) [dueCmd (.hpub 0 20 2) watched id, subscriber]

theorem meets_HomesApplyCommandsInOneStep_publishes :
    (([(int1, id), (kept, joins), ({ opened int1 with current := 0xFFFFFFFF }, joins), (opened int1, joins)] : List (Obj × (Ctx → Ctx))).all
      fun x => decide (AtHome (.hpub 0 20 2) x.1 id x.2)) = true ∧
    (4 ≤ wouldRetain (dueIn (.hpub 0 20 2) kept id joins) kept ∧ wouldRetain (dueIn (.hpub 0 20 2) (opened int1) id joins) (opened int1) < 4 ∧
      (opened int1).draft = some (openDraft0 false)) ∧
    (Due sWatched (dueCmd (.hpub 0 20 2) watched id) ∧ Plain sWatched (dueCmd (.hpub 0 20 2) watched id) watched ∧
      cmdBy sWatched 90 = some subscriber ∧ Standing sWatched subscriber ∧ NotBusy sWatched subscriber ∧ subscriber.token < 64 ∧
      (ctxOf sWatched subscriber.core subscriber.ctx).isSome = true) := by decide +kernel

/-- A buffer of eight rows of two elements for n senders, with r rows. -/
def buffer (n r : Nat) : Obj := { opened (blank 1 .expert 1 [2, 8]) with geometry := BitVec.ofNat 64 n, bufRows := r }
def offerCap (rows : Nat) (c : Capture) : Capture :=
  { c with rows := rows, rowbytes := 8, fmt := 1, mask := BitVec.ofNat 64 (2 ^ rows - 1) }
/-- An offer of rows to a buffer: what its clause asks besides. -/
def offer (op : Instr) (rows : Nat) (o : Obj) (room goes : Bool) : Bool :=
  decide (AtHome op o (offerCap rows) id ∧ o.kind = .expert ∧ (maskedRows (dueCmd op o (offerCap rows)).cap).length = rows ∧
    bufferRowBytes o = 8 ∧ hasRoom (dueIn op o (offerCap rows) id) o rows = room ∧ mayPublish (dueIn op o (offerCap rows) id) o = goes)

theorem meets_HomesApplyCommandsInOneStep_offers :
    (AtHome (.xsend 0 5 20 2) (buffer 2 0) id id ∧ (dueCmd (.xsend 0 5 20 2) (buffer 2 0) id).cap.rowbytes ≠ bufferRowBytes (buffer 2 0)) ∧
    (([.xsend 0 5 20 2, .xsendLast 0 5 20 2] : List Instr).all fun op =>
      offer op 1 { buffer 2 0 with started := true } true true && offer op 2 (buffer 3 7) false true && offer op 1 (buffer 3 6) true true &&
        offer op 1 (buffer 3 7) true true && offer op 1 { buffer 3 7 with current := 0xFFFFFFFF } true false) = true ∧
    (offer (.xsendLast 0 5 20 2) 1 (buffer 1 0) true true = true ∧ bufferSenders (buffer 1 0) = 1) ∧
    (extentAt (buffer 3 7) 1 = 8 ∧ (buffer 3 7).started = false ∧ (buffer 3 7).draft = some (openDraft0 false) ∧
      bufferScales (buffer 3 7) = false ∧ Apart (buffer 3 6) [([0, 6], 1), ([1, 6], 2)] []) := by decide +kernel

def treeG (fmt : Nat) : Obj := blank 1 .tree fmt [2, 1, 7]
def gradCap (valid : Nat) (c : Capture) : Capture :=
  { c with rows := 1, rowbytes := 8, fmt := 1, trace := ⟨Vector.replicate 64 0, BitVec.ofNat 7 valid, 1⟩ }

theorem meets_HomesApplyCommandsInOneStep_gradients :
    (([(12, 1, treeG 12, id), (1, 0, treeG 1, id), (1, 1, treeG 1, id), (1, 1, opened (treeG 1), joins)] :
        List (Nat × Nat × Obj × (Ctx → Ctx))).all fun x =>
      let c := dueCmd (.tgrad 0 5 20 2 1) x.2.2.1 (gradCap x.2.1)
      let s := dueIn (.tgrad 0 5 20 2 1) x.2.2.1 (gradCap x.2.1) x.2.2.2
      decide (AtHome (.tgrad 0 5 20 2 1) x.2.2.1 (gradCap x.2.1) x.2.2.2 ∧ x.2.2.1.kind ≠ .host ∧ earlierDescent s c = false ∧
        (x.1 = 1 → gradFits c x.2.2.1 = decide (x.2.1 = 1)))) = true ∧
    (otherWriter up (dueCmd (.tgrad 0 5 20 2 1) (treeG 1) id) (openDraft0 false) = false ∧
      Memory.wf (draftStore (opened (treeG 1))).bytes = true ∧ Apart (opened (treeG 1)) [([0, 0], 1), ([1, 0], 2)] []) := by decide +kernel

def stage1 : Obj := blank 1 .stage 2 [8]
/-- A set of n stages, in the objects 4 (records) and 5 (sink) of four places each. -/
def setOf (n : Nat) (f : StageSet → StageSet) : StageSet := f { Regions.set0 with obj := ⟨0, 1⟩, stages := n, producers := 2, queue := ⟨0, 4⟩, sink := ⟨0, 5⟩ }
def sinkObj : Obj := { blank 5 .queue 9 [520, 4] with draft := some (openDraft0 false), draftNo := 1 }
def records (n : Nat) (c : Capture) : Capture :=
  { c with rows := 1, rowbytes := 520, tile := cellsOf 0 (bytesOfNat 8 n), handle := objHandle stage1 }
def routeCmd (op : Instr) (head : Nat) : Cmd := { dueCmd op stage1 (records head) with reserved := true }
def routeIn (op : Instr) (head : Nat) (w : StageSet) (f : Ctx → Ctx) : State :=
  { withCmds (onCtx (withObjs up [stage1, blank 4 .queue 9 [520, 4], sinkObj]) f) [routeCmd op head] with sets := [w] }
def recA : Record := ⟨3, [], 0⟩
def works (st : Nat) (c : Ctx) : Ctx := { c with binding := some (⟨0, 1⟩, st), held := some (⟨0, 1⟩, st, recA) }
def bound (st : Nat) (c : Ctx) : Ctx := { c with binding := some (⟨0, 1⟩, st) }
/-- The command takes its step at the set. -/
abbrev Steps (op : Instr) (head : Nat) (w : StageSet) (f : Ctx → Ctx) : Prop :=
  Standing (routeIn op head w f) (routeCmd op head) ∧ mayPerform (routeIn op head w f) (routeCmd op head) = true ∧
    AtRouter (routeIn op head w f) (routeCmd op head) w

theorem meets_HomesApplyCommandsInOneStep_router :
    (([(.rbind 0 20 2 2, 0, setOf 2 id, id), (.rbind 0 20 2 1, 0, setOf 2 id, works 1), (.rbind 0 20 2 1, 0, setOf 2 id, id),
        (.rput 0 5 20 2, 4, setOf 2 id, id), (.rput 0 5 20 2, 3, setOf 1 (fun w => { w with queues := w.queues.set 0 [recA, recA, recA, recA] }), id),
        (.rput 0 5 20 2, 3, setOf 1 id, id), (.rputLast 0 5 20 2, 3, setOf 2 id, id), (.rputUpd 0 5 20 2, 3, setOf 2 id, id),
        (.rputUpd 0 5 20 2, 4, setOf 2 id, works 1), (.rputUpd 0 5 20 2, 3, setOf 2 id, works 1), (.rtake 0 94 20 2 1, 0, setOf 2 id, id),
        (.rtake 0 94 20 2 1, 0, setOf 2 id, works 1), (.rtake 0 94 20 2 1, 0, setOf 2 id, bound 1),
        (.rtake 0 94 20 2 1, 0, setOf 2 (fun w => { w with queues := w.queues.set 1 [recA] }), bound 1),
        (.rdone 0 20 2 1, 0, setOf 2 id, id), (.rdone 0 20 2 0, 0, setOf 1 id, works 0), (.rdoneFail 0 20 2 0, 0, setOf 1 id, works 0),
        (.rdoneFail 0 20 2 0, 0, setOf 1 (fun w => { w with bytes := [1] }), works 0)] :
        List (Instr × Nat × StageSet × (Ctx → Ctx))).all fun x => decide (Steps x.1 x.2.1 x.2.2.1 x.2.2.2)) = true ∧
    (let s := routeIn (.rput 0 5 20 2) 3 (setOf 1 id) id;
      queueCapacity s ⟨0, 5⟩ = 4 ∧ queueCapacity s ⟨0, 4⟩ = 4 ∧ liveRecords s (setOf 1 id) = 0 ∧
      liveRecords s (setOf 1 fun w => { w with queues := w.queues.set 0 [recA, recA, recA, recA] }) = 4 ∧
      readNat (records 3 (noOperands up)).tile 0 8 = 3 ∧ readNat (records 4 (noOperands up)).tile 0 8 = 4 ∧
      objAt s ⟨0, 5⟩ = some sinkObj ∧ teamOut s (routeCmd (.rput 0 5 20 2) 3) = false) ∧
    (stageFilter (setOf 1 fun w => { w with bytes := [1] }) 0 = true ∧ stageFilter (setOf 1 id) 0 = false ∧ recId recA = 3 ∧
      (setOf 1 id).drained = false ∧ (setOf 1 id).waiters = []) := by decide +kernel

end Engines

/-! ## Witnesses: tiers, misses, packets and links -/

namespace Tiering

def entryDemote : ForecastEntry := ⟨objHandle (blank 1 .dense 1 [64]), 3, 0, 0xFFFF, 2, [0, 0, 0, 0, 0, 0], [64, 1, 1, 1, 1, 1]⟩
def act0 : Action := ⟨5, 2, 0, 0, entryDemote⟩
def act1 : Action := ⟨5, 2, 0, 0, { entryDemote with action := 0 }⟩
def actLost : Action := ⟨5, 2, 0, 0, { entryDemote with handle := objHandle (blank 2 .dense 1 [64]) }⟩
def dense1 : Obj := blank 1 .dense 1 [64]
def h1 : BitVec 64 := objHandle dense1
def sAct (a : Action) : State := { withObjs up [dense1] with actions := [a] }
def move0 : Move := ⟨7, ⟨0, 1⟩, 0, false, 2, 5, 0⟩
def move1 : Move := ⟨7, ⟨0, 1⟩, 0, true, 2, 5, 0⟩
def sMove : State := { withObjs up [dense1] with moves := [move0] }
def sMove1 : State := { withObjs up [{ dense1 with farPages := [0] }] with moves := [move1] }

theorem meets_TierEnginesMovePages :
    (FirstAction (sAct actLost) actLost ∧ forecastCounts (sAct actLost) actLost.launch = some launch0.fc ∧
      actionObject (sAct actLost) actLost = none) ∧
    (FirstAction (sAct act0) act0 ∧ forecastCounts (sAct act0) act0.launch = some launch0.fc ∧ actionObject (sAct act0) act0 = some dense1 ∧
      act0.op.action = 2 ∧ (sAct act0).moves = [] ∧ farRoom (sAct act0) 1 = true) ∧
    (let s := { withObjs up [{ dense1 with farPages := [0] }] with actions := [act1] };
      FirstAction s act1 ∧ actionObject s act1 = some { dense1 with farPages := [0] } ∧ s.moves = [] ∧ tierPages s dense1 act1.op = [0] ∧
      ∀ die < 4, nearUse s 0 die + 1 ≤ quotaOf s 0 die) ∧
    (FirstAction (sAct act1) act1 ∧ actionObject (sAct act1) act1 = some dense1 ∧ act1.op.action ≤ 1 ∧ (sAct act1).moves = [] ∧
      ∀ p ∈ tierPages (sAct act1) dense1 act1.op, p ∉ dense1.farPages) ∧
    ((sMove.moves.find? fun x => x.id == move0.id) = some move0 ∧ objAt sMove move0.obj = some dense1 ∧
      forecastCounts sMove move0.launch = some launch0.fc) ∧
    ((sMove1.moves.find? fun x => x.id == move1.id) = some move1 ∧ (objAt sMove1 move1.obj).isSome = true ∧
      forecastCounts sMove1 move1.launch = some launch0.fc) := by decide +kernel

/-- A fetch of the far page 0 of object 1, beside which object 2 has a page near, where a die's quota is n pages. -/
def far1 : Obj := { dense1 with farPages := [0] }
def near2 : Obj := blank 2 .dense 1 [64]
def sFull (n : Nat) (os : List Obj) : State :=
  { withObjs up (far1 :: os) with actions := [act1], partitions := [{ part0 with quotas := [n, n, n, n] }], pageUse := [(near2.key, 0)] }

/-- R265: a die without room, with no page that may go, and with one; R269: `prefetch-L2` and `release-L2`. -/
theorem meets_TierEnginesMovePages_evictions :
    (([(0, []), (1, [near2])] : List (Nat × List Obj)).all fun x =>
      let s := sFull x.1 x.2
      decide (FirstAction s act1 ∧ forecastCounts s act1.launch = some launch0.fc ∧ actionObject s act1 = some far1 ∧ act1.op.action ≤ 1 ∧
        s.moves = [] ∧ (tierPages s far1 act1.op).filter far1.farPages.contains = [0] ∧
        quotaOf s far1.partition (shardDie far1 (pageShard 0)) < nearUse s far1.partition (shardDie far1 (pageShard 0)) + pageCopies far1 0 ∧
        evictable s far1.partition (shardDie far1 (pageShard 0)) [(far1.key, 0)] = x.2.map fun o => (o.key, 0))) = true ∧
    (let s := sFull 1 [near2];
      (∀ z ∈ [(near2.key, 0)], z ∈ s.pageUse ∧ z = (near2.key, 0)) ∧ objAt s near2.key = some near2 ∧
      farRoom s (pageCopies near2 0) = true ∧
      nearUse (putPage s near2.key 0 true) 0 (shardDie far1 (pageShard 0)) + pageCopies far1 0 ≤ quotaOf s 0 (shardDie far1 (pageShard 0))) ∧
    (([3, 4] : List Nat).all fun n =>
      let a : Action := ⟨5, 2, 0, 0, { entryDemote with action := n }⟩
      decide (FirstAction (sAct a) a ∧ forecastCounts (sAct a) a.launch = some launch0.fc ∧ actionObject (sAct a) a = some dense1 ∧
        a.op.action = n)) = true := by decide +kernel

def small1 : Obj := Engines.small1
def runCap (n rows : Nat) (c : Capture) : Capture := { Engines.rowCap Engines.shape2 c with args := [BitVec.ofNat 64 n], rows := rows }

theorem meets_TierEnginesMovePages_prefetch :
    (([2 ^ 24, 2 ^ 24 + 1] : List Nat).all fun n =>
      let c := Engines.dueCmd (.hpfl2 0 20 2 1) small1 (runCap n 0)
      decide (Engines.AtHome (.hpfl2 0 20 2 1) small1 (runCap n 0) id ∧ (c.cap.args.headD 0).toNat = n)) = true ∧
    gives (tileMap Engines.shape2 (noOperands up).tuple small1) ⟨1, 2, 1, 0, [0, 0, 0, 0, 0, 0], false⟩ = true ∧ small1.kind ≠ .host ∧
    small1.shardMap = [] ∧ small1.loc.package = up.package := by decide +kernel

/-- An object whose storage is not there. -/
def gone1 : Obj := { small1 with loc := { small1.loc with materialised := false } }

theorem meets_MissesAndAbsencesAreResolved_residency :
    (([(.hprobe 0 20 2 1, small1, 1, 0), (.hres 0 20 2 1, small1, 2 ^ 24 + 1, 0), (.hres 0 20 2 1, small1, 1, 1), (.hres 0 20 2 1, gone1, 1, 0),
        (.hres 0 20 2 1, gone1, 1, 1)] : List (Instr × Obj × Nat × Nat)).all fun x =>
      let s := Engines.dueIn x.1 x.2.1 (runCap x.2.2.1 x.2.2.2) id
      let c := Engines.dueCmd x.1 x.2.1 (runCap x.2.2.1 x.2.2.2)
      decide (Due s c ∧ cmdObj s c = some x.2.1 ∧ c.token < 64 ∧ (c.cap.args.headD 0).toNat = x.2.2.1 ∧ c.cap.rows = x.2.2.2 ∧
        (ctxOf s c.core c.ctx).all (fun k => absentElem s x.2.1 (viewOf x.2.1 k).1 (cmdCluster s c) [0, 0] == !x.2.1.loc.materialised) = true)) =
      true := by decide +kernel

def trapMiss : TrapRecord := ⟨0x08, 0, 0, 0, BitVec.ofNat 32 (3 * 2 ^ 16), 0, 0⟩
def trapObj (h : BitVec 64) : TrapRecord := ⟨0x07, 7, 0, 0, 1, 0, h⟩
def awaiting (s : State) (r : TrapRecord) : State := onCtx s fun c => { c with status := .awaiting, trap := some r }
def sMiss : State := awaiting up trapMiss
def entryReq : ForecastEntry := { entryDemote with action := 0 }
def launchReq : Launch := { launch0 with binding := some ⟨0, [entryReq]⟩, policy := 1 }
def sMiss2 : State := awaiting { withObjs up [{ dense1 with farPages := [0] }] with launches := [launchReq] } trapMiss
def denseUn : Obj := { dense1 with loc := { dense1.loc with materialised := false } }
def sAbs : State := awaiting (withObjs up [denseUn]) (trapObj h1)
/-- The same miss while the team is out (R271). -/
def sMissOut : State := { sMiss2 with launches := [{ launchReq with teams := [{ team0 with status := .out, place := none }] }] }
def denseSp : Obj := { dense1 with loc := { dense1.loc with spilled := [0], far := true } }
def sSp : State := awaiting (withObjs up [denseSp]) (trapObj h1)

theorem meets_MissesAndAbsencesAreResolved_shards :
    (AwaitsActing sMissOut trapMiss ∧ isOut sMissOut sMissOut.core.launch sMissOut.core.team = true ∧
      holding sMissOut sMissOut.core.launch sMissOut.core.team (trapMiss.detail.toNat / 2 ^ 16) ≠ []) ∧
    (AwaitsActing sSp (trapObj h1) ∧ gives (resolveHandle sSp (trapObj h1).operand) denseSp = true ∧ HeldHere sSp denseSp ∧
      denseSp.key.home = sSp.package ∧ 0 ∈ denseSp.loc.spilled ∧ (trapObj h1).detail.toNat / 256 = 0 ∧
      (∀ m ∈ faultShards sSp denseSp.key, m = 0) ∧ farRoom sSp (shardPages denseSp 0).length = true) ∧
    (denseUn.loc.spilled = [] ∧ shardCount denseUn = 1 ∧ denseUn.loc.far = false ∧ (∀ m ∈ faultShards sAbs denseUn.key, m = 0) ∧
      nearUse sAbs 0 denseUn.loc.die + (shardPages denseUn 0).length ≤ quotaOf sAbs 0 denseUn.loc.die) ∧
    isOut sMiss2 sMiss2.core.launch sMiss2.core.team = false ∧ oldStands sSp denseSp.key 0 = false ∧ oldStands sAbs denseUn.key 0 = false := by
  decide +kernel

theorem meets_MissesAndAbsencesAreResolved :
    (AwaitsActing sMiss trapMiss ∧
      ((allCores sMiss).map (·.id)).Nodup ∧ trapMiss.cls = 0x08 ∧
      holding sMiss sMiss.core.launch sMiss.core.team (trapMiss.detail.toNat / 2 ^ 16) = []) ∧
    (AwaitsActing sMiss2 trapMiss ∧
      ((holding sMiss2 sMiss2.core.launch sMiss2.core.team (trapMiss.detail.toNat / 2 ^ 16)).any fun e =>
        !inProgress sMiss2 sMiss2.core.launch e.1) = true) ∧
    (AwaitsActing sAbs (trapObj h1) ∧ (trapObj h1).cls = 0x07 ∧
      gives (resolveHandle sAbs (trapObj h1).operand) denseUn = true ∧ HeldHere sAbs denseUn ∧ denseUn.loc.materialised = false) := by
  decide +kernel

/-- A send or an expectation of n bytes by a command on object 1. -/
def netCap (n rows : Nat) (c : Capture) : Capture := { c with args := [BitVec.ofNat 64 n], rows := rows, rowbytes := 8192 }
def overfull : Obj := { Engines.opened dense1 with pendingBytes := 0xFFFFFF }
def netIn (op : Instr) (n rows : Nat) (o : Obj) (f : Ctx → Ctx) (ports : Bool) : State :=
  { Engines.dueIn op o (netCap n rows) f with ports := if ports then [⟨true, false, 0, 64, 0, 0⟩] else [] }

theorem meets_PacketsLinksAndReplicas_commands :
    (([(.nexp 0 20 2, 0, 0, dense1, id, true), (.nexp 0 20 2, 0x1000000, 0, dense1, id, true), (.nexp 0 20 2, 1, 0, dense1, id, true),
        (.nexp 0 20 2, 1, 0, overfull, Engines.joins, true), (.nexp 0 20 2, 0xFFFFFF, 0, Engines.opened dense1, Engines.joins, true),
        (.ncnt 0 20 2, 0, 0, dense1, id, true), (.nsend 0 5 20 2, 2 ^ 48, 1, dense1, id, true), (.nsend 0 5 20 2, 2 ^ 48 - 1, 0, dense1, id, true),
        (.nsend 0 5 20 2, 0, 1, dense1, id, false), (.nsend 0 5 20 2, 0, 1, dense1, id, true)] :
        List (Instr × Nat × Nat × Obj × (Ctx → Ctx) × Bool)).all fun x =>
      let s := netIn x.1 x.2.1 x.2.2.1 x.2.2.2.1 x.2.2.2.2.1 x.2.2.2.2.2
      let c := Engines.dueCmd x.1 x.2.2.2.1 (netCap x.2.1 x.2.2.1)
      decide (Due s c ∧ Plain s c x.2.2.2.1 ∧ (c.cap.args.headD 0).toNat = x.2.1 ∧ c.cap.rows * c.cap.rowbytes = x.2.2.1 * 8192 ∧
        (enabledPorts s = [] ↔ x.2.2.2.2.2 = false) ∧ ∀ y ∈ s.sends, y.cmd ≠ c.id)) = true ∧
    (liveDraft overfull (Engines.joins Reset.ctx) = true ∧ 0xFFFFFF < overfull.pendingBytes + 1 ∧ (Engines.opened dense1).pendingBytes = 0 ∧
      dense1.compressed = false) := by decide +kernel

def upNet : State := { up with ports := [⟨true, false, 0, 64, 0, 0⟩], lostLinks := [7] }
def pk0 : Packet := ⟨0, 3, 1, 10, 20, 4, [1, 0, 2]⟩
def sPkSeen : State := { upNet with conns := [⟨3, 0, 0, [1], 0, 1⟩] }
def draftR : Draft := ⟨1, ⟨[(4, 9), (6, 9)], []⟩, [], none, false, [2]⟩
def denseR : Obj := { dense1 with draft := some draftR, draftNo := 1, pendingBytes := 2 }
def recv0 : Receiver := ⟨10, ⟨0, 1⟩, 20⟩
def sPkRecv : State := { withObjs upNet [denseR] with receivers := [recv0] }
def cmdNs : Cmd := cmdOf up (.nsend 0 5 20 2) 20 fun c =>
  { c with cap := { c.cap with handle := h1 }, resolved := true, released := true, kind := .withheld }
def send0 : Send := ⟨3, 3, 20, 10, 64, 2, [(1, 1)], 5000, [⟨0, true, 0⟩, ⟨1, false, 1⟩]⟩
def send2 : Send := { send0 with packets := [⟨0, true, 0⟩, ⟨1, false, 2⟩] }
def sending (x : Send) : State := { withCmds upNet [cmdNs] with sends := [x] }

theorem meets_PacketsLinksAndReplicas_packets :
    (enabledPorts upNet ≠ [] ∧ pk0.seq ∈ (connBy sPkSeen pk0.conn).accepted ∧ enabledPorts sPkSeen ≠ []) ∧
    (pk0.seq ∉ (connBy upNet pk0.conn).accepted ∧ upNet.receivers = []) ∧
    (pk0.seq ∉ (connBy sPkRecv pk0.conn).accepted ∧
      (sPkRecv.receivers.find? fun r => r.resource == pk0.resource && r.job == pk0.job) = some recv0 ∧
      objAt sPkRecv recv0.obj = some denseR ∧ denseR.key = recv0.obj ∧ absentObj sPkRecv denseR = false ∧ denseR.kind ≠ .host ∧
      denseR.draft = some draftR ∧ Memory.wf draftR.store.bytes = true ∧ shardCount denseR = 1 ∧
      pk0.offset + pk0.payload.length ≤ shardBytes denseR 0) ∧
    (((sending send0).sends.find? fun y => y.cmd == send0.cmd) = some send0 ∧ cmdBy (sending send0) send0.cmd = some cmdNs ∧
      (∀ q ∈ send0.packets, q.acked = true ∨ q.num ∈ [1]) ∧ (⟨1, false, 1⟩ : SendPacket) ∈ send0.packets ∧
      (∀ y ∈ send0.packets, y.num = 1 → y = ⟨1, false, 1⟩) ∧ 1 < send0.retries) ∧
    (((sending send2).sends.find? fun y => y.cmd == send2.cmd) = some send2 ∧ cmdBy (sending send2) send2.cmd = some cmdNs ∧
      (⟨1, false, 2⟩ : SendPacket) ∈ send2.packets ∧ (∀ y ∈ send2.packets, y.num = 1 → y = ⟨1, false, 2⟩) ∧ send2.retries ≤ 2) ∧
    pk0.port ∈ enabledPorts upNet := by
  decide +kernel

def denseFar : Obj := { dense1 with loc := { dense1.loc with package := 7 } }
def sLost : State := { awaiting (withObjs up [denseFar]) (trapObj h1) with lostLinks := [7] }
def denseHome : Obj := { denseR with key := ⟨7, 1⟩ }
def sFail : State := withObjs up [denseHome]
def denseRep : Obj := { dense1 with replicas := [(0, 5)] }
def sRep : State := withObjs up [denseRep]

theorem meets_PacketsLinksAndReplicas_links :
    ((575 : Nat) ≠ up.package ∧ 575 < 576 ∧ 575 ∉ up.lostLinks ∧ 575 ∉ up.failedPackages) ∧
    (7 ∈ sLost.lostLinks ∧ ((allCores sLost).map (·.id)).Nodup ∧ AwaitsActing sLost (trapObj h1) ∧
      (trapObj h1).cls = 0x07 ∧ (trapObj h1).detail.toNat / 256 = 0 ∧ gives (resolveHandle sLost (trapObj h1).operand) denseFar = true ∧
      denseFar.loc.materialised = true ∧ denseFar.loc.moving = false ∧ denseFar.loc.spilled = [] ∧ denseFar.loc.lent = false ∧
      denseFar.loc.package = 7 ∧ 7 ∉ sLost.failedPackages) ∧
    (denseFar.key.home = sLost.package ∧ sLost.device ≠ 3 ∧ ({ sLost with device := 3 } : State).device = 3) ∧
    (7 ∉ sFail.failedPackages ∧ launchBy sFail launch0.id = some launch0 ∧ launch0.firstTrap = none ∧ denseHome ∈ sFail.objects ∧
      denseHome.present = true ∧ denseHome.draft = some draftR ∧ denseHome.key.home = 7 ∧ launch0.id ∈ draftR.joined) ∧
    (objAt sRep denseRep.key = some denseRep ∧ absentObj sRep denseRep = false ∧ (∃ w ∈ denseRep.versions, w.num = 1) ∧
      (∃ w ∈ denseRep.replicas, w.2 = 5) ∧ (1, 5) ∉ denseRep.replicas) := by decide +kernel

end Tiering

/-! ## Witnesses: teams, launches and storage -/

namespace Teams

def teamNew : Team := { team0 with status := .unstarted, place := none, everPlaced := false }
def launchNew : Launch :=
  { launch0 with rows := 1, cols := 2, contexts := 2, handles := [5], scalars := [9, 11], seed := 3, teams := [teamNew] }
def sNew : State := { up with core := Reset.core, launches := [launchNew] }
def place0 : Placement := ⟨0, [1], [[2, 5]]⟩

theorem meets_TeamsStartOnTheirCores :
    TeamIs sNew launchNew teamNew ∧ teamNew.status = .unstarted ∧ mayTake sNew launchNew teamNew place0 = true ∧ launchNew.cols ≤ 8 := by
  decide +kernel

def lOf (t : Team) : Launch := { launch0 with teams := [t] }
def setTeam (t : Team) : State := { up with launches := [lOf t] }
def teamStop : Team := { team0 with status := .stopping }
def teamSaving : Team := { team0 with status := .saving }
def teamOut : Team := { team0 with status := .out, place := none }
def teamRest : Team := { team0 with status := .restoring }
def sStopBusy : State :=
  { setTeam teamStop with core := { up.core with streams := [⟨0, false, 2, 1, false, Reset.plane, 0, 0, [[]]⟩] } }
def sOut : State := { setTeam teamOut with core := { up.core with place := none } }
def place1 : Placement := ⟨0, [2], [[4]]⟩

theorem meets_TeamsAreSavedAndRestored :
    (TeamIs (setTeam teamStop) (lOf teamStop) teamStop ∧ teamAll (setTeam teamStop) (lOf teamStop).id 0 standsAtCheckpoint = true ∧
      arraysIdle (setTeam teamStop) (lOf teamStop).id 0 = true) ∧
    (TeamIs sStopBusy (lOf teamStop) teamStop ∧
      ∃ c ∈ allCores sStopBusy, c.launch = (lOf teamStop).id ∧ c.team = teamStop.index ∧ c.streams ≠ []) ∧
    (TeamIs (setTeam teamSaving) (lOf teamSaving) teamSaving ∧ teamSaving.arrivals = []) ∧
    (TeamIs sOut (lOf teamOut) teamOut ∧ mayTake sOut (lOf teamOut) teamOut place1 = true) ∧
    (TeamIs (setTeam teamRest) (lOf teamRest) teamRest ∧ teamRest.arrivals = []) := by decide +kernel

/-- R333: an image of a team that finds room near, and one that finds it in neither tier: another image fills the far tier. -/
def sRoom (n : Nat) (l : Launch) : State := { up with launches := [l], partitions := [{ part0 with quotas := [n, n, n, n] }] }
def otherOut : Team := { teamOut with index := 1, image := some ⟨0, 2 ^ 64, true⟩ }
def crowdedL : Launch := { launch0 with teams := [teamStop, otherOut] }

theorem meets_TeamsAreSavedAndRestored_room :
    (let s := sRoom (Config.imagePages 1) (lOf teamStop);
      TeamIs s (lOf teamStop) teamStop ∧ teamAll s (lOf teamStop).id 0 standsAtCheckpoint = true ∧ arraysIdle s (lOf teamStop).id 0 = true ∧
      nearUse s 0 0 = 0 ∧ (lOf teamStop).rows * (lOf teamStop).cols = 1) ∧
    (let s := withObjs (sRoom 0 crowdedL) [blank 1 .dense 1 [64]];
      TeamIs s crowdedL teamStop ∧ teamAll s crowdedL.id 0 standsAtCheckpoint = true ∧ arraysIdle s crowdedL.id 0 = true ∧
      quotaOf s 0 0 < nearUse s 0 0 ∧ Config.farTierPages < farUse s) := by decide +kernel

def launchSl : Launch := { launch0 with grid := 2, teams := [team0, { teamNew with index := 1 }] }
def sliced (n : Nat) : State := { up with launches := [launchSl], micros := n }
def teamDrain : Team := { team0 with drainUntil := some 1000 }
def drained (n : Nat) : State := { setTeam teamDrain with micros := n }
def sPar : State := { up with parity := [(0, 0), (0, 1), (0, 2)] }
def graced (n : Nat) : State := onCtx (setTeam teamStop) fun c => { c with grace := n, atCheckpoint := false }
def silent (n : Nat) : State := onCtx up fun c => { c with silence := n }

theorem meets_TeamsAreStoppedAndRolledBack_stops :
    (TeamIs (sliced 2000) launchSl team0 ∧ team0.status = .placed ∧ launchSl.slice ≤ (sliced 2000).micros - team0.placedAt ∧
      rivalWaits (sliced 2000) launchSl = true ∧
      ∀ u ∈ launchSl.teams, sliceOver (sliced 2000) launchSl u = true → swapsBefore (sliced 2000) launchSl u team0 = false) ∧
    (TeamIs (sliced 1999) launchSl team0 ∧ (sliced 1999).micros - team0.placedAt < launchSl.slice) ∧
    (TeamIs (drained 1000) (lOf teamDrain) teamDrain ∧ teamDrain.drainUntil = some 1000 ∧ 1000 ≤ (drained 1000).micros ∧
      (lOf teamDrain).killable = false ∧ (drained 999).micros < 1000) ∧
    (TeamIs sPar launch0 team0 ∧ ((allCores sPar).find? fun d => d.place == some 0) = some sPar.core ∧ sPar.core.launch = launch0.id ∧
      sPar.core.team = team0.index ∧ defective sPar 0 = false ∧ parityFailed sPar 0 = true) ∧
    (defective up 1343 = false ∧ ∀ c ∈ allCores up, c.place ≠ some 1343) := by decide +kernel

/-- A drain that ran out for a killable launch, with and without a released effect still to be done (R337). -/
def launchKill : Launch := { lOf teamDrain with killable := true }
def cmdLate : Cmd := { cmdOf up (.hput 0 5 20 2 1) 20 id with kind := .withheld, released := true }
def sKill (cs : List Cmd) : State :=
  withCmds { drained 1000 with launches := [launchKill], streams := [⟨0, 0, [⟨bytesOfNat 8 0x1000, some 3, true, 0, false⟩], 0⟩] } cs

theorem meets_TeamsAreStoppedAndRolledBack_killable :
    (([[], [cmdLate]] : List (List Cmd)).all fun cs =>
      let s := sKill cs
      decide (TeamIs s launchKill teamDrain ∧ teamDrain.drainUntil = some 1000 ∧ 1000 ≤ s.micros ∧ launchKill.killable = true ∧
        AtHead s ⟨0, 0, [⟨bytesOfNat 8 0x1000, some 3, true, 0, false⟩], 0⟩ ⟨bytesOfNat 8 0x1000, some 3, true, 0, false⟩ [] ∧
        launchKill.stream = 0 ∧ ((allCores s).map (·.id)).Nodup ∧ s.cmds = cs)) = true ∧
    (coreOf up cmdLate.core = some up.core ∧ up.core.launch = launchKill.id ∧ cmdLate.done = false ∧ cmdLate.kind ≠ .free ∧
      waitsOnly cmdLate.op = false) := by decide +kernel

theorem meets_TeamsAreStoppedAndRolledBack_rollbacks :
    (let s := graced 16384;
      TeamIs s (lOf teamStop) teamStop ∧ s.core.launch = (lOf teamStop).id ∧
      s.core.team = teamStop.index ∧ ((allCores s).map (·.id)).Nodup ∧ (s.core.ctxs.get 0).trap = none ∧
      standsAtCheckpoint (s.core.ctxs.get 0) = false ∧ 16384 ≤ (s.core.ctxs.get 0).grace) ∧
    ((graced 16383).core.ctxs.get 0).grace < 16384 ∧
    (let s := silent (2 ^ launch0.watchdog);
      TeamIs s launch0 team0 ∧ s.core.launch = launch0.id ∧ s.core.team = team0.index ∧
      (s.core.ctxs.get 0).status = .running ∧ s.core.place.isSome = true ∧ 2 ^ launch0.watchdog ≤ (s.core.ctxs.get 0).silence ∧
      launch0.watchdog < 2 ^ 24 ∧ part0 ∈ s.partitions ∧ part0.number = launch0.partition) ∧
    ((silent (2 ^ launch0.watchdog - 1)).core.ctxs.get 0).silence < 2 ^ launch0.watchdog := by decide +kernel

/-- A team that stands on a defect, and a slice that a long swap raised (R336). -/
theorem meets_TeamsAreStoppedAndRolledBack_raised :
    (let t := { team0 with swapTime := 3000 };
      let s := { setTeam t with micros := 11999 };
      TeamIs s (lOf t) t ∧ (lOf t).slice < t.swapTime ∧ s.micros - t.placedAt < 4 * t.swapTime) ∧
    onDefect { setTeam teamRest with defects := Vector.replicate 48 0xFFFFFFF } launch0.id 0 = true ∧ onDefect (setTeam teamRest) launch0.id 0 = false := by
  decide +kernel

def e0 : Entry := ⟨bytesOfNat 8 0x1000, some 3, true, 0, false⟩
def e1 : Entry := ⟨[1], none, false, 0, false⟩
def strm : CmdStream := ⟨0, 0, [e0, e1], 0⟩
def teamEx : Team := { team0 with status := .exited }
def sEnd : State := { setTeam teamEx with streams := [strm], core := Reset.core }
def trap0 : TrapRecord := ⟨6, 1, 0, 0, 2, 0, 7⟩
def launchTr : Launch := { launch0 with firstTrap := some trap0 }
def sTerm : State := { up with streams := [strm], launches := [launchTr] }
def sGoes : State := { up with streams := [strm] }

theorem meets_LaunchesEnd :
    (launchBy sEnd (lOf teamEx).id = some (lOf teamEx) ∧ AtHead sEnd strm e0 [e1] ∧ (lOf teamEx).stream = strm.number ∧
      (lOf teamEx).ended = false ∧ ((allCores sEnd).map (·.id)).Nodup ∧ (lOf teamEx).firstTrap = none ∧
      (∀ t ∈ (lOf teamEx).teams, t.status = .exited) ∧ sEnd.cmds = [] ∧
      ((lOf teamEx).teams.filter fun t => t.everPlaced).length < 2 ^ 32) ∧
    (launchBy sTerm launchTr.id = some launchTr ∧ AtHead sTerm strm e0 [e1] ∧ launchTr.stream = strm.number ∧ launchTr.ended = false ∧
      ((allCores sTerm).map (·.id)).Nodup ∧ launchTr.firstTrap = some trap0 ∧ part0 ∈ sTerm.partitions ∧
      part0.number = launchTr.partition ∧ 0 < part0.buffers) ∧
    (launchBy sGoes launch0.id = some launch0 ∧ AtHead sGoes strm e0 [e1] ∧ launch0.firstTrap = none) := by decide +kernel

/-- A released effect of the launch that is still to be done. -/
def cmdGoing : Cmd := { cmdOf up (.hput 0 5 20 2 1) 20 id with kind := .withheld, released := true }
def joinedObj : Obj := { blank 1 .dense 1 [64] with draft := some ⟨1, ⟨[], []⟩, [], none, false, [2]⟩, draftNo := 1 }
def ending0 : Ending := ⟨0x30, 6, 1, 6, some trap0⟩
def launchOver (x : Option Ending) : Launch := { launchTr with ended := true, ending := x }
/-- The launch ends with a joined draft and a held record. -/
def sTermHeld : State :=
  { withObjs (onCtx sTerm fun c => { c with held := some (⟨0, 3⟩, 1, Regions.rec0), drafts := [⟨⟨0, 1⟩, 0, 1⟩] }) [joinedObj] with
    sets := [Regions.set0] }

theorem meets_LaunchesEnd_phases :
    (cmdGoing ∈ (withCmds sTerm [cmdGoing]).cmds ∧ coreOf sTerm cmdGoing.core = some sTerm.core ∧ sTerm.core.launch = launchTr.id ∧
      cmdGoing.released = true ∧ cmdGoing.done = false ∧ cmdGoing.kind ≠ .free ∧ waitsOnly cmdGoing.op = false ∧ sTerm.cmds = []) ∧
    (([some ending0, none] : List (Option Ending)).all fun x =>
      let s := { sTerm with launches := [launchOver x] }
      decide (launchBy s launchTr.id = some (launchOver x) ∧ AtHead s strm e0 [e1] ∧ (launchOver x).stream = strm.number ∧
        (launchOver x).firstTrap = some trap0 ∧ (launchOver x).ended = true ∧ (launchOver x).ending = x ∧ s.cmds = [])) = true ∧
    (ending0 = ⟨0x30, trap0.cls.toNat, ((launchTr.teams.filter fun t => t.everPlaced).length), trap0.cls.toNat + trap0.team.toNat % 2 ^ 24 * 2 ^ 8,
      some trap0⟩) ∧
    (objAt sTermHeld ⟨0, 1⟩ = some joinedObj ∧ joinedObj.draft = some ⟨1, ⟨[], []⟩, [], none, false, [2]⟩ ∧ launchTr.id = 2 ∧
      (sTermHeld.core.ctxs.get 0).held = some (⟨0, 3⟩, 1, Regions.rec0) ∧ sTermHeld.parked = [] ∧
      (∀ y : Fin 4, y ≠ 0 → (sTermHeld.core.ctxs.get y).held = none) ∧ ∃ z ∈ sTermHeld.sets, z.obj = ⟨0, 3⟩) := by decide +kernel

def dense1 : Obj := blank 1 .dense 1 [64]
def h1 : BitVec 64 := objHandle dense1
def awaiting (s : State) (r : TrapRecord) : State := onCtx s fun c => { c with status := .awaiting, trap := some r }
def trapBad : TrapRecord := ⟨0x09, 7, 0, 0, 1, 0, h1⟩
def denseRep : Obj := { dense1 with replicas := [(1, 5)] }
def sBadT : State := { awaiting (withObjs up [denseRep]) trapBad with bad := [.tier ⟨0, 1⟩ 1 0] }
def trapTile : TrapRecord := ⟨0x09, 6, 0, 0, 3, 0, 5⟩
def sBadTile : State := { awaiting (withObjs up [dense1]) trapTile with bad := [.tile 1 5] }
def sSpill : State := { withObjs up [dense1] with xlats := [⟨0, ⟨0, 1⟩, false, 1, 0, none, 0, 256, 0, 0, false, false⟩] }
def denseDr : Obj := { dense1 with draft := some ⟨1, ⟨[], []⟩, [], none, false, []⟩ }
def denseMv : Obj := { dense1 with loc := { dense1.loc with moving := true, toPackage := 0, toDie := 2 } }
def shoot0 : Shoot := ⟨4, ⟨0, 1⟩, none, some 0, 0, 256, [], [0], []⟩
def sShoot : State :=
  { withObjs up [dense1] with shoots := [shoot0], xlats :=
      [⟨0, ⟨0, 1⟩, false, 1, 0, none, 0, 256, 0, 0, false, false⟩, ⟨3, ⟨0, 1⟩, false, 1, 0, none, 0, 256, 0, 0, false, false⟩] }

/-- R396: a far tier that a saved image fills, a shard whose copy is under way, and a micro-cache that holds the shard. R373: a
migration that a standing shootdown holds, one with no room at its place, and one that finds room. -/
def farFull (s : State) : State := { s with launches := [{ launch0 with teams := [team0, otherOut] }] }
def entry0 : Xlat := ⟨0, ⟨0, 1⟩, false, 1, 0, none, 0, 256, 0, 0, false, false⟩
def spillOn : Obj := { dense1 with spilling := [0] }

theorem meets_StorageIsRepairedAndMoved_places :
    (farRoom sSpill (spillPages sSpill dense1 0) = true ∧ farRoom (farFull sSpill) (spillPages (farFull sSpill) dense1 0) = false ∧
      spillable (farFull sSpill) dense1 = true ∧ 0 ∉ dense1.spilling) ∧
    (spillable (withObjs up [spillOn]) spillOn = true ∧ nextSpill spillOn = some 0 ∧ 0 ∈ spillOn.spilling) ∧
    (let s := { sSpill with core := { up.core with micro := [entry0] } };
      entry0 ∈ s.core.micro ∧ entry0.obj = dense1.key ∧ entry0.shard = 0 ∧ entry0.base < 2 ^ 48 ∧ s.core.place.map (· / 28) = some 0) ∧
    (let s := withObjs up [denseMv];
      s.shoots = [] ∧ (arriveAt s denseMv 0 2).isSome = true ∧ denseMv.shardMap.length = shardCount denseMv - 1 ∧
      arriveAt { farFull s with partitions := [{ part0 with quotas := [0, 0, 0, 0] }] } denseMv 0 2 = none ∧
      ∃ x ∈ ({ s with shoots := [shoot0] } : State).shoots, x.obj = denseMv.key) ∧
    (dense1.loc.moving = false ∧ dense1.hint = none) := by decide +kernel

theorem meets_StorageIsRepairedAndMoved :
    (objAt sBadT denseRep.key = some denseRep ∧ sBadT.bad[0]? = some (.tier denseRep.key 1 0) ∧ (1, 0) ∉ denseRep.lost ∧
      (∃ y ∈ denseRep.versions, originOf denseRep y 0 = 1 ∧ (y.num, 5) ∈ denseRep.replicas ∧ unreachable sBadT 5 = false) ∧ ((allCores sBadT).map (·.id)).Nodup ∧
      AwaitsActing sBadT trapBad ∧ trapBad.cls = 0x09 ∧ trapOn denseRep.key trapBad = true) ∧
    (objAt sBadTile dense1.key = some dense1 ∧ sBadTile.bad[0]? = some (.tile sBadTile.core.id 5) ∧
      launchBy sBadTile sBadTile.core.launch = some launch0 ∧
      launch0.firstTrap = none ∧ AwaitsActing sBadTile trapTile ∧ trapTile.cls = 0x09 ∧
      trapTile.detail.toNat % 256 = 3 ∧ sBadTile.parked = [] ∧ ∀ y : Fin 4, y ≠ 0 → (sBadTile.core.ctxs.get y).trap = none) ∧
    (objAt sSpill dense1.key = some dense1 ∧ spillable sSpill dense1 = true ∧ nextSpill dense1 = some 0 ∧
      nextSpill { dense1 with spilling := [3, 1] } = some 3) ∧
    (objAt (withObjs up [denseDr]) denseDr.key = some denseDr ∧ denseDr.draft ≠ none) ∧
    (objAt (withObjs up [denseMv]) denseMv.key = some denseMv ∧ denseMv.loc.moving = true) ∧
    (objAt sShoot dense1.key = some dense1 ∧ (sShoot.shoots.find? fun y => y.id == shoot0.id) = some shoot0 ∧ shoot0.clusters = [0] ∧
      ∀ c ∈ sShoot.cmds, c.id ∉ shoot0.cmds) := by decide +kernel

end Teams

/-! ## Witnesses: streams, queues and services -/

namespace Streams

def dense1 : Obj := { blank 1 .dense 1 [64] with current := 3, versions := [⟨3, ⟨[], []⟩, 0, []⟩] }
def h1 : BitVec 64 := objHandle dense1
def other : Entry := ⟨[9, 9], none, false, 0, false⟩
def entW (v : Nat) (act : Bool) : Entry :=
  ⟨fieldBytes 0x18 [(0, 2, 3), (2, 2, 0x18), (4, 4, 77), (8, 8, h1.toNat), (0x10, 4, v)], some 3, act, 0, false⟩
def strm (e : Entry) : CmdStream := ⟨0, 0, [e, other], 0⟩
def withStream (s : State) (e : Entry) : State := { s with streams := [strm e] }
def waiting (v : Nat) (act : Bool) : State := withStream (withObjs up [dense1]) (entW v act)
def denseI : Obj :=
  { blank 1 .dense 12 [64] with current := 3, versions := [⟨3, ⟨[(8, 0xFF), (9, 0xFF), (10, 0xFF), (11, 0xFF)], []⟩, 0, []⟩] }
def entC (cmp skip val : Nat) : Entry := ⟨fieldBytes 0x38 [(0, 2, 4), (2, 2, 0x38), (4, 4, 78), (8, 8, h1.toNat), (0x10, 4, 2),
  (0x28, 1, 0), (0x29, 1, cmp), (0x2A, 2, skip), (0x30, 8, val)], none, false, 0, false⟩
def node (e : Entry) : State := withStream (withObjs up [denseI]) e
def entO (svc : Nat) : Entry := ⟨fieldBytes 0x40 [(0, 2, 2), (2, 2, 0x40), (4, 4, 79), (8, 2, svc), (0x10, 8, 5)], none, false, 0, false⟩

/-- An entry of a type and a length. -/
abbrev whole (e : Entry) (type n : Nat) : Prop := entryField e 0 2 = type ∧ e.bytes.length = n ∧ entryField e 2 2 = n

theorem meets_StreamEntriesAreCarriedOut_waits :
    (AtHead (waiting 3 false) (strm (entW 3 false)) (entW 3 false) [other] ∧ (entW 3 false).active = false ∧ whole (entW 3 false) 3 0x18 ∧
      entryField (entW 3 false) 0x14 4 = 0 ∧
      gives (resolveFor (waiting 3 false) 0 (BitVec.ofNat 64 (entryField (entW 3 false) 8 8)) 1 anyKind) dense1 = true ∧
      dense1.current < 2 ^ 24 ∧ entryField (entW 3 false) 0x10 4 ≤ dense1.current ∧ dense1.current < entryField (entW 4 false) 0x10 4) ∧
    (AtHead (waiting 3 true) (strm (entW 3 true)) (entW 3 true) [other] ∧ (entW 3 true).active = true ∧ entryField (entW 3 true) 0 2 = 3 ∧
      gives (resolveHandle (waiting 3 true) (BitVec.ofNat 64 (entryField (entW 3 true) 8 8))) dense1 = true ∧
      entryField (entW 3 true) 0x10 4 ≤ dense1.current) ∧
    (AtHead (waiting 4 true) (strm (entW 4 true)) (entW 4 true) [other] ∧ dense1.current < entryField (entW 4 true) 0x10 4) ∧
    (AtHead (withStream up (entW 3 true)) (strm (entW 3 true)) (entW 3 true) [other] ∧
      objAt (withStream up (entW 3 true)) (handleKey (BitVec.ofNat 64 (entryField (entW 3 true) 8 8))) = none) := by decide +kernel

theorem meets_StreamEntriesAreCarriedOut_nodes :
    (let e := entC 2 1 0;
      AtHead (node e) (strm e) e [other] ∧ e.active = false ∧ whole e 4 0x38 ∧
      gives (resolveFor (node e) 0 (BitVec.ofNat 64 (entryField e 8 8)) 1 dataKind) denseI = true ∧ entryField e 0x28 1 < 4 ∧
      entryField e 0x29 1 ≤ 5 ∧ entryField e 0x2C 4 = 0 ∧ denseI.fmt.toNat = 12 + entryField e 0x28 1 ∧
      [32, 64, 32, 64].getD (entryField e 0x28 1) 0 = 32 ∧ outsideFrom denseI 0 (nodeTuple e) = none ∧
      nodeWaits (node e) e denseI denseI.current = false ∧ denseI.kind ≠ .host ∧
      nodeCompares (entryField e 0x29 1)
        (signedOf 32 (elemCode denseI (storeBytes denseI ((versionStore denseI denseI.current).getD ⟨[], []⟩)) (natPoint (nodeTuple e))))
        (signedOf 32 (entryField e 0x30 8))) ∧
    (let e := entC 4 3 0;
      AtHead (node e) (strm e) e [other] ∧ ¬nodeCompares (entryField e 0x29 1)
        (signedOf 32 (elemCode denseI (storeBytes denseI ((versionStore denseI denseI.current).getD ⟨[], []⟩)) (natPoint (nodeTuple e))))
        (signedOf 32 (entryField e 0x30 8))) ∧
    (AtHead (withStream up (entO 17)) (strm (entO 17)) (entO 17) [other] ∧ (entO 17).active = false ∧ whole (entO 17) 2 0x40 ∧
      entryField (entO 17) 0x0A 6 = 0 ∧ entryField (entO 17) 8 2 ∈ serviceNumbers ∧ entryField (entO 3) 8 2 ∉ serviceNumbers) := by
  decide +kernel

/-- An entry of a type, its length field and further fields. -/
def entF (type n : Nat) (fs : List (Nat × Nat × Nat)) (act : Bool) : Entry :=
  ⟨fieldBytes n ([(0, 2, type), (2, 2, n), (4, 4, 81)] ++ fs), none, act, 3, false⟩
/-- A node of a type of element and a comparison, on object 1. -/
def nodeF (y c w : Nat) (act : Bool) (fs : List (Nat × Nat × Nat)) : Entry :=
  entF 4 0x38 ([(8, 8, h1.toNat), (0x28, 1, y), (0x29, 1, c), (0x2A, 2, 1), (0x2C, 4, w)] ++ fs) act
def denseF : Obj := { blank 1 .dense 1 [64] with current := 3, versions := [⟨3, ⟨[(2, 0x80), (3, 0x3F)], []⟩, 0, []⟩] }
def goneI : Obj := { denseI with loc := { denseI.loc with materialised := false } }

theorem meets_StreamEntriesAreCarriedOut_errors :
    (([(3, 0x10), (4, 0x30), (2, 0x38)] : List (Nat × Nat)).all fun x =>
      let e := entF x.1 x.2 [] false
      decide (AtHead (withStream up e) (strm e) e [other] ∧ e.active = false ∧ entryField e 0 2 = x.1 ∧
        ¬(e.bytes.length = [0x40, 0x18, 0x38].getD (x.1 - 2) 0))) = true ∧
    (whole (entF 3 0x18 [(0x14, 4, 1)] false) 3 0x18 ∧ entryField (entF 3 0x18 [(0x14, 4, 1)] false) 0x14 4 ≠ 0 ∧
      whole (entF 2 0x40 [(0x0A, 2, 1)] false) 2 0x40 ∧ entryField (entF 2 0x40 [(0x0A, 2, 1)] false) 0x0A 6 ≠ 0) ∧
    (failsWith (resolveFor (withStream up (entW 3 false)) 0 h1 1 anyKind) (4, 3) = true ∧
      failsWith (resolveFor (withStream up (nodeF 0 0 0 false [])) 0 h1 1 dataKind) (4, 3) = true) ∧
    (([(6, 0, 0), (0, 7, 0), (0, 6, 0), (0, 5, 1)] : List (Nat × Nat × Nat)).all fun x =>
      let e := nodeF x.1 x.2.1 x.2.2 false []
      decide (AtHead (node e) (strm e) e [other] ∧ whole e 4 0x38 ∧ entryField e 0x28 1 = x.1 ∧ entryField e 0x29 1 = x.2.1 ∧
        entryField e 0x2C 4 = x.2.2)) = true := by decide +kernel

theorem meets_StreamEntriesAreCarriedOut_elements :
    (let e := nodeF 1 0 0 false [];
      gives (resolveFor (node e) 0 h1 1 dataKind) denseI = true ∧ denseI.fmt.toNat ≠ [12, 13, 14, 15, 1, 0].getD (entryField e 0x28 1) 0) ∧
    (outsideFrom denseI 0 (nodeTuple (nodeF 0 0 0 false [(0x10, 4, 64)]))).isSome = true ∧
    (([(0x3F800000, 0), (0x40000000, 4)] : List (Nat × Nat)).all fun x =>
      let e := nodeF 4 x.2 0 false [(0x30, 8, x.1)]
      let s := withStream (withObjs up [denseF]) e
      let a := elemCode denseF (storeBytes denseF ((versionStore denseF 3).getD ⟨[], []⟩)) (natPoint (nodeTuple e))
      decide (denseF.fmt.toNat = 1 ∧ nodeWaits s e denseF 3 = false ∧
        cmpFloat x.2 (elemVal 1 a) (elemVal 1 (entryField e 0x30 8 % 2 ^ 32)) = decide (x.2 = 0))) = true ∧
    (([true, false] : List Bool).all fun act =>
      let e := nodeF 0 0 0 act []
      let s := withStream (withObjs up [goneI]) e
      decide (AtHead s (strm e) e [other] ∧ e.active = act ∧ e.selected = 3 ∧ objAt s goneI.key = some goneI ∧ goneI.key = handleKey h1 ∧
        goneI.fmt.toNat = 12 ∧ outsideFrom goneI 0 (nodeTuple e) = none ∧ nodeWaits s e goneI 3 = true ∧
        nodeWaits (node e) e denseI 3 = false)) = true := by decide +kernel

def imageObj (fs : List (Nat × Nat × Nat)) : Obj :=
  { blank 1 .byte 14 [104] with versions := [⟨1, ⟨cellsOf 0 (fieldBytes 104 ([(0, 4, 0x4C50524A), (4, 2, 1), (6, 2, 1), (8, 1, 1),
      (9, 1, 2), (10, 1, 1), (12, 4, 64), (0x10, 4, 72), (0x14, 4, 1), (72, 4, 0x60640000)] ++ fs)), []⟩, 0, []⟩] }
def entL (fs : List (Nat × Nat × Nat)) : Entry := ⟨fieldBytes 0x50 ([(0, 2, 1), (2, 2, 0x50), (4, 4, 80), (8, 8, (objHandle (imageObj [])).toNat),
  (0x10, 4, 2), (0x18, 4, 9), (0x39, 1, 1), (0x3A, 1, 1), (0x40, 8, 5), (0x48, 8, 6)] ++ fs), none, false, 0, false⟩
def entHuge : Entry := ⟨fieldBytes (0x40 + 8 * 33) [(0, 2, 1), (2, 2, 0x40 + 8 * 33), (8, 8, (objHandle (imageObj [])).toNat), (0x10, 4, 1),
  (0x39, 1, 33)], none, false, 0, false⟩
def given (gs : List (Nat × Nat × Nat)) : State := withStream (withObjs { up with launches := [], core := Reset.core } [imageObj gs]) (entL [])
def small : State := { given [] with partitions := [{ part0 with clusters := [] }] }
def imageOf (gs : List (Nat × Nat × Nat)) : List Byte := contentOf (imageObj gs) (extentAt (imageObj gs) 0)
/-- The program that the record names is this image. -/
abbrev Finds (s : State) (gs : List (Nat × Nat × Nat)) : Prop :=
  AtHead s (strm (entL [])) (entL []) [other] ∧
    gives (resolveFor s 0 (BitVec.ofNat 64 (entryField (entL []) 8 8)) 1 (kindIs .byte)) (imageObj gs) = true ∧ absentObj s (imageObj gs) = false

theorem meets_LaunchEntriesAreAccepted :
    ((entL []).active = false ∧ entryField (entL []) 0 2 = 1 ∧ badRecordField (entL []) = none ∧ entryField (entL []) 0x39 1 ≤ 32 ∧
      entryField (entL []) 0x3A 1 ≤ 61) ∧
    badRecordField (entL [(0x10, 4, 0)]) = some 0x10 ∧ (badRecordField entHuge = none ∧ 32 < entryField entHuge 0x39 1) ∧
    failsWith (resolveFor (withStream up (entL [])) 0 (BitVec.ofNat 64 (entryField (entL []) 8 8)) 1 (kindIs .byte)) (4, 3) = true ∧
    (Finds (given [(0, 4, 0)]) [(0, 4, 0)] ∧ (imageError (imageOf [(0, 4, 0)])).isSome = true) ∧
    (Finds (given [(6, 2, 2)]) [(6, 2, 2)] ∧ imageError (imageOf [(6, 2, 2)]) = none ∧ (badMath (entL []) (imageOf [(6, 2, 2)])).isSome = true) ∧
    (Finds small [] ∧ imageError (imageOf []) = none ∧ badMath (entL []) (imageOf []) = none ∧
      fitsPartition small 0 (recordField (imageOf []) 8 1) (recordField (imageOf []) 9 1) = false) ∧
    (Finds (given []) [] ∧ fitsPartition (given []) 0 (recordField (imageOf []) 8 1) (recordField (imageOf []) 9 1) = true ∧
      entryField (entL []) 0x28 8 = 0 ∧ (sectionOf (imageOf []) 5).2 = 0 ∧
      victims (given []) (launchOfRecord (given []) (strm (entL [])) (entL []) (imageOf [])) = []) := by decide +kernel

def tableL : Obj := blank 4 .forecast 9 [64, 1]
def withTable (s : State) (os : List Obj) : State :=
  withStream (withObjs s os) (entL [(0x28, 8, (objHandle tableL).toNat)])
def goneT : Obj := { tableL with loc := { tableL.loc with materialised := false } }

theorem meets_LaunchEntriesAreAccepted_waits :
    (let s := withStream (withObjs up [{ imageObj [] with loc := { (imageObj []).loc with materialised := false } }]) (entL []);
      contentWaits s { imageObj [] with loc := { (imageObj []).loc with materialised := false } } = true) ∧
    contentWaits (given []) (imageObj []) = false ∧
    (let e := entL [(0x28, 8, (objHandle tableL).toNat)];
      badRecordField e = none ∧ entryField e 0x28 8 ≠ 0 ∧ badMath e (imageOf []) = none ∧
      failsWith (resolveFor (withTable up [imageObj []]) 0 (BitVec.ofNat 64 (entryField e 0x28 8)) 1 (kindIs .forecast)) (4, 3) = true ∧
      gives (resolveFor (withTable up [imageObj [], goneT]) 0 (BitVec.ofNat 64 (entryField e 0x28 8)) 1 (kindIs .forecast)) goneT = true ∧
      contentWaits (withTable up [imageObj [], goneT]) goneT = true) := by decide +kernel

/-- A table of one row that arms every team's entry at marker 0 or 2, and one whose row has an action that there is none. -/
def rowOf (action marker : Nat) : List Byte :=
  fieldBytes 64 ([(0, 8, h1.toNat), (8, 2, marker), (12, 2, 0xFFFF), (14, 1, action)] ++ (List.range 6).map fun j => (0x28 + 4 * j, 4, 1))
def tableOf (action marker : Nat) : Obj := { tableL with versions := [⟨1, ⟨cellsOf 0 (rowOf action marker), []⟩, 0, []⟩] }
/-- An image with a forecast section of n rows, the first of which is written out. -/
def imageFc (n action : Nat) : Obj :=
  { blank 1 .byte 14 [160] with versions := [⟨1, ⟨cellsOf 0 (((List.range 80).map fun i => (imageOf [(0x20, 4, 144), (0x24, 4, 1), (0x38, 4, 80), (0x3C, 4, n)]).getD i 0) ++
      bytesOfNat 8 0 ++ (rowOf action 0).drop 8), []⟩, 0, []⟩] }
def entQ : Entry := entL [(0x40, 8, h1.toNat)]
/-- An image of 4 rows of 6 columns, and a package in which core 6 is bad and a team, to be displaced, has core 0. -/
def wide : List (Nat × Nat × Nat) := [(8, 1, 4), (9, 1, 6)]
def entP : Entry := entL [(0x16, 2, 256)]
def taken (killable : Bool) (eta : Nat) : State :=
  let u := { team0 with eta := BitVec.ofNat 32 eta, lastMark := up.micros }
  withStream (withObjs { up with
    launches := [{ launch0 with killable := killable, teams := [u] }]
    defects := (Vector.replicate 48 0).set 0 64 } [imageObj wide]) entP

/-- A record that names a table, sound and not, and an image whose forecast section makes one. -/
theorem meets_LaunchEntriesAreAccepted_tables :
    (let e := entL [(0x28, 8, (objHandle tableL).toNat)];
      ([1, 5] : List Nat).all fun n =>
        let s := withTable { up with launches := [], core := Reset.core } [imageObj [], tableOf n 0]
        let x := launchOfRecord s (strm e) e (imageOf [])
        decide (AtHead s (strm e) e [other] ∧ gives (resolveFor s 0 (BitVec.ofNat 64 (entryField e 0x28 8)) 1 (kindIs .forecast)) (tableOf n 0) = true ∧
          contentWaits s (tableOf n 0) = false ∧ firstBadRow (tableRows (tableOf n 0) (tableOf n 0).current) = (if n = 1 then none else some 0) ∧
          victims s x = [] ∧ (∀ l ∈ s.launches, l.id ≠ s.nextId) ∧ threshold (parseEntry (rowOf n 0)) = 0)) = true ∧
    (([1, 5] : List Nat).all fun n =>
      let s := withStream (withObjs { up with launches := [], core := Reset.core } [imageFc 1 n]) entQ
      let image := contentOf (imageFc 1 n) 160
      decide (AtHead s (strm entQ) entQ [other] ∧ badRecordField entQ = none ∧ entryField entQ 0x28 8 = 0 ∧ (sectionOf image 5).2 = 1 ∧
        imageError image = none ∧ badMath entQ image = none ∧ fitsPartition s 0 (recordField image 8 1) (recordField image 9 1) = true ∧
        (imageForecast image (recordHandles entQ)).map validEntry = [n == 1])) = true := by decide +kernel

/-- What an object that Rilsia fills takes of a die does not depend on its number, where no page is on its way. -/
theorem filled_number (s : State) (n part die : Nat) (kind : Kind) (extent : List Nat) (bytes : List Byte) (h : s.moves = []) :
    copiesOf (filledObj s n part die kind extent bytes) (nearOf s (filledObj s n part die kind extent bytes) die) =
      copiesOf (filledObj s 0 part die kind extent []) (nearOf s (filledObj s 0 part die kind extent []) die) := by
  have e : filledObj s n part die kind extent bytes = { filledObj s 0 part die kind extent [] with
      key := ⟨s.package, n⟩, generation := generationOf s ⟨s.package, n⟩, versions := [⟨1, ⟨cellsOf 0 bytes, []⟩, 0, []⟩] } := by
    rfl
  rw [e]
  simp only [nearOf, movingTo, h]
  rfl

theorem filled_fits {s : State} {part die : Nat} {kind : Kind} {extent : List Nat} (n : Nat) (bytes : List Byte) (h : s.moves = [])
    (hf : nearUse s part die + copiesOf (filledObj s 0 part die kind extent []) (nearOf s (filledObj s 0 part die kind extent []) die) ≤
      quotaOf s part die) : placeFilled s (filledObj s n part die kind extent bytes) ≠ none :=
  Laws.placeFilled_ne_none (by
    show nearUse s part die + copiesOf _ (nearOf s _ die) ≤ quotaOf s part die
    rw [filled_number s n part die kind extent bytes h]
    exact hf)

/-- The table of an image is made: there is a number for it, and room in the near tier whichever the number. -/
theorem meets_LaunchEntriesAreAccepted_made :
    ∃ b u, createTable (withObjs { up with launches := [] } [imageFc 1 1]) 0 0 (imageForecast (contentOf (imageFc 1 1) 160) (recordHandles entQ)) =
      .ok (b, u) := by
  generalize hr : imageForecast (contentOf (imageFc 1 1) 160) (recordHandles entQ) = rows
  have hl : rows.length = 1 := by rw [← hr]; decide +kernel
  have ha : rows.any (entryForbidden (withObjs { up with launches := [] } [imageFc 1 1]) 0) = false := by rw [← hr]; decide +kernel
  unfold createTable
  rw [hl, if_neg (by decide), ha, if_neg (by decide)]
  split
  · next h => exact absurd h (Laws.pickNumber_ne_none _ (by decide +kernel))
  · next n _ =>
    have h := filled_fits (s := withObjs { up with launches := [] } [imageFc 1 1]) (part := 0) (die := 0) (kind := .forecast) (extent := [64, 1]) n
      (rows.flatMap id) (by decide +kernel) (by decide +kernel)
    simp only
    split
    · next h0 => exact absurd h0 h
    · next t _ => exact ⟨_, _, rfl⟩

/-- A newcomer of a higher class, for which core 6 being bad and core 0 taken leave no placement: the team that is placed is killed or
stopped, or drains where it needs one microsecond more. -/
theorem meets_LaunchEntriesAreAccepted_displaces :
    (([(false, 0xFFFFFFFF), (true, 0xFFFFFFFF), (false, 1)] : List (Bool × Nat)).all fun x =>
      let s := taken x.1 x.2
      let n := launchOfRecord s (strm entP) entP (imageOf wide)
      decide (AtHead s (strm entP) entP [other] ∧ placementFree s n = false ∧ fitsPartition s 0 4 6 = true ∧
        (victims s n).map (fun y => (y.1.killable, y.2.eta.toNat)) = [x] ∧
        (victims s n).all (fun y => decide (TeamIs s y.1 y.2) && (remaining s y.2 == if x.2 = 1 then some 1 else none) && decide (1 < y.1.drain)))) = true ∧
    (badRecordField entP = none ∧ imageError (imageOf wide) = none ∧ badMath entP (imageOf wide) = none ∧ (sectionOf (imageOf wide) 5).2 = 0 ∧
      recordField (imageOf wide) 8 1 = 4 ∧ recordField (imageOf wide) 9 1 = 6) := by decide +kernel

def chain (n w : Nat) (fs : List (Nat × Nat × Nat)) : Chain := ⟨fieldBytes n fs, w⟩
def chHb (len rights : Nat) : Chain := chain 0x20 32 [(0, 2, 1), (4, 4, 7), (8, 8, 0x5000), (0x10, 8, len), (0x18, 1, rights)]
def hostObj : Obj := { blank 1 .host 14 [64] with iova := 0x5000 }
def chRel : Chain := chain 0x10 24 [(0, 2, 2), (4, 4, 7), (8, 8, (objHandle hostObj).toNat)]
def hostEnding : Obj := { hostObj with ending := [7] }
def storeB : Store := ⟨[(9, 4)], []⟩
def denseB : Obj := { blank 1 .dense 1 [64] with versions := [⟨1, storeB, 0, []⟩] }
def chRead : Chain := chain 0x28 28 [(0, 2, 3), (4, 4, 7), (8, 8, (objHandle denseB).toNat), (0x18, 8, 252), (0x20, 8, 4)]
def chSvc : Chain := chain 0x40 24 [(0, 2, 4), (4, 4, 7), (8, 2, 17), (0x10, 8, 5)]
def upQ : State := { up with streams := [⟨0, 0, [], 0⟩] }
def partHeld (lost : Nat) : Partition := { part0 with pendingEvents := [⟨1, 0, []⟩], lostEvents := lost }

/-- A request of an operation and a length. -/
abbrev sound (c : Chain) (op n : Nat) : Prop :=
  24 ≤ c.writable ∧ c.bytes.length ≤ 1024 ∧ recordField c.bytes 0 2 = op ∧ c.bytes.length = n ∧ recordField c.bytes 2 2 = 0

theorem meets_QueuesServeTheirRequests_requests :
    (partitionBy upQ 0 = some part0 ∧ upQ.device = 1 ∧ part0.active = true ∧ part0.reassigning = false ∧ part0.number < 64 ∧
      part0.featuresOk = true ∧ 0 < part0.buffers) ∧
    ((chain 4 23 []).writable < 24 ∧ 1024 < (chain 1025 24 []).bytes.length ∧ 24 ≤ (chain 1024 24 []).writable ∧
      (chain 1024 24 []).bytes.length ≤ 1024 ∧ part0.streams[0]? = some 0 ∧ streamBy upQ 0 = some ⟨0, 0, [], 0⟩) ∧
    (sound chSvc 4 0x40 ∧ recordField chSvc.bytes 0x0A 6 = 0 ∧ recordField chSvc.bytes 8 2 ∈ serviceNumbers) ∧
    ((partHeld 3).pendingEvents.length ≤ 1 ∧ (partHeld 0).lostEvents = 0 ∧ 0 < (partHeld 3).lostEvents ∧
      0 < (partHeld 3).buffers + 1 - (partHeld 3).pendingEvents.length) := by decide +kernel

theorem meets_QueuesServeTheirRequests_buffers :
    (sound (chHb (2 ^ 32 - 1) 3) 1 0x20 ∧ recordField (chHb (2 ^ 32 - 1) 3).bytes 0x19 7 = 0 ∧
      recordField (chHb (2 ^ 32 - 1) 3).bytes 0x10 8 = 2 ^ 32 - 1 ∧ recordField (chHb (2 ^ 32 - 1) 3).bytes 0x18 1 ≤ 3 ∧
      32 ≤ (chHb (2 ^ 32 - 1) 3).writable ∧ sound (chHb 0 0) 1 0x20 ∧ recordField (chHb 0 0).bytes 0x19 7 = 0 ∧
      recordField (chHb 0 0).bytes 0x10 8 = 0) ∧
    (sound chRel 2 0x10 ∧ gives (resolveHandle (withObjs upQ [hostObj]) (BitVec.ofNat 64 (recordField chRel.bytes 8 8))) hostObj = true ∧
      hostObj.kind = .host ∧ hostObj.partition = part0.number ∧
      gives (resolveHandle (withObjs upQ [denseB]) (BitVec.ofNat 64 (recordField chRel.bytes 8 8))) denseB = true ∧ denseB.kind ≠ .host) ∧
    (let s := withObjs upQ [hostEnding];
      objAt s hostEnding.key = some hostEnding ∧ hostEnding.ending = [7] ∧ (∀ d ∈ s.cmds, cmdNames hostEnding.key d = false) ∧
      s.streams.all (fun y => y.entries.head?.all fun e => !e.active) = true) ∧
    (let s := withObjs upQ [denseB];
      sound chRead 3 0x28 ∧ recordField chRead.bytes 0x14 4 = 0 ∧
      gives (resolveFor s 0 (BitVec.ofNat 64 (recordField chRead.bytes 8 8)) 1 anyKind) denseB = true ∧ absentObj s denseB = false ∧
      shardCount denseB = 1 ∧ denseB.compressed = false ∧ versionStore denseB denseB.current = some storeB ∧
      Memory.wf storeB.bytes = true ∧ recordField chRead.bytes 0x20 8 ≤ chRead.writable - 24 ∧
      recordField chRead.bytes 0x18 8 + recordField chRead.bytes 0x20 8 ≤ shardBytes denseB 0 ∧ recordField chRead.bytes 0x20 8 < 2 ^ 32) := by decide +kernel

def busyQ : State := { upQ with calls := [⟨9, 0, 0, 80, [], .control 7, none⟩] }
def readOf (v : Nat) : Chain := chain 0x28 28 [(0, 2, 3), (4, 4, 7), (8, 8, (objHandle denseB).toNat), (0x10, 4, v), (0x18, 8, 252), (0x20, 8, 4)]

theorem meets_QueuesServeTheirRequests_answers :
    (controlBusy upQ part0 (readOf 0) = false ∧ controlBusy busyQ part0 (readOf 0) = true ∧
      controlBusy upQ { part0 with reading := some (readOf 1) } (readOf 0) = true) ∧
    (([0, 5] : List Nat).all fun op => decide (recordField (chain 8 24 [(0, 2, op)]).bytes 0 2 = op ∧ 24 ≤ (chain 8 24 [(0, 2, op)]).writable)) = true ∧
    (let s := withObjs upQ [denseB];
      failsWith (resolveFor upQ 0 (objHandle denseB) 1 anyKind) (4, 3) = true ∧ present s denseB = true ∧
      readBad s (readOf 0) denseB 1 = false ∧ readBad { s with bad := [.tier denseB.key 1 0] } (readOf 0) denseB 1 = true ∧
      sound (readOf 9) 3 0x28 ∧ readBad s (readOf 9) denseB 9 = false ∧ versionStore denseB 9 = none) := by decide +kernel

theorem sixteen_le_queueEntries (p q : Nat) : 16 ≤ Config.queueEntries p q := Nat.le_add_left ..

/-- An empty submit queue is not full, one that holds 1,024 requests is, and the driver's buffers have room for the events held. -/
theorem meets_QueuesServeTheirRequests_sizes :
    queueFull ⟨0, 0, [], 0⟩ 3 = false ∧ queueFull ⟨0, 0, List.replicate 1024 ⟨[], some 3, false, 0, false⟩, 0⟩ 3 = true ∧
    (partHeld 3).pendingEvents.length ≤ Nat.min ((partHeld 3).buffers + 1) (Config.queueEntries 0 2) := by
  refine ⟨?_, ?_, Nat.le_min.mpr ⟨by decide, Nat.le_trans (by decide) (sixteen_le_queueEntries 0 2)⟩⟩
  · have h := sixteen_le_queueEntries 0 3
    simp [queueFull]; omega
  · have h : Config.queueEntries 0 3 ≤ 1024 := by
      have h := Nat.mod_lt (Config.queueDepth 0 3) (Nat.succ_pos 1008)
      unfold Config.queueEntries; omega
    simp only [queueFull, decide_eq_true_eq]; refine Nat.le_trans h ?_; decide +kernel

/-- Malformed requests: on a stream with an entry before them, and on an idle one; and on the control queue. -/
theorem meets_QueuesServeTheirRequests_malformed :
    ((chain 4 23 []).writable < 24 ∧ streamBy (withStream up (entW 3 false)) 0 = some (strm (entW 3 false)) ∧
      (strm (entW 3 false)).skip = 0 ∧ (strm (entW 3 false)).entries.head? = some (entW 3 false) ∧ (entW 3 false).unperformed = false) ∧
    (streamBy upQ 0 = some ⟨0, 0, [], 0⟩ ∧ part0.streams[0]? = some 0 ∧ controlBusy upQ part0 (chain 4 23 []) = false ∧
      ({ part0 with buffers := 0 }).pendingEvents.length < 256 ∧ (List.replicate 256 (⟨1, 0, []⟩ : HostEvent)).length = 256) := by
  decide +kernel

theorem meets_QueuesServeTheirRequests_number : pickNumber upQ ≠ none := Laws.pickNumber_ne_none _ (by decide +kernel)

end Streams


/-! ## Witnesses: services, administration and power -/

namespace Serving

def callOf (svc : Nat) (args : List (BitVec 64)) : Call := ⟨9, 0, 0, svc, args, .control 7, none⟩
def withCall (s : State) (c : Call) : State := { s with calls := [c] }
def bytesObj (n len : Nat) (fs : List (Nat × Nat × Nat)) : Obj :=
  { blank n .byte 9 [len] with versions := [⟨1, ⟨cellsOf 0 (fieldBytes len fs), []⟩, 0, []⟩] }
def dense1 : Obj := blank 1 .dense 1 [64]
def h1 : BitVec 64 := objHandle dense1

/-- `Names`, as a question that can be decided (`ok_of_gives`). -/
abbrev Named (s : State) (c : Call) (i right : Nat) (kinds : Obj → Bool) (o : Obj) : Prop :=
  gives (resolveFor s c.partition (c.args.getD i 0) right kinds) o = true ∧ absentObj s o = false

theorem names_of_named {s : State} {c : Call} {i right : Nat} {kinds : Obj → Bool} {o : Obj} (h : Named s c i right kinds o) :
    Names s c i right kinds o := ⟨ok_of_gives h.1, h.2⟩

def cmdSvc : Cmd := cmdOf up (.svc 0 20 32) 20 fun c => { c with kind := .checkpoint, resolved := true, released := true }
def callRet (args : List (BitVec 64)) : Call := ⟨9, 0, 0, 32, args, .command cmdSvc.id, some (2, 0, 0, 1)⟩
def res0 : Result := ⟨0, 0, 4, [7, 0], none, none, 0⟩
def sRet : State := withCall (withCmds (withObjs up [dense1]) [cmdSvc]) (callRet [h1, 0, 0])
def sRetBad : State := withCall (withCmds up [cmdSvc]) (callRet [h1, 0, 0])
def sRetJ : State := { sRet with partitions := [{ part0 with journal := [⟨(2, 0, 0, 1), res0⟩] }] }

theorem meets_CallsAreAnsweredOnce :
    (let c := callRet [h1, 0, 0];
      (sRet.calls.find? fun e => e.id == c.id) = some c ∧ c.caller = .command cmdSvc.id ∧ cmdBy sRet cmdSvc.id = some cmdSvc ∧
      cmdSvc.result = none ∧ c.service = 32 ∧ callBehind sRet c = false ∧ journalled sRet c = none ∧ journalFull sRet c = false ∧
      ZeroAfter c 3 ∧ Named sRet c 0 1 anyKind dense1 ∧ c.args.getD 1 0 = 0 ∧ c.args.getD 2 0 = 0 ∧
      (∃ w ∈ dense1.versions, w.num = dense1.current) ∧ c.callId = some (2, 0, 0, 1) ∧ partitionBy sRet c.partition = some part0) ∧
    journalled sRetJ (callRet [h1, 0, 0]) = some res0 ∧ callBehind sRetJ (callRet [h1, 0, 0]) = false ∧
    (callBehind sRetBad (callRet [h1, 0, 0]) = false ∧ journalled sRetBad (callRet [h1, 0, 0]) = none ∧
      failsWith (resolveFor sRetBad 0 h1 1 anyKind) (4, 3) = true) := by decide +kernel

/-- The checks of the other services: an argument too many, a handle of no object, a journal without room, and an absent object. -/
def gone1 : Obj := { dense1 with loc := { dense1.loc with materialised := false } }
def callAs (svc : Nat) (args : List (BitVec 64)) : Call := { callRet args with service := svc }
def sAs (c : Call) (o : Obj) : State := withCall (withCmds (withObjs up [o]) [cmdSvc]) c
def fullJournal (s : State) : State :=
  { s with partitions := [{ part0 with journal := List.replicate Config.journalEntries ⟨(3, 0, 0, 1), res0⟩ }] }

theorem meets_CallsAreAnsweredOnce_checks :
    (serviceNumbers.all fun n =>
      let c := callAs n [h1, h1, h1, 1]
      decide ((sAs c dense1).calls.find? (fun e => e.id == c.id) = some c ∧ c.service = n ∧ callBehind (sAs c dense1) c = false ∧
        journalled (sAs c dense1) c = none ∧ journalFull (sAs c dense1) c = false ∧ ¬ZeroAfter c (serviceArity n))) = true ∧
    (([16, 17, 18, 19, 20, 32, 48, 49, 50, 64, 65, 66, 67, 68, 80, 96] : List Nat).all fun n =>
      let c := callAs n ((List.replicate (serviceArity n) (0 : BitVec 64)))
      decide (ZeroAfter c (serviceArity n)) && ((serviceHandles n).head?.elim false fun a =>
        (resolveFor (sAs c dense1) 0 (c.args.getD a.1 0) a.2.1 a.2.2).toOption.isNone)) = true ∧
    (let c := callAs 32 [h1, 0, 0];
      journalFull (fullJournal (sAs c dense1)) c = true ∧ journalled (fullJournal (sAs c dense1)) c = none ∧
      (serviceHandles 32).all (fun a => gives (resolveFor (sAs c gone1) 0 (c.args.getD a.1 0) a.2.1 a.2.2) gone1 && absentObj (sAs c gone1) gone1) = true ∧
      callBehind (sAs c gone1) c = false) := by decide +kernel

def cNull : Call := callOf 0 [5]
def descr (extra : List (Nat × Nat × Nat)) : Obj := bytesObj 1 128 ([(0, 8, 2 ^ 35 + 9 * 2 ^ 15), (8, 4, 64), (12, 4, 1), (16, 4, 1), (20, 4, 1),
  (24, 4, 1), (28, 4, 1), (0x48, 8, 64), (0x70, 8, 3)] ++ extra)
def cCre : Call := callOf 16 [objHandle (descr [])]
def sCre (o : Obj) : State := withCall (withObjs up [o]) cCre
/-- R378: the descriptor is in order. -/
def inOrder (o : Obj) : Bool :=
  let d := parseDescriptor (contentOf o 128)
  classOk d 0 && kindOk d && wordsOk d
def cDes : Call := callOf 17 [h1]
def sDes : State := withCall (withObjs up [dense1]) cDes
def sDesHeld : State := withCall (onCtx (withObjs up [dense1]) fun c => { c with pins := [⟨⟨0, 1⟩, h1, 1⟩] }) cDes
def qObj : Obj := blank 2 .queue 9 [520, 4]
def zObj : Obj := blank 3 .queue 9 [520, 4]
def decl : Obj := bytesObj 1 32 [(0, 8, (objHandle qObj).toNat), (8, 8, (objHandle zObj).toNat), (0x10, 1, 2), (0x12, 1, 1)]
def cSet : Call := callOf 18 [objHandle decl]
def sSet : State := withCall (withObjs up [decl, qObj, zObj]) cSet
def tblObj : Obj := bytesObj 1 128 [(0, 8, h1.toNat), (64, 8, h1.toNat)]
def cTbl (n : Nat) : Call := callOf 19 [objHandle tblObj, BitVec.ofNat 64 n]
def sTbl (n : Nat) : State := withCall (withObjs up [tblObj]) (cTbl n)

theorem meets_ServicesMakeAndEndObjects_creates :
    (Called (withCall up cNull) cNull 0 ∧ ZeroAfter cNull 1) ∧
    (Called (sCre (descr [])) cCre 16 ∧ ZeroAfter cCre 1 ∧ Named (sCre (descr [])) cCre 0 1 (kindIs .byte) (descr []) ∧
      128 ≤ extentAt (descr []) 0 ∧ inOrder (descr []) = true ∧ dKind (parseDescriptor (contentOf (descr []) 128)) ≠ .expert) ∧
    (Called (sCre (descr [(0x20, 8, 5)])) cCre 16 ∧ Named (sCre (descr [(0x20, 8, 5)])) cCre 0 1 (kindIs .byte) (descr [(0x20, 8, 5)]) ∧
      inOrder (descr [(0x20, 8, 5)]) = false) := by decide +kernel

theorem meets_ServicesMakeAndEndObjects_ends :
    (Called (sCre (bytesObj 1 127 [])) cCre 16 ∧ Named (sCre (bytesObj 1 127 [])) cCre 0 1 (kindIs .byte) (bytesObj 1 127 []) ∧
      extentAt (bytesObj 1 127 []) 0 < 128) ∧
    (Called sDes cDes 17 ∧ ZeroAfter cDes 1 ∧ Named sDes cDes 0 2 anyKind dense1 ∧ heldObj sDes dense1 = false) ∧
    (Called sDesHeld cDes 17 ∧ Named sDesHeld cDes 0 2 anyKind dense1 ∧ heldObj sDesHeld dense1 = true) := by decide +kernel

theorem meets_ServicesMakeAndEndObjects_records :
    (Called sSet cSet 18 ∧ ZeroAfter cSet 1 ∧ Named sSet cSet 0 1 (kindIs .byte) decl ∧ 32 ≤ extentAt decl 0 ∧
      declarationOk (contentOf decl 32) = true ∧
      gives (resolveFor sSet 0 (BitVec.ofNat 64 (recordField (contentOf decl 32) 0 8)) 2 (kindIs .queue)) qObj = true ∧
      gives (resolveFor sSet 0 (BitVec.ofNat 64 (recordField (contentOf decl 32) 8 8)) 2 (kindIs .queue)) zObj = true) ∧
    (Called (sTbl 2) (cTbl 2) 19 ∧ ZeroAfter (cTbl 2) 2 ∧ Named (sTbl 2) (cTbl 2) 0 1 (kindIs .byte) tblObj ∧
      Memory.wf (storeBytes tblObj ((versionStore tblObj tblObj.current).getD ⟨[], []⟩)) = true ∧ 64 * 2 ≤ extentAt tblObj 0 ∧
      ((List.range 2).all fun i =>
        gives (resolveHandle (sTbl 2) (parseEntry ((contentOf tblObj (64 * 2)).drop (64 * i) |>.take 64)).handle) tblObj && hasRight tblObj 0 1) = true) ∧
    (Called (sTbl 0) (cTbl 0) 19 ∧ Named (sTbl 0) (cTbl 0) 0 1 (kindIs .byte) tblObj) ∧
    (Called (sTbl 4097) (cTbl 4097) 19 ∧ Named (sTbl 4097) (cTbl 4097) 0 1 (kindIs .byte) tblObj) := by decide +kernel

/-- R2: with no near quota and a far tier that a saved image fills, a new stage set and a new table find no room. -/
def noRoom (s : State) : State :=
  { s with
    partitions := [{ part0 with quotas := [0, 0, 0, 0] }]
    launches := [{ launch0 with teams := [{ team0 with status := .out, place := none, image := some ⟨0, 2 ^ 64, true⟩ }] }] }
theorem meets_ServicesMakeAndEndObjects_room :
    (Called (noRoom sSet) cSet 18 ∧ Named (noRoom sSet) cSet 0 1 (kindIs .byte) decl ∧ Called (noRoom (sTbl 2)) (cTbl 2) 19 ∧
      Named (noRoom (sTbl 2)) (cTbl 2) 0 1 (kindIs .byte) tblObj) ∧
    farRoom (noRoom sSet) 1 = false ∧ quotaOf (noRoom sSet) 0 0 = 0 := by decide +kernel

/-- A new stage set and a new table find room, whichever their number. -/
theorem meets_ServicesMakeAndEndObjects_placed (k : Nat) :
    placeFilled sSet (filledObj sSet k 0 qObj.loc.die .stage [32] ((contentOf decl 32).take 32)) ≠ none ∧
    placeFilled (sTbl 2) (filledObj (sTbl 2) k 0 tblObj.loc.die .forecast [64, 2] (contentOf tblObj 128)) ≠ none :=
  ⟨Streams.filled_fits k _ (by decide +kernel) (by decide +kernel), Streams.filled_fits k _ (by decide +kernel) (by decide +kernel)⟩

theorem meets_ServicesMakeAndEndObjects_number :
    pickNumber (sCre (descr [])) ≠ none ∧ pickNumber sSet ≠ none ∧ pickNumber (sTbl 2) ≠ none ∧ pickNumber (sTbl 0) ≠ none :=
  ⟨Laws.pickNumber_ne_none _ (by decide +kernel), Laws.pickNumber_ne_none _ (by decide +kernel),
    Laws.pickNumber_ne_none _ (by decide +kernel), Laws.pickNumber_ne_none _ (by decide +kernel)⟩

/-- Whether an object fits does not depend on its number. -/
theorem storageFits_number (s : State) (k k' : ObjKey) (part : Nat) (d : Descriptor) :
    storageFits (objOfDescriptor s k part d) = storageFits (objOfDescriptor s k' part d) := by
  have h : objOfDescriptor s k part d = { objOfDescriptor s k' part d with key := k, generation := generationOf s k } := by
    simp only [objOfDescriptor, withPlane, blankObj]
    split <;> rfl
  rw [h]
  rfl
/-- Two extents of 2^32 − 1: more than any package holds. -/
def huge : Obj := descr [(0, 8, 2 * 2 ^ 35 + 9 * 2 ^ 15), (8, 4, 2 ^ 32 - 1), (12, 4, 2 ^ 32 - 1), (0x48, 8, 2 ^ 32 - 1)]
/-- R2: what a descriptor asks for fits, or does not, whichever number the object gets. -/
theorem meets_ServicesMakeAndEndObjects_fits (n : Nat) :
    storageFits (objOfDescriptor (sCre (descr [])) ⟨0, n⟩ 0 (parseDescriptor (contentOf (descr []) 128))) = true ∧
    storageFits (objOfDescriptor (sCre huge) ⟨0, n⟩ 0 (parseDescriptor (contentOf huge 128))) = false := by
  rw [storageFits_number _ ⟨0, n⟩ ⟨0, 0⟩, storageFits_number _ ⟨0, n⟩ ⟨0, 0⟩]
  decide +kernel

/-- The last n object numbers of a full table, and a full list of receivers. -/
def everyNumber : Nat → List Obj
  | 0 => []
  | n + 1 => blank n .byte 9 [64] :: everyNumber n
def everyResource : Nat → List Receiver
  | 0 => []
  | n + 1 => ⟨n, ⟨0, 77⟩, 0⟩ :: everyResource n

theorem everyNumber_has : ∀ (m n : Nat), n < m → blank n .byte 9 [64] ∈ everyNumber m
  | m + 1, n, h => by
    rcases Nat.lt_succ_iff_lt_or_eq.1 h with h | rfl
    · exact List.mem_cons_of_mem _ (everyNumber_has m n h)
    · exact List.mem_cons_self ..
theorem everyResource_has : ∀ (m n : Nat), n < m → (⟨n, ⟨0, 77⟩, 0⟩ : Receiver) ∈ everyResource m
  | m + 1, n, h => by
    rcases Nat.lt_succ_iff_lt_or_eq.1 h with h | rfl
    · exact List.mem_cons_of_mem _ (everyResource_has m n h)
    · exact List.mem_cons_self ..

/-- Every object number is taken. -/
def crowded (o : Obj) : State := { sCre o with objects := o :: everyNumber (2 ^ 24) }
theorem meets_ServicesMakeAndEndObjects_crowded : pickNumber (crowded (descr [])) = none := by
  rw [pickNumber, List.find?_eq_none]
  intro n hn
  obtain ⟨i, -, rfl⟩ := List.mem_map.1 hn
  have h := everyNumber_has (2 ^ 24) _ (Nat.mod_lt (Config.objectNumber (crowded (descr [])).drawn + i) (by decide))
  have : (crowded (descr [])).objects.any (fun o => o.key == ⟨(crowded (descr [])).package,
      (Config.objectNumber (crowded (descr [])).drawn + i) % 2 ^ 24⟩ && (o.present || !o.retains.isEmpty)) = true :=
    List.any_eq_true.2 ⟨_, List.mem_cons_of_mem _ h, by
      rw [show (crowded (descr [])).package = 0 by decide +kernel]
      simp [blank, blankObj]⟩
  rw [numberFree, this]
  exact Bool.false_ne_true

/-- A descriptor of an expert buffer of eight rows of 64 bytes. -/
def bufD : Obj := descr [(0, 8, 2 * 2 ^ 35 + 5 * 2 ^ 32 + 9 * 2 ^ 28), (8, 4, 64), (12, 4, 8), (0x20, 8, 1)]

theorem meets_ServicesMakeAndEndObjects_others :
    (Called (crowded (descr [])) cCre 16 ∧ Named (crowded (descr [])) cCre 0 1 (kindIs .byte) (descr []) ∧ inOrder (descr []) = true) ∧
    (Called (sCre huge) cCre 16 ∧ Named (sCre huge) cCre 0 1 (kindIs .byte) huge ∧ inOrder huge = true) ∧
    (Called (sCre bufD) cCre 16 ∧ Named (sCre bufD) cCre 0 1 (kindIs .byte) bufD ∧ inOrder bufD = true ∧
      dKind (parseDescriptor (contentOf bufD 128)) = .expert ∧ 0 < (sCre bufD).pools.getD 0 0 ∧
      fieldOf (parseDescriptor (contentOf bufD 128)).placement 56 2 = 0 ∧ ({ sCre bufD with pools := [] } : State).pools.getD 0 0 = 0) := by
  decide +kernel

theorem meets_ServicesMakeAndEndObjects_numbers :
    pickNumber (sCre huge) ≠ none ∧ pickNumber (sCre bufD) ≠ none ∧
    ∀ n, storageFits (objOfDescriptor (sCre bufD) ⟨0, n⟩ 0 (parseDescriptor (contentOf bufD 128))) = true :=
  ⟨Laws.pickNumber_ne_none _ (by decide +kernel), Laws.pickNumber_ne_none _ (by decide +kernel), fun n => by
    rw [storageFits_number _ ⟨0, n⟩ ⟨0, 0⟩]
    decide +kernel⟩

def denseT : Obj := blank 2 .dense 1 [64]
def hintObj (x : Nat) : Obj := bytesObj 1 16 [(0, 2, 5 + 2 ^ 10), (2, 1, x)]
def cHint : Call := callOf 20 [objHandle denseT, objHandle (hintObj 0)]
def sHint (x : Nat) : State := withCall (withObjs up [denseT, hintObj x]) cHint
def epObj (x : Nat) : Obj := bytesObj 1 48 [(0x18, 1, x)]
def cEp : Call := callOf 48 [objHandle (epObj 0)]
def sEp (x : Nat) : State := withCall (withObjs up [epObj x]) cEp
def cRecv (j : Nat) : Call := callOf 49 [h1, BitVec.ofNat 64 j]
def sRecv (j : Nat) : State := withCall (withObjs up [dense1]) (cRecv j)
def poObj (x : Nat) : Obj := bytesObj 1 48 [(0, 1, x), (1, 1, 1)]
def cPort : Call := callOf 50 [objHandle (poObj 0)]
def sPort (x : Nat) (ow : Nat) : State := { withCall (withObjs up [poObj x]) cPort with owner := ow }
def subObj : Obj := bytesObj 1 24 [(0, 2, 3), (2, 2, 0x18), (4, 4, 55)]
def cSub : Call := callOf 80 [objHandle subObj, 0]
def sSub : State := { withCall (withObjs up [subObj]) cSub with streams := [⟨0, 0, [], 0⟩] }
def cntObj : Obj := bytesObj 1 64 []
def cCnt (set : Nat) : Call := callOf 96 [BitVec.ofNat 64 set, objHandle cntObj]
def sCnt (set : Nat) : State := withCall (withObjs up [cntObj]) (cCnt set)

theorem meets_ServicesWriteRecords_hints :
    (Called (sHint 0) cHint 20 ∧ ZeroAfter cHint 2 ∧ Named (sHint 0) cHint 0 2 notHost denseT ∧ Named (sHint 0) cHint 1 1 (kindIs .byte) (hintObj 0) ∧
      16 ≤ extentAt (hintObj 0) 0 ∧ (parseHint (contentOf (hintObj 0) 16)).isSome = true) ∧
    (Called (sHint 255) cHint 20 ∧ Named (sHint 255) cHint 0 2 notHost denseT ∧ Named (sHint 255) cHint 1 1 (kindIs .byte) (hintObj 255) ∧
      parseHint (contentOf (hintObj 255) 16) = none) ∧
    (Called (sEp 0) cEp 48 ∧ ZeroAfter cEp 1 ∧ Named (sEp 0) cEp 0 2 (kindIs .byte) (epObj 0) ∧ 48 ≤ extentAt (epObj 0) 0) := by decide +kernel

theorem meets_ServicesWriteRecords_receivers :
    (Called (sRecv (2 ^ 24 - 1)) (cRecv (2 ^ 24 - 1)) 49 ∧ ZeroAfter (cRecv (2 ^ 24 - 1)) 2 ∧
      Named (sRecv (2 ^ 24 - 1)) (cRecv (2 ^ 24 - 1)) 0 2 dataKind dense1 ∧ ((cRecv (2 ^ 24 - 1)).args.getD 1 0).toNat < 2 ^ 24) ∧
    (Called (sRecv (2 ^ 24)) (cRecv (2 ^ 24)) 49 ∧ Named (sRecv (2 ^ 24)) (cRecv (2 ^ 24)) 0 2 dataKind dense1 ∧
      2 ^ 24 ≤ ((cRecv (2 ^ 24)).args.getD 1 0).toNat) ∧
    (Called (sPort 0 1) cPort 50 ∧ ZeroAfter cPort 1 ∧ Named (sPort 0 1) cPort 0 1 (kindIs .byte) (poObj 0) ∧ 48 ≤ extentAt (poObj 0) 0 ∧
      cPort.partition ≠ (sPort 0 1).owner) ∧
    (Called (sPort 0 0) cPort 50 ∧ cPort.partition = (sPort 0 0).owner ∧ (parsePort (contentOf (poObj 0) 48)).isSome = true) ∧
    (Called (sPort 255 0) cPort 50 ∧ cPort.partition = (sPort 255 0).owner ∧ parsePort (contentOf (poObj 255) 48) = none) := by
  decide +kernel

/-- A retain and its end: of the current version, of one that there is not, and of one that nothing else holds. -/
def twoKept : Obj := { dense1 with current := 2, versions := [⟨1, ⟨[], []⟩, 0, []⟩, ⟨2, ⟨[], []⟩, 0, []⟩], retains := [1] }
def cHold (v e : Nat) : Call := callOf 32 [h1, BitVec.ofNat 64 v, BitVec.ofNat 64 e]
def sHold (c : Call) : State := withCall (withObjs up [twoKept]) c

theorem meets_ServicesWriteRecords_retains :
    (([(0, 0), (1, 0), (9, 0), (1, 1), (2, 1), (2 ^ 32, 0), (0, 2)] : List (Nat × Nat)).all fun x =>
      let c := cHold x.1 x.2
      decide (Called (sHold c) c 32 ∧ ZeroAfter c 3 ∧ Named (sHold c) c 0 1 anyKind twoKept ∧ (c.args.getD 1 0).toNat = x.1 ∧
        (c.args.getD 2 0).toNat = x.2)) = true ∧
    ((∃ y ∈ twoKept.versions, y.num = 1) ∧ (∀ y ∈ twoKept.versions, y.num ≠ 9) ∧ 1 ∈ twoKept.retains ∧ 2 ∉ twoKept.retains) := by
  decide +kernel

theorem meets_ServicesWriteRecords_queues :
    (Called sSub cSub 80 ∧ ZeroAfter cSub 2 ∧ Named sSub cSub 0 1 (kindIs .byte) subObj ∧
      streamBy sSub (cSub.args.getD 1 0).toNat = some ⟨0, 0, [], 0⟩ ∧
      recordField (contentOf subObj (Nat.min 8 (extentAt subObj 0))) 2 2 = 0x18 ∧ 0x18 ≤ extentAt subObj 0) ∧
    (Called (sCnt 5) (cCnt 5) 96 ∧ ZeroAfter (cCnt 5) 2 ∧ Named (sCnt 5) (cCnt 5) 1 2 (kindIs .byte) cntObj ∧ cntObj.draft = none ∧
      (cCnt 5).caller = .control 7 ∧ 4 < ((cCnt 5).args.getD 0 0).toNat) ∧
    (Called (sCnt 4) (cCnt 4) 96 ∧ Named (sCnt 4) (cCnt 4) 1 2 (kindIs .byte) cntObj ∧ cntObj.compressed = false ∧
      (cCnt 4).args.getD 0 0 = 4 ∧ 64 ≤ extentAt cntObj 0 ∧ wouldRetain (sCnt 4) cntObj < 4 ∧ cntObj.current < 0xFFFFFFFF ∧
      (∀ w ∈ cntObj.versions, Memory.wf w.store.bytes = true) ∧ (∃ w ∈ cntObj.versions, w.num = cntObj.current) ∧
      (∀ w ∈ cntObj.versions, w.num ≤ cntObj.current) ∧ partitionBy (sCnt 4) (cCnt 4).partition = some part0) := by decide +kernel

def fullRecv : State := { sRecv 0 with receivers := everyResource (2 ^ 24) }
/-- The resource index is a free value: with no receiver the first that comes up serves, and with every one borne none does. -/
theorem meets_ServicesWriteRecords_resources : pickResource (sRecv 0) ≠ none ∧ pickResource fullRecv = none ∧
    Called fullRecv (cRecv 0) 49 ∧ Named fullRecv (cRecv 0) 0 2 dataKind dense1 := by
  refine ⟨?_, ?_, by decide +kernel, by decide +kernel⟩
  · have h : (sRecv 0).receivers = [] := by decide +kernel
    simp [pickResource, h]
  · rw [pickResource, List.find?_eq_none]
    intro n hn
    obtain ⟨i, -, rfl⟩ := List.mem_map.1 hn
    have h := everyResource_has (2 ^ 24) _ (Nat.mod_lt ((Config.resourceIndex fullRecv.drawn).toNat + i) (by decide))
    have : fullRecv.receivers.any (fun r => r.resource == ((Config.resourceIndex fullRecv.drawn).toNat + i) % 2 ^ 24) = true :=
      List.any_eq_true.2 ⟨_, h, by simp⟩
    rw [this]
    exact Bool.false_ne_true

/-- Port 3, and a port record that is too short. -/
def poObj3 : Obj := bytesObj 1 48 [(0, 1, 3), (1, 1, 1)]
theorem meets_ServicesWriteRecords_ports :
    (let s := { withCall (withObjs up [bytesObj 1 47 []]) cPort with owner := 0 };
      Called s cPort 50 ∧ Named s cPort 0 1 (kindIs .byte) (bytesObj 1 47 []) ∧ cPort.partition = s.owner ∧ extentAt (bytesObj 1 47 []) 0 < 48) ∧
    ((parsePort (contentOf poObj3 48)).map (·.1) = some 3 ∧ recordBad (sCnt 4) (cCnt 4) = false ∧ shardCount cntObj = 1 ∧ 64 ≤ shardBytes cntObj 0) ∧
    (let s := sSub; streamBy s (cSub.args.getD 1 0).toNat = some ⟨0, 0, [], 0⟩ ∧ 0 = cSub.partition) := by decide +kernel

def cMig (p d : Nat) : Call := callOf 64 [h1, BitVec.ofNat 64 p, BitVec.ofNat 64 d]
def sMig (p d : Nat) : State := { withCall (withObjs up [dense1]) (cMig p d) with lostLinks := [9] }
def cRep (p : Nat) : Call := callOf 65 [h1, BitVec.ofNat 64 (2 ^ 63 + p)]
def sRep (o : Obj) (p : Nat) : State := withCall (withObjs up [o]) (cRep p)
def dense7 : Obj := { dense1 with replicas := (List.range 7).map fun i => (1, 100 + i) }
def cSpill : Call := callOf 66 [h1]
def sSpill : State := withCall (withObjs up [dense1]) cSpill
def hostW : Obj := { blank 2 .host 14 [64] with geometry := 6 }
def cExp (v : Nat) : Call := callOf 67 [h1, BitVec.ofNat 64 v, 6]
def sExp (v : Nat) : State := withCall (withObjs up [dense1, hostW]) (cExp v)
def denseL : Obj := { dense1 with loc := { dense1.loc with lent := true }, lentVersion := 1 }
def cEnd : Call := callOf 68 [h1]
def sEndL : State := withCall (withObjs up [denseL]) cEnd

theorem meets_ServicesMoveStorage_places :
    (([(576, 3), (575, 4), (9, 3), (575, 3), (0, 3)] : List (Nat × Nat)).all fun x =>
      decide (Called (sMig x.1 x.2) (cMig x.1 x.2) 64 ∧ ZeroAfter (cMig x.1 x.2) 3 ∧ Named (sMig x.1 x.2) (cMig x.1 x.2) 0 2 notHost dense1)) = true ∧
    (9 ≠ (sMig 9 3).package ∧ 9 ∈ (sMig 9 3).lostLinks ∧ 575 ∉ (sMig 575 3).lostLinks ∧ 575 ∉ (sMig 575 3).failedPackages) ∧
    (Called (sRep dense1 575) (cRep 575) 65 ∧ ZeroAfter (cRep 575) 2 ∧ Named (sRep dense1 575) (cRep 575) 0 1 notHost dense1 ∧
      ((cRep 575).args.getD 1 0).toNat = 2 ^ 63 + 575 ∧ 575 ∉ (sRep dense1 575).lostLinks ∧ dense1.replicas = []) ∧
    (Called (sRep dense7 5) (cRep 5) 65 ∧ Named (sRep dense7 5) (cRep 5) 0 1 notHost dense7 ∧ 7 ≤ replicaCount dense7 ∧
      ∀ r ∈ dense7.replicas, r.2 ≠ 5) := by decide +kernel

theorem meets_ServicesMoveStorage_loans :
    (Called sSpill cSpill 66 ∧ ZeroAfter cSpill 1 ∧ Named sSpill cSpill 0 2 notHost dense1 ∧ unused sSpill dense1 = true) ∧
    (Called (sExp 1) (cExp 1) 67 ∧ ZeroAfter (cExp 1) 3 ∧ Named (sExp 1) (cExp 1) 0 2 lendable dense1 ∧
      windowOf (sExp 1) 0 ((cExp 1).args.getD 2 0).toNat = some hostW ∧ ((cExp 1).args.getD 1 0).toNat < 2 ^ 32 ∧
      unused (sExp 1) dense1 = true ∧ (∃ x ∈ dense1.versions, x.num = 1) ∧ dense1.storage < 2 ^ 32) ∧
    (Called (sExp 2) (cExp 2) 67 ∧ Named (sExp 2) (cExp 2) 0 2 lendable dense1 ∧ ∀ x ∈ dense1.versions, x.num ≠ 2) ∧
    (Called sEndL cEnd 68 ∧ ZeroAfter cEnd 1 ∧ gives (resolveFor sEndL 0 (cEnd.args.getD 0 0) 2 lendable) denseL = true ∧
      denseL.loc.lent = true ∧ objAt sEndL denseL.key = some denseL) ∧
    (objAt sSpill dense1.key = some dense1 ∧ dense1.loc.lent = false) := by decide +kernel

def drafted : Obj := { dense1 with draft := some ⟨1, ⟨[], []⟩, [], none, false, [2]⟩ }
theorem meets_ServicesMoveStorage_used :
    (let s := withCall (withObjs up [drafted]) cSpill;
      Called s cSpill 66 ∧ Named s cSpill 0 2 notHost drafted ∧ unused s drafted = false) ∧
    (let s := withCall (withObjs up [drafted, hostW]) (cExp 1);
      Called s (cExp 1) 67 ∧ Named s (cExp 1) 0 2 lendable drafted ∧ windowOf s 0 6 = some hostW ∧ (∃ x ∈ drafted.versions, x.num = 1) ∧
      unused s drafted = false) ∧
    ((∀ n < shardCount dense1, shardPackage dense1 n = 0) ∧ ¬∀ n < shardCount dense1, shardPackage dense1 n = 575) := by decide +kernel

/-- A migration to a die with room, and one for which there is none in either tier; a spill without room for its image. -/
theorem meets_ServicesMoveStorage_room :
    (migrateTo (sMig 0 3) dense1 0 3 ≠ none ∧ migrateTo (noRoom (sMig 0 3)) dense1 0 3 = none ∧
      Called (noRoom (sMig 0 3)) (cMig 0 3) 64 ∧ Named (noRoom (sMig 0 3)) (cMig 0 3) 0 2 notHost dense1 ∧
      dense1.shardMap.length = shardCount dense1 - 1) ∧
    (Called (noRoom sSpill) cSpill 66 ∧ Named (noRoom sSpill) cSpill 0 2 notHost dense1 ∧ unused (noRoom sSpill) dense1 = true ∧
      farRoom (noRoom sSpill) (spillPages (noRoom sSpill) dense1 0) = false) := by decide +kernel

def administered (st : SpdmState) : State := { up with partitions := [{ part0 with spdm := st }] }

theorem meets_AdministrationIsAnswered :
    (([.none, .version, .capabilities, .algorithms] : List SpdmState).all fun st =>
      decide (AdminOpen (administered st) { part0 with spdm := st })) = true ∧
    ([0, 1, 2, 3].map fun n => sequenceRank ([SpdmState.none, .version, .capabilities, .algorithms].getD n .none)) = [0, 1, 2, 3] ∧
    ([0x84, 0xE1, 0xE3, 0x81, 0x82, 0x83, 0xE0].all fun code => (⟨1, 0, 5, code, 0x12, true, false⟩ : SpdmRequest).code == code) = true ∧
    (let q : SpdmRequest := ⟨1, 0, 5, 0xFF, 0x11, false, false⟩;
      q.op = 1 ∧ q.flags = 0 ∧ q.version ≠ 0x12 ∧ q.wellFormed = false ∧ q.code ∉ [0x84, 0xE1, 0xE3, 0x81, 0x82, 0x83, 0xE0]) ∧
    (let q : SpdmRequest := ⟨3, 0, 5, 0x84, 0x12, true, false⟩; 2 < q.op) ∧
    (let q : SpdmRequest := ⟨2, 1, 5, 0x84, 0x12, true, true⟩; q.op = 2 ∧ q.flags ≠ 0 ∧ q.version = 0x12 ∧ q.wellFormed = true) ∧
    up.package < 2 ^ 16 ∧ part0.number < 2 ^ 8 := by decide +kernel

def drawing (p : Power) : State := { up with power := p }
def powFull : Power := { Reset.power with level := Vector.replicate 48 8 }
def powCalm1 : Power := { powFull with throttle := Vector.replicate 48 1, stepped := [List.range 48], raised := [3, 4], calm := 10 }
def powCalm2 : Power := { Reset.power with level := (Vector.replicate 48 0).set 3 1, raised := [3], calm := 10 }

theorem meets_PowerFollowsTheDraw :
    ([Reset.power, powFull, powCalm1, powCalm2].all fun w => (List.range 48).all fun i =>
      decide (w.level.getD i 0 ≤ 8) && decide (w.throttle.getD i 0 ≤ 2)) = true ∧ (∀ p ∈ up.partitions, p.cap = 0) ∧
    ([5880].foldl (· + ·) 0 ≤ 5880 ∧ 5880 < [5881].foldl (· + ·) 0 ∧ [5699].foldl (· + ·) 0 < 5700) ∧
    ((∃ i < 48, Reset.power.level.getD i 0 < 8) ∧ (∀ i < 48, powFull.level.getD i 0 = 8) ∧ Reset.power.calm < 10) ∧
    (10 ≤ powCalm1.calm ∧ powCalm1.stepped = List.range 48 :: []) ∧
    (10 ≤ powCalm2.calm ∧ powCalm2.stepped = [] ∧ powCalm2.raised = 3 :: []) := by decide +kernel

/-- One partition with a cap of 100 W, of clusters 0 and 1, calm for n microseconds. -/
def capPart : Partition := { part0 with clusters := [0, 1], cap := 100 }
def capped (p : Power) (n : Nat) : State := { up with partitions := [capPart], power := { p with capCalm := [(0, n)] } }
def drawOf (d : List Nat) (p : Partition) : Nat := (p.clusters.map fun c => d.getD c 0).foldl (· + ·) 0

theorem meets_PowerFollowsTheDraw_caps :
    (capPart ∈ (capped Reset.power 0).partitions ∧ capPart.active = true ∧ capPart.cap ≠ 0 ∧ ∀ q ∈ (capped Reset.power 0).partitions, q = capPart) ∧
    (drawOf [60, 41] capPart = 101 ∧ drawOf [60, 40] capPart = 100 ∧ 100 * drawOf [94] capPart < 95 * 100 ∧ ¬100 * drawOf [95] capPart < 95 * 100) ∧
    (Reset.power.level.getD 0 0 < 8 ∧ 8 ≤ powFull.level.getD 0 0 ∧ powFull.throttle.getD 0 0 < 2) ∧
    (([0, 9, 10] : List Nat).all fun n =>
      let p := (capped powCalm1 n).power
      ((p.capCalm.find? fun x => x.1 == 0).map (·.2)).getD 0 == n && p.stepped == [List.range 48]) = true ∧
    (10 ≤ { powCalm1 with stepped := [[5], [0]] }.calm ∧ (∀ i ∈ capPart.clusters, i ∉ [5]) ∧ ∃ i ∈ capPart.clusters, i ∈ [0]) := by decide +kernel

def boot0 : BootRecord := ⟨none, [1, 2, 3, 4, 5, 6], 7, [1], ⟨0, 0, [⟨0, [0], 0, [8, 8, 8, 8], [0], []⟩], [4, 4, 4, 4], [], 5⟩⟩
def partRe : Partition := { part0 with reassigning := true }
def sRe : State := { up with partitions := [partRe], launches := [], core := Reset.core }
def sRe0 : State := { up with launches := [], core := Reset.core }

/-- Two partitions with one cluster: no package can take them. -/
def boot1 : BootRecord :=
  { boot0 with config := { boot0.config with partitions := [⟨0, [0], 0, [8, 8, 8, 8], [0], []⟩, ⟨1, [0], 0, [8, 8, 8, 8], [1], []⟩] } }
def livingPart : State := { up with partitions := [{ part0 with reassigning := true }] }

theorem meets_PackagesComeUpAndPartitionsChange_others :
    (configOk boot0.config = true ∧ configOk boot1.config = false ∧ State.reset.stored = none ∧
      ({ State.reset with stored := some boot1.config } : State).stored.getD boot0.config = boot1.config) ∧
    (partitionBy up 63 = none ∧ mayAssign up 63 [47] = true ∧ up.device = 1) ∧
    (partitionBy livingPart 0 = some { part0 with reassigning := true } ∧ mayAssign livingPart 0 [1] = true ∧
      ∃ l ∈ livingPart.launches, l.partition = 0 ∧ l.ended = false) ∧
    (let s := { withCmds livingPart [cmdSvc] with launches := livingPart.launches.map fun l => { l with ended := true } };
      (∃ d ∈ s.cmds, cmdOfPart s 0 d = true) ∧ ∀ l ∈ s.launches, l.partition = 0 → l.ended = true) := by decide +kernel

/-- Which stream a new partition gets is a free value; one is there. -/
theorem meets_PackagesComeUpAndPartitionsChange_stream : ∃ k, newStream up = some k := by
  have h : 0 < (freeStreams up).length := by decide +kernel
  exact ⟨_, List.getElem?_eq_getElem (Nat.mod_lt _ h)⟩

theorem meets_PackagesComeUpAndPartitionsChange :
    boot0.failStep = none ∧ ({ boot0 with failStep := some 1 } : BootRecord).failStep = some 1 ∧ up.device = 1 ∧ State.reset.device ≠ 1 ∧
    (partitionBy sRe0 part0.number = some part0 ∧ sRe0.device = 1 ∧ mayAssign sRe0 part0.number [0] = true ∧ part0.reassigning = false ∧
      (∀ l ∈ sRe0.launches, l.partition ≠ part0.number) ∧ 0 < part0.buffers) ∧
    (partitionBy sRe partRe.number = some partRe ∧ sRe.device = 1 ∧ mayAssign sRe partRe.number [0] = true ∧ partRe.reassigning = true ∧
      (∀ l ∈ sRe.launches, l.partition ≠ partRe.number) ∧ (∀ c ∈ sRe.cmds, cmdOfPart sRe partRe.number c = false) ∧
      ∀ o ∈ sRe.objects, o.present = true → o.partition ≠ partRe.number) := by decide +kernel

/-- R278's example: four FP32 elements under a bound of 2^−4, of 8 bytes with the directory entry that the manual gives. -/
theorem test_codec_example :
    encodeBlock ⟨f32, true, -4⟩ [0x3F800000, 0x3F900000, 0x3FA00000, 0x3F840000] = [0x02, 0xF0, 0x93, 0, 0, 0, 0, 0] ∧
    decodeBlock ⟨f32, true, -4⟩ 4 [0x02, 0xF0, 0x93, 0, 0, 0, 0, 0] = some [0x3F800000, 0x3F900000, 0x3FA00000, 0x3F800000] ∧
    apartBy f32 0x3F800000 0x3F840000 (-4) = false ∧
    recordField (directory 0 [[0x02, 0xF0, 0x93, 0, 0, 0, 0, 0]]) 0 8 = 0x0001000000000000 := by decide +kernel

end Serving

end Sys2Proof.Tests
end

section
/-!
PROOFS. Nothing stops the machine (R3, R363): every operation, every event and every step answers a next state. What is shared comes
first: the ways in which a meaning goes on (guards, the tests on tiles and banks, commands, queues, services), each of which
answers when what it goes on with does. Then the meanings that branch by themselves, the meaning of every instruction, and at last
the issue of a bundle, a core's cycle and the step, over any run of slot operations that answers.
-/

namespace Sys2Proof.Proofs

open Sys2Proof.Machine Sys2Proof.Laws

/-! ## Answering -/

/-- The outcome is a next state. -/
def Answers (o : Out) : Prop := ∃ t, o = .next t

theorem answers_next (t : State) : Answers (.next t) := ⟨t, rfl⟩

theorem answers_ite {c : Prop} [Decidable c] {a b : Out} (ha : Answers a) (hb : Answers b) : Answers (if c then a else b) := by
  split
  · exact ha
  · exact hb

/-- R363: a trap is taken as a next state, whatever its class. -/
theorem answers_trapOut (s : State) (cls slot detail : Nat) (operand : BitVec 64) : Answers (trapOut s cls slot detail operand) :=
  answers_next _

/-! ## Guards and the tests on tiles and banks -/

theorem answers_guarded {g : BitVec 5} {s : State} {k : Unit → Out} (hk : ∀ u, Answers (k u)) : Answers (guarded g s k) := by
  obtain e | e := guarded_cases g s k
  · exact ⟨s, e⟩
  · rw [e]
    exact hk ()

theorem answers_needTiles {s : State} {slot : Nat} {op : Instr} {ts : List Nat} {k : State → Out} (hk : ∀ t, Answers (k t)) :
    Answers (needTiles s slot op ts k) := by
  obtain e | ⟨_, _, e⟩ | e := needTiles_cases s slot op ts k
  · exact ⟨_, e⟩
  · exact ⟨_, e⟩
  · rw [e]
    exact hk _

theorem answers_writingTile {s : State} {slot t : Nat} {k : Unit → Out} (hk : ∀ u, Answers (k u)) : Answers (writingTile s slot t k) :=
  answers_ite (answers_trapOut ..) (hk ())

theorem answers_tileElement {s : State} {size : Nat} {ix : BitVec 64} {k : Unit → Out} (hk : ∀ u, Answers (k u)) :
    Answers (tileElement s size ix k) :=
  answers_ite (answers_trapOut ..) (hk ())

theorem answers_shadowWrite {s : State} {k : Unit → Out} (hk : ∀ u, Answers (k u)) : Answers (shadowWrite s k) :=
  answers_ite (answers_trapOut ..) (hk ())

theorem answers_accAccess {s : State} {b : BitVec 4} {rows : List Nat} {k : Unit → Out} (hk : ∀ u, Answers (k u)) :
    Answers (accAccess s b rows k) := by
  unfold accAccess
  split
  · exact answers_trapOut ..
  · exact hk ()

theorem answers_bankSound {s : State} {slot : Nat} {b : BitVec 4} {k : Unit → Out} (hk : ∀ u, Answers (k u)) :
    Answers (bankSound s slot b k) :=
  answers_ite (answers_trapOut ..) (hk ())

theorem answers_bankReads {s : State} {b : BitVec 4} {rows : List Nat} {k : State → Out} (hk : ∀ t, Answers (k t)) :
    Answers (bankReads s b rows k) :=
  answers_accAccess fun _ => answers_bankSound fun _ => answers_ite (hk _) (hk _)

theorem answers_bankWrites {s : State} {slot : Nat} {accumulating : Bool} {b : BitVec 4} {rows : List Nat} {k : State → Out}
    (hk : ∀ t, Answers (k t)) : Answers (bankWrites s slot accumulating b rows k) := by
  unfold bankWrites
  split
  · exact answers_trapOut ..
  · exact hk _

theorem answers_accWrites {s : State} {accumulating : Bool} {b : BitVec 4} {rows : List Nat} {k : State → Out}
    (hk : ∀ t, Answers (k t)) : Answers (accWrites s accumulating b rows k) :=
  answers_accAccess fun _ => answers_ite (answers_bankSound fun _ => answers_bankWrites hk) (answers_bankWrites hk)

theorem answers_needTileForRows {s : State} {op : Instr} {accumulating : Bool} {b : BitVec 4} {t : Nat} {rows : List Nat}
    {k : State → Out} (hk : ∀ t, Answers (k t)) : Answers (needTileForRows s op accumulating b t rows k) := by
  unfold needTileForRows
  split
  · exact answers_trapOut ..
  · exact answers_needTiles fun _ => answers_accWrites hk

theorem answers_streamInto (s : State) (op : Instr) (rank : Bool) (b : BitVec 4) (t : Nat) (f : BitVec 4) (acc : AccFmt) (scaled : Bool)
    (rb n : Nat) : Answers (streamInto s op rank b t f acc scaled rb n) :=
  answers_ite (answers_trapOut ..) <| answers_needTiles fun _ => answers_ite (answers_trapOut ..) <|
    answers_ite (answers_trapOut ..) <| answers_bankSound fun _ => answers_bankWrites fun _ => answers_next _

theorem answers_mapRows (s : State) (b : BitVec 4) (rows : List Nat) (f : Nat → Nat → Nat → Nat × Flags) : Answers (mapRows s b rows f) :=
  answers_next _

theorem answers_scaleRows (s : State) (b : BitVec 4) (r : BitVec 6) (v : AccFmt → FVal) : Answers (scaleRows s b r v) :=
  answers_ite (answers_trapOut ..) (answers_accWrites fun _ => answers_mapRows ..)

theorem answers_changeFull (s : State) (op : Instr) (t : Nat) (set : Bool) : Answers (changeFull s op t set) :=
  answers_ite (answers_next _) (answers_ite (answers_next _) (answers_writingTile fun _ => answers_next _))

/-! ## Shapes of scalar and vector operations -/

theorem answers_alu3 (g : BitVec 5) (d a b : BitVec 6) (w : BitVec 3) (signed : Bool) (f : Nat → Nat → Nat → Nat × Flags) (s : State) :
    Answers (alu3 g d a b w signed f s) :=
  answers_guarded fun _ => answers_next _

theorem answers_countBits (g : BitVec 5) (d a : BitVec 6) (w : BitVec 3) (f : Nat → Nat → Nat) (s : State) :
    Answers (countBits g d a w f s) :=
  answers_guarded fun _ => answers_next _

theorem answers_vecFloat (g : BitVec 5) (d a b : BitVec 6) (t : BitVec 2) (mk : BitVec 1)
    (f : FloatFmt → Rounding → Nat → FVal → FVal → FVal → Nat × Flags) (s : State) : Answers (vecFloat g d a b t mk f s) :=
  answers_guarded fun _ => answers_next _

theorem answers_vecCodes (g : BitVec 5) (d a b : BitVec 6) (t : BitVec 2) (mk : BitVec 1) (f : FloatFmt → Nat → Nat → Nat × Flags)
    (s : State) : Answers (vecCodes g d a b t mk f s) :=
  answers_guarded fun _ => answers_next _

theorem answers_vecInt (g : BitVec 5) (d a b : BitVec 6) (w : Nat) (mk : BitVec 1) (f : Nat → Nat → Nat → Nat) (s : State) :
    Answers (vecInt g d a b w mk f s) :=
  answers_guarded fun _ => answers_next _

/-! ## Commands -/

theorem answers_withShape {s : State} {e : BitVec 3} {k : Unit → Out} (hk : ∀ u, Answers (k u)) : Answers (withShape s e k) :=
  answers_ite (hk ()) (answers_trapOut ..)

theorem answers_reproducibleAtomic {s : State} {y : BitVec 3} {k : Unit → Out} (hk : ∀ u, Answers (k u)) :
    Answers (reproducibleAtomic s y k) :=
  answers_ite (answers_trapOut ..) (hk ())

theorem answers_reproducibleStats {s : State} {k : Unit → Out} (hk : ∀ u, Answers (k u)) : Answers (reproducibleStats s k) :=
  answers_ite (answers_trapOut ..) (hk ())

/-- R206: a command is adopted, traps, waits, is issued or is withheld. -/
theorem answers_issueCmd (s : State) (op : Instr) (token : Nat) (cap : Capture) : Answers (issueCmd s op token cap) := by
  unfold issueCmd
  extract_lets
  split
  · exact answers_next _
  · split
    · exact answers_trapOut ..
    · exact answers_ite (answers_trapOut ..) (answers_ite (answers_next _) (answers_ite (answers_next _) (answers_next _)))

theorem answers_issueHandle (g : BitVec 5) (r : BitVec 6) (h : BitVec 5) (op : Instr) (s : State) : Answers (issueHandle g r h op s) :=
  answers_guarded fun _ => answers_issueCmd ..

theorem answers_issueBare (g : BitVec 5) (r : BitVec 6) (op : Instr) (s : State) : Answers (issueBare g r op s) :=
  answers_guarded fun _ => answers_issueCmd ..

theorem answers_issueTile (g : BitVec 5) (t : BitVec 7) (r : BitVec 6) (h : BitVec 5) (mask : Bool) (args : State → List (BitVec 64))
    (op : Instr) (s : State) : Answers (issueTile g t r h mask args op s) :=
  answers_guarded fun _ => answers_needTiles fun _ => answers_issueCmd ..

/-- R181, R182: a transfer waits, traps, is refused with a completion word, or is sent. -/
theorem answers_sendTile (s : State) (op : Instr) (t token : Nat) (dests : List Nat) (outside : Bool) :
    Answers (sendTile s op t token dests outside) := by
  refine answers_ite (answers_next _) (answers_ite (answers_trapOut ..) (answers_needTiles fun u => ?_))
  dsimp only
  split <;> exact answers_next _

/-! ## Queues and services -/

theorem answers_withCmd (s : State) (id : Nat) (f : Cmd → State) : Answers (withCmd s id f) := answers_next _

theorem answers_onEntry (s : State) (n type : Nat) (f : CmdStream → Entry → State) : Answers (onEntry s n type f) := by
  unfold onEntry
  split <;> exact answers_next _

theorem answers_onQueue (s : State) (part : Nat) (f : Partition → State) : Answers (onQueue s part f) := by
  unfold onQueue
  split <;> exact answers_next _

theorem answers_onControl (s : State) (part : Nat) (c : Chain) (op flags n : Nat) (zeros : List (Nat × Nat)) (f : Partition → State) :
    Answers (onControl s part c op flags n zeros f) :=
  answers_onQueue ..

theorem answers_onSpdm (s : State) (part : Nat) (q : SpdmRequest) (code need : Nat) (anyVersion : Bool) (f : State) :
    Answers (onSpdm s part q code need anyVersion f) :=
  answers_onQueue ..

theorem answers_service (call n : Nat) (f : Work) (s : State) : Answers (service call n f s) := by
  unfold service
  split <;> exact answers_next _

/-! ## Slot operations that branch -/

theorem answers_execRet (p : BitVec 1) (c : BitVec 4) (s : State) : Answers (execRet p c s) := by
  unfold execRet
  refine answers_ite (answers_next _) ?_
  split
  · exact answers_trapOut ..
  · exact answers_next _

theorem answers_execGset (g : BitVec 5) (d f : BitVec 3) (a : BitVec 6) (s : State) : Answers (execGset g d f a s) := by
  unfold execGset
  refine answers_guarded fun _ => answers_ite (answers_ite (answers_next _) (answers_trapOut ..)) ?_
  split
  · exact answers_next _
  · exact answers_trapOut ..

theorem answers_execMxs (g : BitVec 5) (b : BitVec 4) (t : BitVec 7) (f : BitVec 4) (r : BitVec 6) (s : State) :
    Answers (execMxs g b t f r s) := by
  unfold execMxs
  refine answers_guarded fun _ => answers_ite (answers_next _) ?_
  split
  · exact answers_trapOut ..
  · exact answers_streamInto ..

/-! ## Cores and contexts -/

theorem answers_execDoldrumsWatchdog (core ctx : Nat) (s : State) : Answers (execDoldrumsWatchdog core ctx s) := by
  unfold execDoldrumsWatchdog
  split
  · split
    · exact answers_next _
    · split <;> exact answers_next _
  · exact answers_next _

theorem answers_execCoreFailure (phys : Nat) (readable : Bool) (s : State) : Answers (execCoreFailure phys readable s) := by
  unfold execCoreFailure
  refine answers_ite (answers_next _) ?_
  split
  · exact answers_next _
  · exact answers_ite (answers_next _) (answers_next _)

theorem answers_execForecastMissResolution (core ctx : Nat) (s : State) : Answers (execForecastMissResolution core ctx s) := by
  unfold execForecastMissResolution
  split
  · split <;> exact answers_next _
  · exact answers_next _

theorem answers_execSwapGraceExpiry (core ctx : Nat) (s : State) : Answers (execSwapGraceExpiry core ctx s) := by
  unfold execSwapGraceExpiry
  split
  · split
    · exact answers_next _
    · exact answers_ite (answers_next _) (answers_next _)
  · exact answers_next _

/-! ## Commands, objects and tiers -/

theorem answers_execHandleResolution (cmd : Nat) (s : State) : Answers (execHandleResolution cmd s) := by
  unfold execHandleResolution
  split
  · exact answers_next _
  · refine answers_ite (answers_next _) ?_
    split <;> exact answers_next _

theorem answers_execMissingObjectResolution (obj : ObjKey) (s : State) : Answers (execMissingObjectResolution obj s) := by
  unfold execMissingObjectResolution
  split
  · exact answers_next _
  · split <;> exact answers_next _

theorem answers_execSpillSwitch (obj : ObjKey) (s : State) : Answers (execSpillSwitch obj s) := by
  unfold execSpillSwitch
  split
  · exact answers_next _
  · split
    · exact answers_next _
    · exact answers_ite (answers_next _) (answers_next _)

theorem answers_execMigrationSwitch (obj : ObjKey) (s : State) : Answers (execMigrationSwitch obj s) := by
  unfold execMigrationSwitch
  split
  · exact answers_next _
  · exact answers_ite (answers_ite (answers_next _) (answers_next _)) (answers_next _)

theorem answers_execServiceRestart (call : Nat) (s : State) : Answers (execServiceRestart call s) := by
  unfold execServiceRestart
  split
  · exact answers_next _
  · split <;> exact answers_next _

/-! ## Teams, launches and streams -/

theorem answers_execTeamSave (launch team : Nat) (s : State) : Answers (execTeamSave launch team s) := by
  unfold execTeamSave
  split
  · exact answers_ite (answers_next _) (answers_next _)
  · exact answers_next _

theorem answers_execDrainTimeout (launch team : Nat) (s : State) : Answers (execDrainTimeout launch team s) := by
  unfold execDrainTimeout
  split
  · split <;> exact answers_next _
  · exact answers_next _

theorem answers_execVersionWaitSatisfied (stream : Nat) (s : State) : Answers (execVersionWaitSatisfied stream s) := by
  unfold execVersionWaitSatisfied
  split
  · exact answers_next _
  · split
    · split <;> exact answers_next _
    · exact answers_next _

theorem answers_execConditionalNode (stream : Nat) (s : State) : Answers (execConditionalNode stream s) := by
  unfold execConditionalNode
  split
  · exact answers_next _
  · exact answers_ite (answers_next _) (answers_onEntry ..)

/-! ## Hosts, power and the package -/

theorem answers_execPowerRelax (s : State) : Answers (execPowerRelax s) := by
  unfold execPowerRelax
  refine answers_ite (answers_next _) (answers_ite ?_ ?_)
  · split <;> exact answers_next _
  · split <;> exact answers_next _

theorem answers_execPartitionReassignment (part : Nat) (clusters : List Nat) (cap : BitVec 16) (s : State) :
    Answers (execPartitionReassignment part clusters cap s) := by
  unfold execPartitionReassignment
  split
  · split <;> exact answers_next _
  · exact answers_ite (answers_next _) (answers_ite (answers_next _) (answers_ite (answers_next _) (answers_next _)))

/-! ## Every instruction -/

/-- Every operation and every event answers. The instructions stand in groups, each with the one way in which its meanings answer. -/
theorem answers_exec (i : Instr) (s : State) : Answers (exec i s) := by
  unfold exec
  cases i with dsimp only
  -- A next state without a test of its own.
  | nop | br | brp | brx | nest | nestReg | rot | chkpt | mark | bar | sstep | wait | yield | exit | setb | emptyTileWaitRetire
  | markStallRetire | barrierSatisfied | superstepSatisfied | waitSatisfied | weightLoadComplete | selectiveAcknowledgement
  | retransmissionTimeout | flitCheckFailure | linkLoss | linkReturn | powerWindowEnd =>
    exact answers_next _
  -- One test, and a next state on both sides.
  | lbrk | packetArrival | packageFailure | duplicatePackageNumber =>
    exact answers_ite (answers_next _) (answers_next _)
  -- The sequencer's traps.
  | trap =>
    exact answers_trapOut ..
  | call =>
    exact answers_ite (answers_next _) (answers_ite (answers_trapOut ..) (answers_next _))
  | lbody =>
    exact answers_ite (answers_trapOut ..) (answers_ite (answers_trapOut ..) (answers_ite (answers_next _) (answers_next _)))
  -- Scalar, index and vector operations.
  | add | sub | mul | mulh | mulhn | div | divn | rem | remn | and | or | xor | andn | shl | shr | sar | rotl | min | max | minn
  | maxn =>
    exact answers_alu3 ..
  | clz | ctz | popc =>
    exact answers_countBits ..
  | vadd | vsub | vmul | vfma | vfms | vfnma | vdiv | vsqrt =>
    exact answers_vecFloat ..
  | vmin | vmax | vabs | vneg | vcpys =>
    exact answers_vecCodes ..
  | viadd | visub | vimul | vimulh | vand | vor | vxor | vnot | vshl | vshr | vsar | vimin | vimax | viminn | vimaxn | vpopc
  | vclz | vmov =>
    exact answers_vecInt ..
  | addi | sext | zext | movi | movk | mov | sel | cmp | pand | por | pnot | s2p | p2s | rdsr | sfadd | sfmul | sffma | sfcmp
  | sfcvt | qset | qadd | qinc | qcmp | qmov | q2s | s2q | hmov | hld | iadd | imovi | nodc | vcmp | vsel | vcvt | vrnd | vbcast
  | vins | vext | vperm | vslide | vzip | vunzip | vcompress | vexpand | vred | vscan | vhist | vqclip | vquant | vdeq | mand
  | mor | mxor | mnot | mpop | mfirst | thdr =>
    exact answers_guarded fun _ => answers_next _
  | wrsr | sfxf | vxf =>
    exact answers_guarded fun _ => answers_ite (answers_trapOut ..) (answers_next _)
  | nodl =>
    exact answers_guarded fun _ => answers_ite (answers_next _) (answers_next _)
  -- The matrix and accumulator ports.
  | mxlw =>
    exact answers_guarded fun _ => answers_ite (answers_next _) <| answers_ite (answers_trapOut ..) <|
      answers_needTiles fun _ => answers_shadowWrite fun _ => answers_next _
  | mxsw =>
    exact answers_guarded fun _ => answers_ite (answers_next _) (answers_ite (answers_trapOut ..) (answers_next _))
  | mxz =>
    exact answers_guarded fun _ => answers_shadowWrite fun _ => answers_next _
  | mxrank =>
    exact answers_guarded fun _ => answers_ite (answers_next _) (answers_streamInto ..)
  | acz | acbias =>
    exact answers_guarded fun _ => answers_accWrites fun _ => answers_mapRows ..
  | acrd =>
    exact answers_guarded fun _ => answers_bankReads fun _ => answers_writingTile fun _ => answers_next _
  | acwr | acadd =>
    exact answers_guarded fun _ => answers_needTileForRows fun _ => answers_mapRows ..
  | acmv =>
    exact answers_guarded fun _ => answers_ite (answers_trapOut ..) <|
      answers_ite (answers_bankReads fun _ => answers_next _) (answers_accWrites fun _ => answers_mapRows ..)
  | acfmt =>
    exact answers_guarded fun _ => answers_ite (answers_next _) (answers_accWrites fun _ => answers_mapRows ..)
  | acscl | acsclE =>
    exact answers_guarded fun _ => answers_scaleRows ..
  -- Tiles.
  | tld =>
    exact answers_guarded fun _ => answers_needTiles fun _ => answers_next _
  | tst | tfill =>
    exact answers_guarded fun _ => answers_writingTile fun _ => answers_next _
  | tlds =>
    exact answers_guarded fun _ => answers_tileElement fun _ => answers_needTiles fun _ => answers_next _
  | tsts =>
    exact answers_guarded fun _ => answers_tileElement fun _ => answers_writingTile fun _ => answers_next _
  | tfree | tsetf =>
    exact answers_guarded fun _ => answers_changeFull ..
  | tfmt =>
    exact answers_guarded fun _ => answers_ite (answers_trapOut ..) (answers_writingTile fun _ => answers_next _)
  | tcopy =>
    exact answers_guarded fun _ => answers_ite (answers_trapOut ..) <| answers_ite
      (answers_ite (answers_trapOut ..) (answers_needTiles fun _ => answers_next _))
      (answers_needTiles fun _ => answers_writingTile fun _ => answers_next _)
  | tpack =>
    exact answers_guarded fun _ => answers_needTiles fun _ => answers_writingTile fun _ => answers_next _
  | tatom =>
    exact answers_guarded fun _ => answers_ite (answers_trapOut ..) <| answers_tileElement fun _ =>
      answers_ite (answers_trapOut ..) (answers_next _)
  | txfer | txferRow | txferAll =>
    exact answers_guarded fun _ => answers_sendTile ..
  -- Engine commands.
  | hopen | hpub | hdisc | hpin | hpinV | hunpin | hsub | hsubV | hunsub | hver | rbind | rtake | rdone | rdoneFail | fcbind
  | ncnt =>
    exact answers_issueHandle ..
  | xref | csnap | cread | fcbindUn =>
    exact answers_issueBare ..
  | tdesc | rput | rputLast | rputUpd | xsend | xsendLast | nsend =>
    exact answers_issueTile ..
  | nexp | svc =>
    exact answers_guarded fun _ => answers_issueCmd ..
  | tgrad =>
    exact answers_guarded fun _ => answers_needTiles fun _ => answers_issueCmd ..
  | hfet | hcopy | hpfl2 | hres | hprobe =>
    exact answers_guarded fun _ => answers_withShape fun _ => answers_issueCmd ..
  | hput | hgat | hsca =>
    exact answers_guarded fun _ => answers_withShape fun _ => answers_needTiles fun _ => answers_issueCmd ..
  | hatom | hatomr | hcas =>
    exact answers_guarded fun _ => answers_reproducibleAtomic fun _ => answers_issueCmd ..
  | rstat | fcstat =>
    exact answers_guarded fun _ => answers_reproducibleStats fun _ => answers_issueCmd ..
  -- Events of commands, streams, queues and services.
  | tileLanding | txferCompletion | commandCompletion | elementAtomic | publishStep | xsendAdmission | descent | routingStep =>
    exact answers_withCmd ..
  | objectOperation | versionWait =>
    exact answers_onEntry ..
  | submitRequest | tenantReport | eventQueueBuffers =>
    exact answers_onQueue ..
  | createHostBuffer | releaseHostBuffer | readObject | service =>
    exact answers_onControl ..
  | getVersion | getCapabilities | negotiateAlgorithms | getDigests | getCertificate | challenge | getMeasurements =>
    exact answers_onSpdm ..
  | null | createObject | destroyObject | createStageSet | createForecastTable | writeHintRecord | retain | markEndpoint
  | registerReceiver | configurePort | migrate | replicate | spill | exportObject | endExport | submit | readCounters =>
    exact answers_service ..
  -- Something is looked for, and found or not.
  | bktj | accumulatorRowUpdate | issueResume | tierPageSwitch | uncorrectableDataRepair | exportReturn | teamStart
  | teamRestore | sliceExpiry | launch | packageReset =>
    dsimp only [execBktj, execAccumulatorRowUpdate, execIssueResume, execTierPageSwitch, execUncorrectableDataRepair,
      execExportReturn, execTeamStart, execTeamRestore, execSliceExpiry, execLaunch, execPackageReset]
    split <;> exact answers_next _
  | forecastAction | shootdownAcknowledge | replicaBuild | saveComplete | restoreComplete | launchTermination | launchCompletion
  | hostBufferEnd | featuresOk =>
    dsimp only [execForecastAction, execShootdownAcknowledge, execReplicaBuild, execSaveComplete, execRestoreComplete,
      execLaunchTermination, execLaunchCompletion, execHostBufferEnd, execFeaturesOk]
    split
    · exact answers_next _
    · exact answers_ite (answers_next _) (answers_next _)
  -- Meanings with branches of their own.
  | ret => exact answers_execRet ..
  | gset => exact answers_execGset ..
  | mxs => exact answers_execMxs ..
  | doldrumsWatchdog => exact answers_execDoldrumsWatchdog ..
  | coreFailure => exact answers_execCoreFailure ..
  | forecastMissResolution => exact answers_execForecastMissResolution ..
  | swapGraceExpiry => exact answers_execSwapGraceExpiry ..
  | handleResolution => exact answers_execHandleResolution ..
  | missingObjectResolution => exact answers_execMissingObjectResolution ..
  | spillSwitch => exact answers_execSpillSwitch ..
  | migrationSwitch => exact answers_execMigrationSwitch ..
  | serviceRestart => exact answers_execServiceRestart ..
  | teamSave => exact answers_execTeamSave ..
  | drainTimeout => exact answers_execDrainTimeout ..
  | versionWaitSatisfied => exact answers_execVersionWaitSatisfied ..
  | conditionalNode => exact answers_execConditionalNode ..
  | powerRelax => exact answers_execPowerRelax ..
  | partitionReassignment => exact answers_execPartitionReassignment ..

/-! ## The step -/

section

variable {run : Instr → State → Out} (h : ∀ i s, Answers (run i s))
include h

theorem answers_runSlots (ops : List Instr) (s : State) : Answers (runSlots run ops s) := by
  induction ops generalizing s with
  | nil => exact answers_next s
  | cons i r ih =>
    obtain ⟨t, ht⟩ := h i s
    simp only [runSlots, ht]
    exact answers_ite (answers_next t) (ih t)

theorem answers_runSeq (i : Instr) (s : State) : Answers (runSeq run i s) := by
  obtain ⟨t, ht⟩ := h i s
  simp only [runSeq, ht]
  exact answers_next _

/-- A bundle ends in a trap of slots 1 to 7, in a trap of the SEQ slot, or in its retirement. -/
theorem answers_issueOps (ops : List Instr) (s : State) : Answers (issueOps run ops s) := by
  obtain ⟨t, ht⟩ := answers_runSlots h (ops.drop 1) (openIssue s ops)
  obtain ⟨u, hu⟩ := answers_runSeq h (ops.headD .nop) t
  simp only [issueOps, ht, hu]
  split
  · exact answers_next _
  · split <;> exact answers_next _

theorem answers_issueBundle (s : State) : Answers (issueBundle run s) := by
  unfold issueBundle
  extract_lets
  split
  · exact answers_next _
  · exact answers_issueOps h ..

theorem answers_coreCycle (s : State) : Answers (coreCycle run s) := by
  unfold coreCycle
  extract_lets s1
  split
  · exact answers_next _
  · rename_i x _
    obtain ⟨t, ht⟩ := answers_issueBundle h (atCtx s1 x)
    simp only [ht]
    exact answers_next _

theorem answers_runEvent (i : Instr) (s : State) : Answers (runEvent run i s) := answers_ite (answers_next s) (h i s)

theorem answers_runTurnOf (t : Turn) (s : State) : Answers (runTurnOf run t s) := by
  cases t with
  | run core => exact answers_coreCycle h _
  | event i => exact answers_runEvent h i s
  | idle | hostWrite | iommu | parity | spoil | correct | lag | reach | defer | load => exact answers_next _

/-- The first event that changes the state answers. -/
theorem answers_of_firstChange {s : State} {l : List Instr} {o : Out} (e : firstChange run s l = some o) : Answers o := by
  induction l with
  | nil => cases e
  | cons i r ih =>
    obtain ⟨t, ht⟩ := h i s
    simp only [firstChange, ht] at e
    split at e
    · exact ih e
    · cases e
      exact answers_next t

theorem answers_ownStep (s : State) : Answers (ownStep run s) := by
  unfold ownStep
  split
  · exact answers_coreCycle h _
  · cases e : firstChange run s (pendingEvents s) with
    | none => exact answers_next _
    | some o => exact answers_of_firstChange h e

theorem answers_stepWith (s : State) : Answers (stepWith run s) := by
  unfold stepWith
  split
  · exact answers_ownStep h s
  · exact answers_runTurnOf h ..

end

/-- Settles O8: every meaning answers, by the cases of the instruction, and the step answers because the run of slot operations that
it is built on does. -/
theorem everyStepAnswersANextState : Obligations.EveryStepAnswersANextState := by
  unfold Obligations.EveryStepAnswersANextState
  exact ⟨fun s => answers_stepWith answers_exec s, answers_exec⟩

end Sys2Proof.Proofs
end
